-- ==== Sys2Proof/Word.lean ====
section
/-! DEFINITION. The word types of the W48: identifiers, addresses and registers of fixed width
(spec/00_scope.md, Coordinates and identifiers). -/

namespace Sys2Proof

/-- One byte. -/
abbrev Byte := BitVec 8
/-- A 32-bit register (R8: registers are 32 bits wide unless their heading says 64). -/
abbrev Word := BitVec 32
/-- A 64-bit register. -/
abbrev DWord := BitVec 64
/-- A Stook word (R62). -/
abbrev Word14 := BitVec 14
/-- A word address in program memory (02, Program counter). -/
abbrev PAddr := BitVec 13
/-- A logical cell ID: row in bits 18:10, column in bits 9:0. -/
abbrev CellId := BitVec 19
/-- A field number, `fy * 8 + fx`. -/
abbrev FieldNo := BitVec 6
/-- A plot ID, 0 to 95, or 127 in the fields that define it (R4). -/
abbrev PlotId := BitVec 7
/-- A latch ID: field in bits 16:11, index in bits 10:0. -/
abbrev LatchId := BitVec 17
/-- A gate ID: field in bits 11:6, gate in bits 5:0. -/
abbrev GateId := BitVec 12
/-- A mill number, 0 to 31. -/
abbrev MillNo := BitVec 5
/-- A granary stack number, 0 to 15. -/
abbrev StackNo := BitVec 4
/-- A PCIe port number. -/
abbrev PortNo := BitVec 1
/-- A mailbox slot number. -/
abbrev SlotNo := BitVec 4
/-- A season. -/
abbrev Season := BitVec 4
/-- A scalar register number (R70). -/
abbrev SReg := BitVec 4
/-- A vector register number (R70). -/
abbrev VReg := BitVec 3
/-- An accumulator number (R70). -/
abbrev AccNo := BitVec 2
/-- An input queue number (R70). -/
abbrev QueueNo := BitVec 3
/-- An output channel number (R70). -/
abbrev ChanNo := BitVec 2
/-- A loop counter number (R70). -/
abbrev CtrNo := BitVec 2
/-- A local event flag number (R70). -/
abbrev FlagNo := BitVec 4
/-- A register pair: `s(2p)` holds bits 31:0, `s(2p+1)` bits 63:32 (R70). -/
abbrev PairNo := BitVec 3
/-- A job rank. -/
abbrev Rank := BitVec 21
/-- A wafer ID. -/
abbrev WaferId := BitVec 12
/-- An address in the space of a mesh destination: 42 bits of cells, stacks and mills (R240), and the window and offset of
the hinge (R289; log entry 71). -/
abbrev MeshAddr := BitVec 54
/-- A flit of 32 B (R233). -/
abbrev Flit256 := BitVec 256
/-- A vector register of 64 B. -/
abbrev Vec512 := BitVec 512

end Sys2Proof
end

