-- ==== Sys2Proof/Syntax.lean ====
section
/-! DEFINITION. The commands of the block: one constructor of `Instr` for each row of
spec/opcode_table.json, with the row's operands. An instruction of a cell's program names the cell
that issues it and the operands that its encoding gives (03). An event names the unit it happens to
and what the outside world contributes to it. -/

namespace Sys2Proof

/-- Element types of R71; code 7 is reserved and has no constructor. -/
inductive ElemType where
  | binary32 | ch16 | ch8e | ch8m | ch6 | ch4 | int32
  deriving DecidableEq, Repr

/-- Block size codes of R72; code 0 is reserved and has no constructor. -/
inductive BlockSize where
  | b16 | b32 | b64
  deriving DecidableEq, Repr

/-- Conditions of R74. -/
inductive Cond where
  | eq | ne | lt | ge | ltu | geu | mi | vs
  deriving DecidableEq, Repr

/-- Pass modes of R91. -/
inductive PassMode where
  | real | cx3 | cx4 | s16x3
  deriving DecidableEq, Repr

/-- The second operand of a scalar instruction: a register, or the extended immediate (R78). -/
inductive Src where
  | reg (b : SReg)
  | imm (v : Word)
  deriving DecidableEq, Repr

/-- The trip count of LOOP (R76): an immediate, or a scalar register. -/
inductive TripCount where
  | imm (n : BitVec 15)
  | reg (s : SReg)
  deriving DecidableEq, Repr

/-- A wain: of a field hub, or of a mill (10, Wains, chains and ownership). -/
inductive WainId where
  | hub (field : FieldNo) (index : BitVec 3)
  | mill (m : MillNo) (index : BitVec 1)
  deriving DecidableEq, Repr

/-- A unit of a cell whose results return out of order across units (R31). -/
inductive ExecUnit where
  | scalar | vector
  deriving DecidableEq, Repr

/-- The five router ports (R233), and the hub's injection port (R251). -/
inductive RPort where
  | north | south | east | west | local | hub
  deriving DecidableEq, Repr

/-- A router input, and whether a bit of the first packet at it was lost on its link (R255). -/
structure PortInput where
  port : RPort
  flip : Bool
  deriving DecidableEq, Repr

/-- One flit of a stream with its class and its sender's season (R197). -/
structure SFlit where
  cls    : BitVec 3
  season : Season
  data   : Flit256
  deriving DecidableEq, Repr

/-- A mesh source or destination: a cell, or a hub unit with its tap (R238, R249). -/
inductive Endpoint where
  | cell (c : CellId)
  | hub (field : FieldNo) (unit : BitVec 6) (tap : BitVec 7)
  deriving DecidableEq, Repr

/-- The latch operations of R263 that travel to a latch unit or back to a cell. -/
inductive LatchOp where
  | set | clr | claim | waitreg | waitdereg | wake | claimresp | waitfull
  deriving DecidableEq, Repr

/-- A Chonel header (R340). -/
structure ChonelHdr where
  pace     : Bool
  jobtag   : BitVec 16
  arg      : Byte
  target   : BitVec 17
  rtag     : BitVec 20
  src      : CellId
  bytes    : Byte
  addr     : BitVec 42
  endpoint : BitVec 18
  kind     : BitVec 2
  dmill    : MillNo
  smill    : MillNo
  swafer   : WaferId
  dwafer   : WaferId
  len      : BitVec 4
  ctype    : BitVec 4
  deriving DecidableEq, Repr

/-- What a packet carries: its type and type word (R239, R240, R264, R420). -/
inductive Body where
  | stream (queue : QueueNo) (dplot : PlotId) (chan : ChanNo) (splot : PlotId) (flits : List SFlit)
  | credit (count : BitVec 13) (season : Season) (chan : ChanNo) (ack : Bool) (plot : PlotId)
  | readReq (addr : MeshAddr) (bytes : BitVec 8) (tag : Byte)
  | writeReq (addr : MeshAddr) (bytes : BitVec 8) (posted : Bool) (tag : Byte) (data : List Byte)
  | readResp (tag : Byte) (data : List Byte)
  | writeAck (tag : Byte)
  | errorResp (tag : Byte) (status : BitVec 4) (data : Bool)
  | latchOp (op : LatchOp) (latch : LatchId) (old : Bool) (deadline : Bool) (remote : Option WaferId) (ctag : BitVec 3)
  | gateOp (complete : Bool) (gate : GateId) (round : BitVec 2) (sender : GateId) (wafer : Option WaferId)
  | event (flag : FlagNo)
  | control (subtype : Byte) (offset : Word) (payload : List Byte)
  /-- a packet from mill to mill over the mesh: a remote request or an answer, with the tag of a request's requester
  (R340, R343; log entry 74) -/
  | forward (hdr : ChonelHdr) (src : Endpoint) (tag : Byte) (data : List Byte)
  | reserved (type : BitVec 4)
  deriving DecidableEq, Repr

/-- Where a packet is bound: a cell or hub, or a multicast span (R249, R258). -/
inductive Dest where
  | unicast (e : Endpoint)
  | multicast (side : Bool) (dir : BitVec 2) (span : BitVec 10)
  | reserved
  deriving DecidableEq, Repr

/-- A mesh packet with the place it has reached (R237, R238, R245, R252). -/
structure Packet where
  /-- SRC of the header -/
  src      : Endpoint
  dest     : Dest
  /-- WAYPT when WPV is 1 -/
  waypt    : Option CellId
  /-- sideband virtual channel -/
  vc       : BitVec 2
  /-- LEN -/
  len      : BitVec 4
  body     : Body
  /-- router that holds the header -/
  pos      : CellId
  /-- input port of that router -/
  inPort   : RPort
  /-- leg class -/
  leg      : Bool
  /-- parity of the packet's flits at this input -/
  parityOk : Bool
  /-- the packet has left the mesh at its endpoint's interface -/
  ejected  : Bool
  deriving DecidableEq, Repr

/-- Who sent a latch operation: a cell, or a unit of a hub, with the wafer of a remote one (R263). -/
inductive OpSource where
  | cell (c : CellId)
  | hub (field : FieldNo) (unit : BitVec 6)
  | remote (wafer : WaferId)
  deriving DecidableEq, Repr

/-- Who sent an arrival: a child gate of this wafer, or a gate of another one (R274). -/
inductive ArriveSource where
  | gate (g : GateId)
  | mill (wafer : WaferId) (g : GateId)
  deriving DecidableEq, Repr

/-- The control field of a Chonel frame (R317). -/
structure FrameCtl where
  spareValid : Bool
  spareLane  : BitVec 5
  groups     : BitVec 4
  cr1        : BitVec 14
  cr0        : BitVec 14
  pace       : Bool
  nak        : Bool
  ack        : BitVec 16
  seq        : BitVec 16
  deriving DecidableEq, Repr

/-- A used slot of a frame: link virtual channel, header mark, flit (R316). -/
structure Slot where
  lvc  : BitVec 2
  head : Bool
  flit : Flit256
  deriving DecidableEq, Repr

/-- What the receiver sees of a codeword: whether it decodes, whether symbols were corrected, and
whether its CRC matches (R313, R316, R323). -/
structure RxQuality where
  decodes   : Bool
  corrected : Bool
  crcOk     : Bool
  /-- the frame's TYPE is not a reserved one (R317) -/
  typeOk    : Bool
  deriving DecidableEq, Repr

/-- What a TIME frame carries: the client's send time, or the server's answer to one with its arrival and send times, in
1/64 tick (R332). -/
inductive TimeMsg where
  | request (t1 : BitVec 70)
  | reply (t1 t2 t3 : BitVec 70)
  deriving DecidableEq, Repr

/-- A TIME frame's message, with the tick of its arrival in 1/64 tick (R332). -/
structure TimeFrame where
  msg     : TimeMsg
  arrived : BitVec 70
  deriving DecidableEq, Repr

/-- What a TRAIN frame says: an announcement of DOWN, the training state, and the lane map where it carries one (R317, R326,
R344). -/
structure TrainMsg where
  down    : Bool
  state   : BitVec 3
  laneMap : List (BitVec 5)
  deriving DecidableEq, Repr

/-- The identity record of a link partner (R330). -/
structure IdentRec where
  vendor  : BitVec 16
  part    : BitVec 16
  serial  : DWord
  mill    : Byte
  version : Byte
  time    : Bool
  switch  : Bool
  thresh  : Bool
  wafer   : WaferId
  loaded  : Bool
  jobtag  : BitVec 16
  /-- receive slots for LVC 0 to 3 -/
  slots   : List Word
  deriving DecidableEq, Repr

/-- An IDENT frame that arrives on a group, with its control field, how it was read, and its record (R317, R330). -/
structure IdentFrame where
  g   : BitVec 2
  ctl : FrameCtl
  rx  : RxQuality
  id  : IdentRec
  deriving DecidableEq, Repr

/-- A remote request at a mill: the envelope of R339, its requester and its data. -/
structure RemoteReq where
  src    : Endpoint
  tag    : Byte
  addr   : BitVec 42
  rank   : Rank
  latch  : Option LatchId
  data   : List Byte
  deriving DecidableEq, Repr

/-- A location of a threshing failure with its cause (R354, R365). -/
structure ThrFail where
  cause : BitVec 4
  wafer : WaferId
  mill  : MillNo
  level : BitVec 4
  input : BitVec 4
  deriving DecidableEq, Repr

/-- A unit that FENCE or REJOIN names (R452). -/
inductive FenceUnit where
  | cell (c : CellId)
  | link (c : CellId) (port : BitVec 2)
  | mill (m : MillNo)
  deriving DecidableEq, Repr

/-- The rectangle of logical cells of a row broadcast, or none for every cell (R436). -/
structure Rect where
  lxLo : BitVec 10
  lxHi : BitVec 10
  lyLo : BitVec 9
  lyHi : BitVec 9
  deriving DecidableEq, Repr

/-- The halves of a write to a 64-bit register (R10). -/
inductive RegWrite where
  | low (v : Word)
  | high (v : Word)
  | full (v : DWord)
  deriving DecidableEq, Repr

/-- Who accesses a register block (R10): a PCIe port, a cell, a hub or the ward. -/
inductive Requester where
  | port (p : PortNo)
  | cell (c : CellId)
  | hub (f : FieldNo)
  | ward
  deriving DecidableEq, Repr

/-- One field's activity counts of an estimator interval, classes 0 to 11 (R480, R481). -/
structure Activity where
  field  : FieldNo
  counts : List Nat
  deriving DecidableEq, Repr

/-- What a self-test finds on one physical cell (R425): true where its COMP, or its RTR, fails. Cells not
listed pass both. -/
structure Verdict where
  field : FieldNo
  row   : BitVec 6
  col   : BitVec 7
  comp  : Bool
  rtr   : Bool
  deriving DecidableEq, Repr

/-- A command: one row of spec/opcode_table.json. -/
inductive Instr where
  -- fetch and completion of a cell (02, 03)
  | fetch (c : CellId)
  | arithTrap (c : CellId)
  | unitCompletion (c : CellId) (u : ExecUnit)
  -- control, major 0x0 (R75)
  | nop (c : CellId)
  | ret (c : CellId)
  | jr (c : CellId) (s : SReg)
  | callr (c : CellId) (s : SReg)
  | lexit (c : CellId) (k : CtrNo)
  | b (c : CellId) (disp : PAddr)
  | call (c : CellId) (disp : PAddr)
  | bcc (c : CellId) (cond : Cond) (disp : PAddr)
  | loop (c : CellId) (k : CtrNo) (len : BitVec 11) (n : TripCount)
  -- scalar ALU, majors 0x1 and 0x2 (R78, R79)
  | add (c : CellId) (d a : SReg) (x : Src)
  | addi (c : CellId) (d : SReg) (imm : BitVec 6)
  | sub (c : CellId) (d a : SReg) (b : SReg)
  | mov (c : CellId) (d : SReg) (x : Src)
  | movh (c : CellId) (d : SReg) (imm : BitVec 16)
  | cmp (c : CellId) (a : SReg) (x : Src)
  | and (c : CellId) (d a : SReg) (x : Src)
  | or (c : CellId) (d a : SReg) (x : Src)
  | xor (c : CellId) (d a : SReg) (x : Src)
  | shl (c : CellId) (d a : SReg) (x : Src)
  | shr (c : CellId) (d a : SReg) (x : Src)
  | sra (c : CellId) (d a : SReg) (x : Src)
  | mul (c : CellId) (d a : SReg) (x : Src)
  | mulh (c : CellId) (d a : SReg) (b : SReg)
  | min (c : CellId) (d a : SReg) (x : Src)
  | max (c : CellId) (d a : SReg) (x : Src)
  | minu (c : CellId) (d a : SReg) (x : Src)
  | maxu (c : CellId) (d a : SReg) (x : Src)
  -- scalar loft access, major 0x3 (R81)
  | lw (c : CellId) (r a : SReg) (x : Int)
  | lh (c : CellId) (r a : SReg) (x : Int)
  | sw (c : CellId) (r a : SReg) (x : Int)
  | sh (c : CellId) (r a : SReg) (x : Int)
  -- queues, major 0x4 (R82)
  | pop (c : CellId) (vec : Bool) (r : BitVec 4) (q : QueueNo)
  | peek (c : CellId) (vec : Bool) (r : BitVec 4) (q : QueueNo)
  | push (c : CellId) (vec : Bool) (r : BitVec 4) (o : ChanNo)
  | drop (c : CellId) (q : QueueNo)
  -- events and sync, major 0x5 (R83)
  | waiteFlag (c : CellId) (k : FlagNo)
  | waiteLatch (c : CellId) (l : SReg)
  | waiteDFlag (c : CellId) (k : FlagNo) (p : PairNo) (d : SReg)
  | waiteDLatch (c : CellId) (l : SReg) (p : PairNo) (d : SReg)
  | waitt (c : CellId) (p : PairNo)
  | waittDeadline (c : CellId)
  | waiteDDeadline (c : CellId)
  | setl (c : CellId) (l : SReg)
  | clrl (c : CellId) (l : SReg)
  | claim (c : CellId) (d l : SReg)
  | sende (c : CellId) (t : SReg) (k : FlagNo)
  -- vector arithmetic, major 0x6 (R86)
  | vadd (c : CellId) (t : ElemType) (d a b : VReg)
  | vsub (c : CellId) (t : ElemType) (d a b : VReg)
  | vmul (c : CellId) (t : ElemType) (d a b : VReg)
  | vfma (c : CellId) (t : ElemType) (d a b : VReg)
  | vfnma (c : CellId) (t : ElemType) (d a b : VReg)
  | vmin (c : CellId) (t : ElemType) (d a b : VReg)
  | vmax (c : CellId) (t : ElemType) (d a b : VReg)
  | vceq (c : CellId) (t : ElemType) (d a b : VReg)
  | vclt (c : CellId) (t : ElemType) (d a b : VReg)
  | vcle (c : CellId) (t : ElemType) (d a b : VReg)
  | vand (c : CellId) (d a b : VReg)
  | vor (c : CellId) (d a b : VReg)
  | vxor (c : CellId) (d a b : VReg)
  | twosum (c : CellId) (d a b : VReg)
  | twoprod (c : CellId) (d a b : VReg)
  -- vector memory, conversion and blocks, major 0x7 (R87)
  | vld (c : CellId) (d : VReg) (a : SReg) (x : Int)
  | vst (c : CellId) (v : VReg) (a : SReg) (x : Int)
  | vcvt (c : CellId) (part : BitVec 3) (src dst : ElemType) (d a : VReg)
  | vbenc (c : CellId) (bs : BlockSize) (t : ElemType) (s : SReg) (part : BitVec 3) (x y : VReg)
  | vbdec (c : CellId) (bs : BlockSize) (t : ElemType) (s : SReg) (part : BitVec 3) (x y : VReg)
  -- matrix array, major 0x8 (R90, R91)
  | mldw (c : CellId) (a : SReg) (t : ElemType)
  | shadowFull (c : CellId)
  | mswap (c : CellId)
  | mms (c : CellId) (acc : AccNo) (tr : Bool) (a : SReg) (it : ElemType) (accum : Bool) (pm : PassMode) (shape : SReg)
  | mmt (c : CellId) (acc : AccNo) (a : SReg) (it wt : ElemType) (accum : Bool) (pm : PassMode) (w shape : SReg)
  | productComplete (c : CellId)
  | mwb (c : CellId) (acc : AccNo) (a : SReg) (dt : ElemType) (pair keep : Bool) (shape : SReg)
  | mwbComplete (c : CellId)
  | mclr (c : CellId) (acc : AccNo)
  -- counters and tokens, major 0x9 (R94)
  | crd (c : CellId) (k : CtrNo) (s : SReg)
  | cwr (c : CellId) (k : CtrNo) (s : SReg)
  | tpush (c : CellId) (o : ChanNo) (kind : BitVec 2) (code : BitVec 4)
  | ttest (c : CellId) (d : SReg) (q : QueueNo)
  -- wain issue, major 0xB (R96)
  | wgo (c : CellId) (w : BitVec 3) (a : SReg)
  | wstat (c : CellId) (w : BitVec 3) (d : SReg)
  -- system, major 0xC (R97)
  | csrr (c : CellId) (d : SReg) (off : BitVec 16)
  | csrw (c : CellId) (s : SReg) (off : BitVec 16)
  | tret (c : CellId)
  | tretSkip (c : CellId)
  | halt (c : CellId)
  | trap (c : CellId) (code : BitVec 6)
  -- queues and the mesh (07, 08)
  | stream (c : CellId) (src : CellId) (q : QueueNo) (dplot : PlotId) (chan : ChanNo) (splot : PlotId) (flits : List SFlit)
  | credit (c : CellId) (count : BitVec 13) (season : Season) (chan : ChanNo) (ack : Bool) (plot : PlotId) (src : CellId) (q : QueueNo)
  | creditReturn (c : CellId) (q : QueueNo)
  | spillRefill (c : CellId) (q : QueueNo)
  | packetForward (r : CellId) (x : PortInput)
  | linkInitComplete (c : CellId) (port : BitVec 2)
  | stitchLockError (c : CellId) (port : BitVec 2)
  | readReq (src dst : Endpoint) (tag : Byte) (addr : MeshAddr) (bytes : BitVec 8)
  | writeReq (src dst : Endpoint) (tag : Byte) (addr : MeshAddr) (posted : Bool) (data : List Byte)
  | readResp (dst : Endpoint) (tag : Byte) (data : List Byte)
  | writeAck (dst : Endpoint) (tag : Byte)
  | errorResp (dst : Endpoint) (tag : Byte) (status : BitVec 4) (data : Bool)
  | event (c : CellId) (k : FlagNo)
  -- latches and gates (09)
  | latchOpSet (l : LatchId) (src : OpSource)
  | latchOpClr (l : LatchId) (src : OpSource)
  | latchOpClaim (l : LatchId) (c : CellId) (ctag : BitVec 3)
  | waitreg (l : LatchId) (c : CellId) (deadline : Bool)
  | waitdereg (l : LatchId) (c : CellId)
  | wake (c : CellId) (l : LatchId)
  | claimresp (c : CellId) (ctag : BitVec 3) (old : Bool)
  | waitfull (c : CellId) (l : LatchId)
  | waitregRetry (c : CellId)
  | arrive (g : GateId) (src : ArriveSource) (round : BitVec 2)
  | complete (g : GateId) (round : BitVec 2)
  | gateTimeout (g : GateId)
  | gateEnable (g : GateId)
  | gateDisable (g : GateId)
  | remoteLatchHandoff (m : MillNo)
  | tallyPeriod
  | tallyCapture
  | syncDumpCapture
  -- wains, loft and granary (10, 06)
  | descriptorFetch (w : WainId)
  | wainRangeRegister (w : WainId)
  | wainPacketIssue (w : WainId)
  | mapEntryRead (w : WainId)
  | wainFaulted (w : WainId)
  | descriptorComplete (w : WainId)
  | correctedWriteBack (c : CellId)
  | loftPatrolScrub (c : CellId) (word : BitVec 17)
  | granaryPatrolScrub (s : StackNo) (unit : BitVec 32)
  | scrubComplete (c : CellId)
  -- plots and faults (07, 16)
  | cycleStall (p : PlotId)
  | dryEnd (p : PlotId)
  | scanCapture (p : PlotId) (scanFail : Option CellId)
  | cellProbe (f : FieldNo) (silent : List CellId) (routerDead : List CellId)
  | fieldTrip (f : FieldNo) (vcell vloft : BitVec 16)
  -- Chonel links (11)
  | data (m : MillNo) (g : BitVec 2) (ctl : FrameCtl) (rx : RxQuality) (slots : List Slot)
  | idle (m : MillNo) (g : BitVec 2) (ctl : FrameCtl) (rx : RxQuality)
  | train (m : MillNo) (g : BitVec 2) (ctl : FrameCtl) (rx : RxQuality) (msg : TrainMsg)
  | ident (m : MillNo) (x : IdentFrame)
  | time (m : MillNo) (g : BitVec 2) (ctl : FrameCtl) (rx : RxQuality) (x : TimeFrame)
  | frameSend (m : MillNo) (g : BitVec 2)
  | ackTimerReplay (m : MillNo)
  | linkLoss (m : MillNo)
  | laneFailure (m : MillNo) (lane : BitVec 5)
  | linkStepTimeout (m : MillNo)
  | linkRetry (m : MillNo)
  | probeMode (m : MillNo)
  | probeBurst (m : MillNo)
  | timeExchange (m : MillNo)
  -- remote traffic (11)
  | remoteRequest (m : MillNo) (r : RemoteReq)
  | remoteTimeout (m : MillNo) (index : BitVec 12)
  | write (m : MillNo) (h : ChonelHdr) (bytes : List Byte)
  | rack (m : MillNo) (h : ChonelHdr)
  | rnak (m : MillNo) (h : ChonelHdr)
  | latch (m : MillNo) (h : ChonelHdr)
  | gate (m : MillNo) (h : ChonelHdr)
  -- threshing (12)
  | threshStepStart (m : MillNo)
  | harvestComplete (m : MillNo)
  | up (m : MillNo) (h : ChonelHdr) (elems : List (BitVec 96 × BitVec 13))
  | upend (m : MillNo) (h : ChonelHdr) (checksum : DWord)
  | abort (m : MillNo) (h : ChonelHdr) (f : ThrFail)
  | down (m : MillNo) (h : ChonelHdr) (elems : List Word)
  | downend (m : MillNo) (h : ChonelHdr) (crc : Word)
  | stop (m : MillNo) (h : ChonelHdr) (f : ThrFail)
  | rerun (m : MillNo) (h : ChonelHdr)
  | nodeTimeout (m : MillNo)
  | winnow (m : MillNo)
  | threshStatusRecord (m : MillNo)
  -- CONTROL packets of the ward and row broadcasts (R420, R436)
  | tableWrite (src : Endpoint) (c : CellId) (offset : Word) (payload : List Byte)
  | hubRegisterWrite (src : Endpoint) (f : FieldNo) (offset : BitVec 16) (payload : List Byte)
  | fenceNotice (src : Endpoint) (u : FenceUnit)
  | pmem (src : Endpoint) (f : FieldNo) (rect : Option Rect) (addr : PAddr) (words : List Word14)
  | vecdef (src : Endpoint) (f : FieldNo) (rect : Option Rect)
  | nitab (src : Endpoint) (f : FieldNo) (rect : Option Rect) (offset : Word) (payload : List Byte)
  | scrub (src : Endpoint) (f : FieldNo) (rect : Option Rect)
  -- mailboxes (14): port and slot of the message that the ward carries out
  | slotPost (p : PortNo) (n : SlotNo)
  | slotFree (p : PortNo) (n : SlotNo)
  | identify (p : PortNo) (n : SlotNo)
  | mapQuery (p : PortNo) (n : SlotNo)
  | mapRebuild (p : PortNo) (n : SlotNo)
  | planLoad (p : PortNo) (n : SlotNo)
  | planUnload (p : PortNo) (n : SlotNo)
  | plotStart (p : PortNo) (n : SlotNo)
  | plotStopHalt (p : PortNo) (n : SlotNo)
  | plotStopDry (p : PortNo) (n : SlotNo)
  | plotScanOut (p : PortNo) (n : SlotNo)
  | plotScanIn (p : PortNo) (n : SlotNo)
  | plotMove (p : PortNo) (n : SlotNo)
  | plotReset (p : PortNo) (n : SlotNo)
  | hostWindowAdd (p : PortNo) (n : SlotNo)
  | hostWindowDel (p : PortNo) (n : SlotNo)
  | viewportSet (p : PortNo) (n : SlotNo)
  | granaryMap (p : PortNo) (n : SlotNo)
  | faultResume (p : PortNo) (n : SlotNo)
  | latchSet (p : PortNo) (n : SlotNo)
  | syncDump (p : PortNo) (n : SlotNo)
  | tallyRead (p : PortNo) (n : SlotNo)
  | tallyConfig (p : PortNo) (n : SlotNo)
  | powerLimitSet (p : PortNo) (n : SlotNo)
  | throttleLogRead (p : PortNo) (n : SlotNo)
  | dormantEnter (p : PortNo) (n : SlotNo)
  | dormantExit (p : PortNo) (n : SlotNo)
  | fwStage (p : PortNo) (n : SlotNo)
  | fwActivate (p : PortNo) (n : SlotNo)
  | activateRestart
  | fwConfirm (p : PortNo) (n : SlotNo)
  | licenceInstall (p : PortNo) (n : SlotNo)
  | attest (p : PortNo) (n : SlotNo)
  | fence (p : PortNo) (n : SlotNo)
  | rejoin (p : PortNo) (n : SlotNo)
  | rejoinLinkTimeout (c : CellId) (port : BitVec 2)
  | ledgerRead (p : PortNo) (n : SlotNo)
  | ledgerRevive (p : PortNo) (n : SlotNo)
  | stewardClaim (p : PortNo) (n : SlotNo)
  | stewardRelease (p : PortNo) (n : SlotNo)
  | heartbeat (p : PortNo) (n : SlotNo)
  | stewardLapse
  | residentDeclare (p : PortNo) (n : SlotNo)
  | residentRelease (p : PortNo) (n : SlotNo)
  | warmReset (p : PortNo) (n : SlotNo)
  | computeReset (p : PortNo) (n : SlotNo)
  -- host accesses (14)
  | bar2Read (p : PortNo) (offset : BitVec 36) (len : BitVec 13)
  | bar2Write (p : PortNo) (offset : BitVec 36) (bytes : List Byte)
  | noticeConsWrite (p : PortNo) (v : Word)
  | hgRankWr (p : PortNo) (w : RegWrite)
  | hgRouteWr (p : PortNo) (w : RegWrite)
  | ckSscWrite (p : PortNo) (v : Word)
  | ckClkmonWrite (p : PortNo) (v : Word)
  | registerWrite (r : Requester) (offset : BitVec 26) (w : RegWrite)
  | portReset (p : PortNo)
  | perstAssert (p : PortNo)
  | perstDeassert (p : PortNo)
  | wardRestart
  | wardFirmwareStart
  -- bring-up (15)
  | coldBringup
  | crystalCheck
  | stabilityWindow (xa xb : BitVec 18) (xbOverXa : BitVec 18)
  | fieldPowerUp (f : FieldNo) (vcell vloft : BitVec 16)
  | linkTraining (failed : List (CellId × BitVec 2)) (stacksFailed : List StackNo)
  | selfTest (verdicts : List Verdict) (hubFail : List FieldNo) (extendedPass : List (FieldNo × BitVec 6 × BitVec 7))
  | mapBuild
  | hubTableBroadcast
  | ready
  -- pins, power, heat and clocks (17, 18, 20)
  | warmAssert
  | coolantStop
  | coolOkRise
  | tempSensorRead (f : FieldNo) (sensors : List (BitVec 16))
  | estimatorInterval (acts : List Activity)
  | supplyAlert (f : Option FieldNo)
  | supplyAlertClear (f : Option FieldNo)
  | powerLoss
  | crystalFail
  | holdoverTimeout
  | loopLockLoss (domain : BitVec 6)
  | fieldLoopRelock (f : FieldNo)
  | i3cRead (index : Byte) (count : Byte)
  | bypass
  | idcode
  | samplePreload
  | extest
  -- matrix, link and register events added later to the table
  | lastInputRowTaken (c : CellId)
  | stagingComplete (c : CellId)
  | laneLock (m : MillNo) (lane : BitVec 5)
  | alignmentBlock (m : MillNo) (lane : BitVec 5) (phys : BitVec 5) (group : BitVec 2)
  | lightReturn (m : MillNo)
  | registerRead (r : Requester) (offset : BitVec 26) (wide : Bool)
  | warmDeassert
  | rootLoopRelock
  | sscPeriodStart
  | cellInternalCheck (c : CellId)
  | hostCompletion (w : WainId) (tag : Byte) (ok : Bool) (bytes : List Byte)
  | pcieLinkDown (p : PortNo)
  | pcieLinkUp (p : PortNo) (width : BitVec 4) (speed : BitVec 3)
  | dynamicAddressAssignment (a : BitVec 7)
  | rankBroadcastDone
  deriving DecidableEq, Repr

end Sys2Proof
end

