-- ==== Sys2Proof/Machine/Stook.lean ====
section
/-! DEFINITION. The Stook encoding (03): from an instruction's words to its command, with the reserved
encodings told apart by their cause. -/

namespace Sys2Proof.Machine

/-- Bits hi:lo of a number. -/
def fld (x hi lo : Nat) : Nat := x / 2 ^ lo % 2 ^ (hi + 1 - lo)

/-- The signed value of the low `w` bits. -/
def sxt (w x : Nat) : Int :=
  if 2 ^ w ≤ 2 * (x % 2 ^ w) then (x % 2 ^ w : Int) - 2 ^ w else x % 2 ^ w

/-- Type codes (R71). -/
def typeOf : Nat → Option ElemType
  | 0 => some .binary32
  | 1 => some .ch16
  | 2 => some .ch8e
  | 3 => some .ch8m
  | 4 => some .ch6
  | 5 => some .ch4
  | 6 => some .int32
  | _ => none

/-- Block size codes (R72). -/
def blockOf : Nat → Option BlockSize
  | 1 => some .b16
  | 2 => some .b32
  | 3 => some .b64
  | _ => none

/-- Groups of 16 elements in a block (R89). -/
def blockGroups : BlockSize → Nat
  | .b16 => 1
  | .b32 => 2
  | .b64 => 4

/-- Conditions (R74). -/
def condOf : Nat → Cond
  | 0 => .eq
  | 1 => .ne
  | 2 => .lt
  | 3 => .ge
  | 4 => .ltu
  | 5 => .geu
  | 6 => .mi
  | _ => .vs

/-- Pass modes (R91). -/
def passOf : Nat → PassMode
  | 0 => .real
  | 1 => .cx3
  | 2 => .cx4
  | _ => .s16x3

/-- A group of 16 packed elements, in units of 8 B; none for a 4-byte type (R73). -/
def groupUnits : ElemType → Option Nat
  | .ch16 => some 4
  | .ch8e => some 2
  | .ch8m => some 2
  | .ch6 => some 2
  | .ch4 => some 1
  | _ => none

/-- The part suits `n` consecutive groups of the type (R73, R89). A type that is not packed has no parts: any part is
accepted and ignored there, also where neither side of a VCVT is packed (DESIGN CHOICE, log entry 67). -/
def partOk (t : ElemType) (part n : Nat) : Bool :=
  match groupUnits t with
  | none => true
  | some g => part % g == 0 && part + n * g ≤ 8

/-- Types of vector arithmetic (R86). -/
def vecType (code : Nat) : Option ElemType := if code ≤ 3 then typeOf code else none

/-- Types of the matrix array (R71). -/
def matType (code : Nat) : Option ElemType := if 1 ≤ code && code ≤ 5 then typeOf code else none

/-- Type groups of R93. -/
def typeGroup : ElemType → Nat
  | .ch16 => 1
  | .ch8e => 2
  | .ch8m => 2
  | .ch6 => 2
  | .ch4 => 3
  | _ => 0

/-- `i` when the condition holds, else a reserved encoding. -/
def okIf (b : Bool) (i : Instr) : Option Instr := if b then some i else none

def sr (x : Nat) : SReg := BitVec.ofNat 4 x
def vr (x : Nat) : VReg := BitVec.ofNat 3 x

/-- Major 0x0 (R75, R76): payload `p`, `np` prefixes, extension `x`. -/
def decControl (c : CellId) (p np x : Nat) : Option Instr :=
  match fld p 9 8 with
  | 0 =>
    if np ≠ 0 then none else
    match fld p 7 6 with
    | 0 => okIf (fld p 5 0 == 0) (.nop c)
    | 1 => okIf (fld p 5 0 == 0) (.ret c)
    | 2 => okIf (!p.testBit 4)
        (if p.testBit 5 then .callr c (sr (fld p 3 0)) else .jr c (sr (fld p 3 0)))
    | _ => okIf (fld p 5 2 == 0) (.lexit c (BitVec.ofNat 2 (fld p 1 0)))
  | 1 =>
    let d := BitVec.ofInt 13 (sxt (7 + 10 * np) (x * 2 ^ 7 + fld p 6 0))
    okIf (np ≤ 1) (if p.testBit 7 then .call c d else .b c d)
  | 2 =>
    okIf (np ≤ 1) (.bcc c (condOf (fld p 7 5))
      (BitVec.ofInt 13 (sxt (5 + 10 * np) (x * 2 ^ 5 + fld p 4 0))))
  | _ =>
    let k := BitVec.ofNat 2 (fld p 7 6)
    let len := BitVec.ofNat 11 (fld x 9 0 + 1)
    if np = 0 then none
    else if p.testBit 5 then
      okIf (!p.testBit 4 && fld x 19 10 == 0) (.loop c k len (.reg (sr (fld p 3 0))))
    else some (.loop c k len (.imm (BitVec.ofNat 15 (fld x 19 10 * 32 + fld p 4 0))))

/-- Major 0x1 (R78, R79). -/
def decAluReg (c : CellId) (p np x : Nat) : Option Instr :=
  let d := sr (fld p 7 4)
  match np with
  | 0 =>
    let b := sr (fld p 3 0)
    some (match fld p 9 8 with
      | 0 => .add c d d (.reg b)
      | 1 => .sub c d d b
      | 2 => .mov c d (.reg b)
      | _ => .cmp c d (.reg b))
  | 1 =>
    let a := sr (fld p 3 0)
    let b := sr (fld x 3 0)
    if fld x 9 6 ≠ 0 then none else
    match fld x 5 4 * 4 + fld p 9 8 with
    | 0 => some (.add c d a (.reg b))
    | 1 => some (.sub c d a b)
    | 2 => none
    | 3 => some (.cmp c a (.reg b))
    | 4 => some (.and c d a (.reg b))
    | 5 => some (.or c d a (.reg b))
    | 6 => some (.xor c d a (.reg b))
    | 7 => some (.shl c d a (.reg b))
    | 8 => some (.shr c d a (.reg b))
    | 9 => some (.sra c d a (.reg b))
    | 10 => some (.mul c d a (.reg b))
    | 11 => some (.mulh c d a b)
    | 12 => some (.min c d a (.reg b))
    | 13 => some (.max c d a (.reg b))
    | 14 => some (.minu c d a (.reg b))
    | _ => some (.maxu c d a (.reg b))
  | _ => none

/-- Major 0x2 (R78, R79). -/
def decAluImm (c : CellId) (p np x : Nat) : Option Instr :=
  let d := sr (fld p 9 6)
  if np = 0 then some (.addi c d (BitVec.ofNat 6 (fld p 5 0)))
  else
    let op := fld x 9 6
    let lowImm := fld x 5 0 * 64 + fld p 5 0
    let imm := if np = 1 then sxt 12 lowImm else sxt 22 (fld x 19 10 * 4096 + lowImm)
    let v : Src := .imm (BitVec.ofInt 32 imm)
    match op with
    | 0 => some (.add c d d v)
    | 1 => some (.movh c d (BitVec.ofInt 16 imm))
    | 2 => some (.mov c d v)
    | 3 => some (.cmp c d v)
    | 4 => some (.and c d d v)
    | 5 => some (.or c d d v)
    | 6 => some (.xor c d d v)
    | 7 => some (.shl c d d v)
    | 8 => some (.shr c d d v)
    | 9 => some (.sra c d d v)
    | 10 => some (.mul c d d v)
    | 11 => none
    | 12 => some (.min c d d v)
    | 13 => some (.max c d d v)
    | 14 => some (.minu c d d v)
    | _ => some (.maxu c d d v)

/-- The signed extension value of `np` prefixes, 0 with none (R81). -/
def extInt (np x : Nat) : Int := if np = 0 then 0 else sxt (10 * np) x

/-- Major 0x3 (R81). -/
def decLoft (c : CellId) (p np x : Nat) : Option Instr :=
  let r := sr (fld p 7 4)
  let a := sr (fld p 3 0)
  let v := extInt np x
  some (match fld p 9 8 with
    | 0 => .lw c r a v
    | 1 => .sw c r a v
    | 2 => .lh c r a v
    | _ => .sh c r a v)

/-- Major 0x4 (R82). -/
def decQueue (c : CellId) (p np : Nat) : Option Instr :=
  let vec := p.testBit 7
  let r := BitVec.ofNat 4 (fld p 6 3)
  let q := BitVec.ofNat 3 (fld p 2 0)
  if np ≠ 0 then none
  else match fld p 9 8 with
    | 0 => okIf (!(vec && p.testBit 6)) (.pop c vec r q)
    | 1 => okIf (!(vec && p.testBit 6)) (.peek c vec r q)
    | 2 => okIf (!(vec && p.testBit 6) && !p.testBit 2) (.push c vec r (BitVec.ofNat 2 (fld p 1 0)))
    | _ => okIf (fld p 7 3 == 0) (.drop c q)

/-- Major 0x5 (R83). -/
def decEvent (c : CellId) (p np x : Nat) : Option Instr :=
  let l := sr (fld p 3 0)
  let plain := np == 0 && fld p 5 4 == 0
  let xp := BitVec.ofNat 3 (fld x 6 4)
  let xd := sr (fld x 3 0)
  match fld p 9 8 with
  | 0 => okIf plain (match fld p 7 6 with
    | 0 => .waiteFlag c l
    | 1 => .waiteLatch c l
    | 2 => .setl c l
    | _ => .clrl c l)
  | 1 => match fld p 7 6 with
    | 0 => okIf (np == 1 && fld p 5 4 == 0 && fld x 9 7 == 0) (.waiteDFlag c l xp xd)
    | 1 => okIf (np == 1 && fld p 5 4 == 0 && fld x 9 7 == 0) (.waiteDLatch c l xp xd)
    | 2 => okIf (np == 0 && fld p 5 3 == 0) (.waitt c (BitVec.ofNat 3 (fld p 2 0)))
    | _ => none
  | 2 => okIf (np == 0) (.claim c (sr (fld p 7 4)) l)
  | _ => okIf (np == 0) (.sende c (sr (fld p 7 4)) l)

/-- Major 0x6 (R85, R86). -/
def decVec (c : CellId) (p np x : Nat) : Option Instr :=
  let d := vr (fld p 5 3)
  let va := vr (fld p 2 0)
  let op := fld p 9 6
  let a := if np = 0 then d else va
  let b := if np = 0 then va else vr (fld x 2 0)
  let tc := if np = 0 then 0 else fld x 5 3
  if 2 ≤ np || (np == 1 && fld x 9 6 != 0) then none
  else match vecType tc with
    | none => none
    | some t =>
      let only0 := tc == 0
      match op with
      | 0 => some (.vadd c t d a b)
      | 1 => some (.vsub c t d a b)
      | 2 => some (.vmul c t d a b)
      | 3 => okIf (np == 1) (.vfma c t d a b)
      | 4 => okIf (np == 1) (.vfnma c t d a b)
      | 5 => some (.vmin c t d a b)
      | 6 => some (.vmax c t d a b)
      | 7 => some (.vceq c t d a b)
      | 8 => some (.vclt c t d a b)
      | 9 => some (.vcle c t d a b)
      | 10 => okIf only0 (.vand c d a b)
      | 11 => okIf only0 (.vor c d a b)
      | 12 => okIf only0 (.vxor c d a b)
      | 13 => okIf (only0 && d.toNat % 2 == 0) (.twosum c d a b)
      | 14 => okIf (only0 && d.toNat % 2 == 0) (.twoprod c d a b)
      | _ => none

/-- Major 0x7 (R87 to R89). -/
def decVecMem (c : CellId) (p np x : Nat) : Option Instr :=
  match fld p 9 8 with
  | 0 => okIf (!p.testBit 4) (.vld c (vr (fld p 7 5)) (sr (fld p 3 0)) (extInt np x))
  | 1 => okIf (!p.testBit 4) (.vst c (vr (fld p 7 5)) (sr (fld p 3 0)) (extInt np x))
  | 2 =>
    let part := fld x 8 6
    match typeOf (fld x 5 3), typeOf (fld x 2 0) with
    | some s, some t =>
      okIf (np == 1 && fld p 1 0 == 0 && !x.testBit 9 && s != t && partOk s part 1 && partOk t part 1)
        (.vcvt c (BitVec.ofNat 3 part) s t (vr (fld p 7 5)) (vr (fld p 4 2)))
    | _, _ => none
  | _ =>
    let part := fld x 10 8
    let y := fld p 3 1
    match blockOf (fld x 19 18), typeOf (fld x 17 15) with
    | some bs, some t =>
      let n := blockGroups bs
      let ok := np == 2 && !p.testBit 0 && fld x 7 0 == 0 && 2 ≤ fld x 17 15 && fld x 17 15 ≤ 5 &&
        y + n ≤ 8 && partOk t part n
      let s := sr (fld x 14 11)
      let vx := vr (fld p 6 4)
      okIf ok (if p.testBit 7 then .vbdec c bs t s (BitVec.ofNat 3 part) vx (vr y)
        else .vbenc c bs t s (BitVec.ofNat 3 part) vx (vr y))
    | _, _ => none

/-- Major 0x8 (R90, R91). -/
def decMatrix (c : CellId) (p np x : Nat) : Option Instr :=
  let acc := BitVec.ofNat 2 (fld p 6 5)
  let a := sr (fld p 3 0)
  match fld p 9 7 with
  | 0 => match matType (fld p 2 0) with
    | some t => okIf (np == 0) (.mldw c (sr (fld p 6 3)) t)
    | none => none
  | 1 => okIf (np == 0 && fld p 6 0 == 0) (.mswap c)
  | 2 => match matType (fld x 9 7) with
    | some it =>
      let pm := passOf (fld x 5 4)
      okIf (np == 1 && (pm != .s16x3 || it == .ch16))
        (.mms c acc (p.testBit 4) a it (x.testBit 6) pm (sr (fld x 3 0)))
    | none => none
  | 3 => match matType (fld x 19 17), matType (fld x 16 14) with
    | some it, some wt =>
      let pm := passOf (fld x 12 11)
      okIf (np == 2 && !p.testBit 4 && fld x 10 8 == 0 && typeGroup it == typeGroup wt &&
          (pm != .s16x3 || it == .ch16))
        (.mmt c acc a it wt (x.testBit 13) pm (sr (fld x 7 4)) (sr (fld x 3 0)))
    | _, _ => none
  | 4 => match vecType (fld x 9 7) with
    | some dt =>
      okIf (np == 1 && !p.testBit 4 && !x.testBit 4 && (!x.testBit 6 || dt == .binary32))
        (.mwb c acc a dt (x.testBit 6) (x.testBit 5) (sr (fld x 3 0)))
    | none => none
  | 5 => okIf (np == 0 && fld p 4 0 == 0) (.mclr c acc)
  | _ => none

/-- Major 0x9 (R94). -/
def decCounter (c : CellId) (p np : Nat) : Option Instr :=
  if np ≠ 0 then none
  else match fld p 9 8 with
    | 0 => match fld p 7 6 with
      | 0 => some (.crd c (BitVec.ofNat 2 (fld p 5 4)) (sr (fld p 3 0)))
      | 1 => some (.cwr c (BitVec.ofNat 2 (fld p 5 4)) (sr (fld p 3 0)))
      | _ => none
    | 1 => okIf (fld p 5 4 == 3 || fld p 3 0 == 0)
        (.tpush c (BitVec.ofNat 2 (fld p 7 6)) (BitVec.ofNat 2 (fld p 5 4)) (BitVec.ofNat 4 (fld p 3 0)))
    | 2 => okIf (!p.testBit 3) (.ttest c (sr (fld p 7 4)) (BitVec.ofNat 3 (fld p 2 0)))
    | _ => none

/-- Major 0xB (R96). -/
def decWain (c : CellId) (p np : Nat) : Option Instr :=
  let w := BitVec.ofNat 3 (fld p 7 5)
  if np ≠ 0 || p.testBit 4 then none
  else match fld p 9 8 with
    | 0 => some (.wgo c w (sr (fld p 3 0)))
    | 1 => some (.wstat c w (sr (fld p 3 0)))
    | _ => none

/-- Major 0xC (R97). -/
def decSystem (c : CellId) (p np x : Nat) : Option Instr :=
  let off := BitVec.ofNat 16 ((x * 16 + fld p 3 0) * 4)
  match fld p 9 8 with
  | 0 => okIf (np ≤ 1) (.csrr c (sr (fld p 7 4)) off)
  | 1 => okIf (np ≤ 1) (.csrw c (sr (fld p 7 4)) off)
  | 2 =>
    if np ≠ 0 then none else
    match fld p 7 6 with
    | 0 => match fld p 5 0 with
      | 0 => some (.tret c)
      | 1 => some (.tretSkip c)
      | _ => none
    | 1 => okIf (fld p 5 0 == 0) (.halt c)
    | 2 => some (.trap c (BitVec.ofNat 6 (fld p 5 0)))
    | _ => none
  | _ => none

/-- What the words at the head of the hold spell. -/
inductive Spelled where
  /-- an instruction -/
  | instr (i : Instr)
  /-- RSV_MAJOR or RSV_SUB (R100) -/
  | reserved (cause : Nat)
  deriving DecidableEq, Repr

/-- A base word after `np` prefixes of extension `x` (R62, R65, R100). -/
def decodeBase (c : CellId) (w : Word14) (np x : Nat) : Spelled :=
  let p := fld w.toNat 9 0
  let sub (o : Option Instr) : Spelled :=
    match o with
    | some i => .instr i
    | none => .reserved 2
  match fld w.toNat 13 10 with
  | 0 => sub (decControl c p np x)
  | 1 => sub (decAluReg c p np x)
  | 2 => sub (decAluImm c p np x)
  | 3 => sub (decLoft c p np x)
  | 4 => sub (decQueue c p np)
  | 5 => sub (decEvent c p np x)
  | 6 => sub (decVec c p np x)
  | 7 => sub (decVecMem c p np x)
  | 8 => sub (decMatrix c p np x)
  | 9 => sub (decCounter c p np)
  | 10 => .reserved 2
  | 11 => sub (decWain c p np)
  | 12 => sub (decSystem c p np x)
  | _ => .reserved 1

/-- A word is an EXT prefix (R62, R63). -/
def isExt (w : Word14) : Bool := fld w.toNat 13 10 == 10

/-- The instruction at the head of a list of words, with its length in words; none while the words
end inside it (R63, R64). -/
def decodeWords (c : CellId) : List Word14 → Option (Nat × Spelled)
  | [] => none
  | w :: l =>
    if isExt w then
      match l with
      | [] => none
      | w' :: l' =>
        if isExt w' then
          match l' with
          | [] => none
          | w'' :: _ => some (3, decodeBase c w'' 2 (fld w.toNat 9 0 * 1024 + fld w'.toNat 9 0))
        else some (2, decodeBase c w' 1 (fld w.toNat 9 0))
    else some (1, decodeBase c w 0 0)

end Sys2Proof.Machine
end

