-- ==== Sys2Proof/WellFormed.lean ====
section
/-! DEFINITION. Well-formed commands: identifiers that R4 permits, operands that their encoding can spell (03), and
lengths that their carrier has room for. -/

namespace Sys2Proof

/-- A logical cell of the 624 × 384 grid (R4). -/
def cellWf (c : CellId) : Bool := c.toNat % 1024 ≤ 623 && c.toNat / 1024 ≤ 383
/-- A field, a latch, a gate and a plot of the machine (R4). -/
def fieldWf (f : FieldNo) : Bool := f.toNat < 48
def latchWf (l : LatchId) : Bool := l.toNat / 2048 < 48
def gateWf (g : GateId) : Bool := g.toNat / 64 < 48
def plotWf (p : PlotId) : Bool := p.toNat < 96

/-- Endpoints, sources of latch operations and of arrivals, fence units, wains. -/
def endWf : Endpoint → Bool
  | .cell c => cellWf c
  | .hub f _ t => fieldWf f && t.toNat < 78
def opSourceWf : OpSource → Bool
  | .cell c => cellWf c
  | .hub f _ => fieldWf f
  | .remote _ => true
def arriveWf : ArriveSource → Bool
  | .gate g => gateWf g
  | .mill _ g => gateWf g
def unitWf : FenceUnit → Bool
  | .cell c => cellWf c
  | .link c _ => cellWf c
  | .mill _ => true
def wainWf : WainId → Bool
  | .hub f _ => fieldWf f
  | .mill _ _ => true
def requesterWf : Requester → Bool
  | .port _ => true
  | .cell c => cellWf c
  | .hub f => fieldWf f
  | .ward => true

/-- An immediate second operand has 22 bits, sign-extended, and shares its register with the destination (R78). -/
def srcWf (d a : SReg) : Src → Bool
  | .reg _ => true
  | .imm v => a == d && -2097152 ≤ v.toInt && v.toInt < 2097152

/-- A loft offset has 20 bits, signed (R81). -/
def offsetWf (x : Int) : Bool := -524288 ≤ x && x < 524288

/-- A vector register number in a four-bit field (R82). -/
def vecRegWf (vec : Bool) (r : BitVec 4) : Bool := !(vec && 8 ≤ r.toNat)

/-- Types of the vector unit, of the matrix array and of the packed formats (R71). -/
def vecTypeWf : ElemType → Bool
  | .binary32 => true
  | .ch16 => true
  | .ch8e => true
  | .ch8m => true
  | .ch6 => false
  | .ch4 => false
  | .int32 => false
def matTypeWf : ElemType → Bool
  | .binary32 => false
  | .ch16 => true
  | .ch8e => true
  | .ch8m => true
  | .ch6 => true
  | .ch4 => true
  | .int32 => false
def blockTypeWf : ElemType → Bool
  | .binary32 => false
  | .ch16 => false
  | .ch8e => true
  | .ch8m => true
  | .ch6 => true
  | .ch4 => true
  | .int32 => false

/-- A pass mode suits the input type (R91). -/
def passWf (pm : PassMode) (t : ElemType) : Bool := pm != .s16x3 || t == .ch16

/-- A block operand: its registers and its part (R73, R89). -/
def blockWf (bs : BlockSize) (t : ElemType) (part : BitVec 3) (y : VReg) : Bool :=
  let n := Machine.blockGroups bs
  blockTypeWf t && y.toNat + n ≤ 8 && Machine.partOk t part.toNat n

/-- A register offset of CSRR and CSRW: a multiple of 4 (R97). -/
def csrWf (off : BitVec 16) : Bool := off.toNat % 4 == 0

/-- A rectangle of a row broadcast is not empty (R436). -/
def rectWf (r : Option Rect) : Bool := r.all fun r => r.lxLo.toNat ≤ r.lxHi.toNat && r.lyLo.toNat ≤ r.lyHi.toNat

/-- The instructions of a cell's program: their operands are such as the encoding spells. -/
def Instr.spellable : Instr → Bool
  | .add _ d a x => srcWf d a x
  | .mov _ d x => srcWf d d x
  | .cmp _ a x => srcWf a a x
  | .and _ d a x => srcWf d a x
  | .or _ d a x => srcWf d a x
  | .xor _ d a x => srcWf d a x
  | .shl _ d a x => srcWf d a x
  | .shr _ d a x => srcWf d a x
  | .sra _ d a x => srcWf d a x
  | .mul _ d a x => srcWf d a x
  | .min _ d a x => srcWf d a x
  | .max _ d a x => srcWf d a x
  | .minu _ d a x => srcWf d a x
  | .maxu _ d a x => srcWf d a x
  | .loop _ _ len _ => 1 ≤ len.toNat && len.toNat ≤ 1024
  | .lw _ _ _ x => offsetWf x
  | .lh _ _ _ x => offsetWf x
  | .sw _ _ _ x => offsetWf x
  | .sh _ _ _ x => offsetWf x
  | .pop _ vec r _ => vecRegWf vec r
  | .peek _ vec r _ => vecRegWf vec r
  | .push _ vec r _ => vecRegWf vec r
  | .vadd _ t _ _ _ => vecTypeWf t
  | .vsub _ t _ _ _ => vecTypeWf t
  | .vmul _ t _ _ _ => vecTypeWf t
  | .vfma _ t _ _ _ => vecTypeWf t
  | .vfnma _ t _ _ _ => vecTypeWf t
  | .vmin _ t _ _ _ => vecTypeWf t
  | .vmax _ t _ _ _ => vecTypeWf t
  | .vceq _ t _ _ _ => vecTypeWf t
  | .vclt _ t _ _ _ => vecTypeWf t
  | .vcle _ t _ _ _ => vecTypeWf t
  | .twosum _ d _ _ => d.toNat % 2 == 0
  | .twoprod _ d _ _ => d.toNat % 2 == 0
  | .vld _ _ _ x => offsetWf x
  | .vst _ _ _ x => offsetWf x
  | .vcvt _ part src dst _ _ => src != dst && Machine.partOk src part.toNat 1 && Machine.partOk dst part.toNat 1
  | .vbenc _ bs t _ part _ y => blockWf bs t part y
  | .vbdec _ bs t _ part _ y => blockWf bs t part y
  | .mldw _ _ t => matTypeWf t
  | .mms _ _ _ _ it _ pm _ => matTypeWf it && passWf pm it
  | .mmt _ _ _ it wt _ pm _ _ => matTypeWf it && matTypeWf wt && Machine.typeGroup it == Machine.typeGroup wt && passWf pm it
  | .mwb _ _ _ dt pair _ _ => vecTypeWf dt && (!pair || dt == .binary32)
  | .tpush _ _ kind code => kind.toNat == 3 || code.toNat == 0
  | .csrr _ _ off => csrWf off
  | .csrw _ _ off => csrWf off
  | _ => true

/-- The identifiers of a command are such as R4 permits, and its lists such as its carrier holds. -/
def Instr.named : Instr → Bool
  | .stream c src _ dplot _ splot flits => cellWf c && cellWf src && plotWf dplot && plotWf splot && flits.length ≤ 8
  | .credit c _ _ _ _ plot src _ => cellWf c && cellWf src && plotWf plot
  | .packetForward r _ => cellWf r
  | .linkInitComplete c _ => cellWf c
  | .stitchLockError c _ => cellWf c
  | .readReq src dst _ _ _ => endWf src && endWf dst
  | .writeReq src dst _ _ _ l => endWf src && endWf dst && 1 ≤ l.length && l.length ≤ 256
  | .readResp dst _ l => endWf dst && 1 ≤ l.length && l.length ≤ 256
  | .writeAck dst _ => endWf dst
  | .errorResp dst _ _ _ => endWf dst
  | .latchOpSet l src => latchWf l && opSourceWf src
  | .latchOpClr l src => latchWf l && opSourceWf src
  | .latchOpClaim l c _ => latchWf l && cellWf c
  | .waitreg l c _ => latchWf l && cellWf c
  | .waitdereg l c => latchWf l && cellWf c
  | .wake c l => cellWf c && latchWf l
  | .waitfull c l => cellWf c && latchWf l
  | .arrive g src _ => gateWf g && arriveWf src
  | .complete g _ => gateWf g
  | .gateTimeout g => gateWf g
  | .gateEnable g => gateWf g
  | .gateDisable g => gateWf g
  | .descriptorFetch w => wainWf w
  | .wainRangeRegister w => wainWf w
  | .wainPacketIssue w => wainWf w
  | .mapEntryRead w => wainWf w
  | .wainFaulted w => wainWf w
  | .descriptorComplete w => wainWf w
  | .hostCompletion w _ _ _ => wainWf w
  | .cycleStall p => plotWf p
  | .dryEnd p => plotWf p
  | .scanCapture p x => plotWf p && x.all cellWf
  | .cellProbe f x y => fieldWf f && x.all cellWf && y.all cellWf
  | .fieldTrip f _ _ => fieldWf f
  | .data _ _ _ _ l => l.length ≤ 19
  | .train _ _ _ _ msg => msg.laneMap.length ≤ 18
  | .tableWrite src c _ payload => endWf src && cellWf c && payload.length ≤ 256
  | .hubRegisterWrite src f _ payload => endWf src && fieldWf f && payload.length ≤ 256
  | .fenceNotice src u => endWf src && unitWf u
  | .pmem src f rect _ words => endWf src && fieldWf f && rectWf rect && words.length ≤ 128
  | .vecdef src f rect => endWf src && fieldWf f && rectWf rect
  | .nitab src f rect _ payload => endWf src && fieldWf f && rectWf rect && payload.length ≤ 256
  | .scrub src f rect => endWf src && fieldWf f && rectWf rect
  | .rejoinLinkTimeout c _ => cellWf c
  | .registerRead r _ _ => requesterWf r
  | .registerWrite r _ _ => requesterWf r
  | .fieldPowerUp f _ _ => fieldWf f
  | .linkTraining l _ => l.all fun x => cellWf x.1
  | .selfTest v h e =>
    (v.all fun v => fieldWf v.field && v.col.toNat < 80) && h.all fieldWf && e.all fun x => fieldWf x.1 && x.2.2.toNat < 80
  | .tempSensorRead f l => fieldWf f && l.length == 8
  | .estimatorInterval l => l.all fun a => fieldWf a.field && a.counts.length ≤ 12
  | .supplyAlert f => f.all fieldWf
  | .supplyAlertClear f => f.all fieldWf
  | .loopLockLoss d => d.toNat < 63
  | .fieldLoopRelock f => fieldWf f
  | _ => true

/-- The cell at which a command acts, for an instruction or an event of one cell. -/
def Instr.cellOf : Instr → Option CellId
  | .fetch c => some c
  | .arithTrap c => some c
  | .unitCompletion c _ => some c
  | .nop c => some c
  | .ret c => some c
  | .jr c _ => some c
  | .callr c _ => some c
  | .lexit c _ => some c
  | .b c _ => some c
  | .call c _ => some c
  | .bcc c _ _ => some c
  | .loop c _ _ _ => some c
  | .add c _ _ _ => some c
  | .addi c _ _ => some c
  | .sub c _ _ _ => some c
  | .mov c _ _ => some c
  | .movh c _ _ => some c
  | .cmp c _ _ => some c
  | .and c _ _ _ => some c
  | .or c _ _ _ => some c
  | .xor c _ _ _ => some c
  | .shl c _ _ _ => some c
  | .shr c _ _ _ => some c
  | .sra c _ _ _ => some c
  | .mul c _ _ _ => some c
  | .mulh c _ _ _ => some c
  | .min c _ _ _ => some c
  | .max c _ _ _ => some c
  | .minu c _ _ _ => some c
  | .maxu c _ _ _ => some c
  | .lw c _ _ _ => some c
  | .lh c _ _ _ => some c
  | .sw c _ _ _ => some c
  | .sh c _ _ _ => some c
  | .pop c _ _ _ => some c
  | .peek c _ _ _ => some c
  | .push c _ _ _ => some c
  | .drop c _ => some c
  | .waiteFlag c _ => some c
  | .waiteLatch c _ => some c
  | .waiteDFlag c _ _ _ => some c
  | .waiteDLatch c _ _ _ => some c
  | .waitt c _ => some c
  | .waittDeadline c => some c
  | .waiteDDeadline c => some c
  | .setl c _ => some c
  | .clrl c _ => some c
  | .claim c _ _ => some c
  | .sende c _ _ => some c
  | .vadd c _ _ _ _ => some c
  | .vsub c _ _ _ _ => some c
  | .vmul c _ _ _ _ => some c
  | .vfma c _ _ _ _ => some c
  | .vfnma c _ _ _ _ => some c
  | .vmin c _ _ _ _ => some c
  | .vmax c _ _ _ _ => some c
  | .vceq c _ _ _ _ => some c
  | .vclt c _ _ _ _ => some c
  | .vcle c _ _ _ _ => some c
  | .vand c _ _ _ => some c
  | .vor c _ _ _ => some c
  | .vxor c _ _ _ => some c
  | .twosum c _ _ _ => some c
  | .twoprod c _ _ _ => some c
  | .vld c _ _ _ => some c
  | .vst c _ _ _ => some c
  | .vcvt c _ _ _ _ _ => some c
  | .vbenc c _ _ _ _ _ _ => some c
  | .vbdec c _ _ _ _ _ _ => some c
  | .mldw c _ _ => some c
  | .shadowFull c => some c
  | .mswap c => some c
  | .mms c _ _ _ _ _ _ _ => some c
  | .mmt c _ _ _ _ _ _ _ _ => some c
  | .productComplete c => some c
  | .mwb c _ _ _ _ _ _ => some c
  | .mwbComplete c => some c
  | .mclr c _ => some c
  | .crd c _ _ => some c
  | .cwr c _ _ => some c
  | .tpush c _ _ _ => some c
  | .ttest c _ _ => some c
  | .wgo c _ _ => some c
  | .wstat c _ _ => some c
  | .csrr c _ _ => some c
  | .csrw c _ _ => some c
  | .tret c => some c
  | .tretSkip c => some c
  | .halt c => some c
  | .trap c _ => some c
  | .stream c _ _ _ _ _ _ => some c
  | .credit c _ _ _ _ _ _ _ => some c
  | .creditReturn c _ => some c
  | .spillRefill c _ => some c
  | .event c _ => some c
  | .wake c _ => some c
  | .claimresp c _ _ => some c
  | .waitfull c _ => some c
  | .waitregRetry c => some c
  | .correctedWriteBack c => some c
  | .loftPatrolScrub c _ => some c
  | .scrubComplete c => some c
  | .lastInputRowTaken c => some c
  | .stagingComplete c => some c
  | .cellInternalCheck c => some c
  | _ => none

/-- A well-formed command. -/
def Instr.wf (i : Instr) : Bool := i.spellable && i.named && i.cellOf.all cellWf

end Sys2Proof
end

