-- ==== Sys2Proof/Decode.lean ====
section
/-! DEFINITION. The command that a word spells: no row of spec/opcode_table.json gives bits, so no word spells one.
And the words of a cell's instruction (03), which `Machine.decodeWords` reads back. -/

namespace Sys2Proof

/-- The command of a word of `nbits` bits: none, for the table gives no row any bits. -/
def decodeTableWord (_nbits _w : Nat) : Option Instr := none

/-! ### Codes (R71, R72, R74, R91) -/

def typeCode : ElemType → Nat
  | .binary32 => 0
  | .ch16 => 1
  | .ch8e => 2
  | .ch8m => 3
  | .ch6 => 4
  | .ch4 => 5
  | .int32 => 6

def blockCode : BlockSize → Nat
  | .b16 => 1
  | .b32 => 2
  | .b64 => 3

def condCode : Cond → Nat
  | .eq => 0
  | .ne => 1
  | .lt => 2
  | .ge => 3
  | .ltu => 4
  | .geu => 5
  | .mi => 6
  | .vs => 7

def passCode : PassMode → Nat
  | .real => 0
  | .cx3 => 1
  | .cx4 => 2
  | .s16x3 => 3

/-- A bit as a number. -/
def bitNat (b : Bool) : Nat := if b then 1 else 0

/-! ### Words (R62 to R65) -/

/-- A base word of a major opcode. -/
def baseWord (major p : Nat) : Word14 := BitVec.ofNat 14 (major * 1024 + p)
/-- An EXT prefix. -/
def extWord (x : Nat) : Word14 := BitVec.ofNat 14 (10 * 1024 + x)
/-- A base word with no prefix, with one, and with two. -/
def plainWords (major p : Nat) : List Word14 := [baseWord major p]
def oneExt (major p x : Nat) : List Word14 := [extWord x, baseWord major p]
def twoExt (major p x : Nat) : List Word14 := [extWord (x / 1024), extWord (x % 1024), baseWord major p]

/-- A scalar operation with a register operand, or with a 22-bit immediate (R78). -/
def aluWords (op : Nat) (d a : SReg) : Src → List Word14
  | .reg b => oneExt 1 (op % 4 * 256 + d.toNat * 16 + a.toNat) (op / 4 * 16 + b.toNat)
  | .imm v =>
    let n := v.toNat % 2 ^ 22
    twoExt 2 (d.toNat * 64 + n % 64) (n / 4096 * 1024 + op * 64 + n / 64 % 64)

/-- A loft access: offsets always take two prefixes here (R81). -/
def loftWords (major p : Nat) (x : Int) : List Word14 := twoExt major p (x % 2 ^ 20).toNat

/-- A vector operation with three registers (R85, R86). -/
def vecWords (op : Nat) (t : ElemType) (d a b : VReg) : List Word14 :=
  oneExt 6 (op * 64 + d.toNat * 8 + a.toNat) (typeCode t * 8 + b.toNat)

/-- A displacement in 7 or 5 bits of the base word and 10 of a prefix (R75). -/
def jumpWords (p width : Nat) (disp : PAddr) : List Word14 := oneExt 0 (p + disp.toNat % 2 ^ width) (disp.toNat / 2 ^ width)

/-- The words of an instruction; none for a command that no program holds. -/
def encodeWords : Instr → List Word14
  | .nop _ => plainWords 0 0
  | .ret _ => plainWords 0 0x40
  | .jr _ s => plainWords 0 (0x80 + s.toNat)
  | .callr _ s => plainWords 0 (0xA0 + s.toNat)
  | .lexit _ k => plainWords 0 (0xC0 + k.toNat)
  | .b _ disp => jumpWords 0x100 7 disp
  | .call _ disp => jumpWords 0x180 7 disp
  | .bcc _ cond disp => jumpWords (0x200 + condCode cond * 32) 5 disp
  | .loop _ k len (.imm n) => twoExt 0 (0x300 + k.toNat * 64 + n.toNat % 32) (n.toNat / 32 * 1024 + (len.toNat - 1))
  | .loop _ k len (.reg s) => oneExt 0 (0x320 + k.toNat * 64 + s.toNat) (len.toNat - 1)
  | .add _ d a x => aluWords 0 d a x
  | .addi _ d imm => plainWords 2 (d.toNat * 64 + imm.toNat)
  | .sub _ d a b => aluWords 1 d a (.reg b)
  | .mov _ d (.reg b) => plainWords 1 (0x200 + d.toNat * 16 + b.toNat)
  | .mov _ d (.imm v) => aluWords 2 d d (.imm v)
  | .movh _ d imm => aluWords 1 d d (.imm (imm.signExtend 32))
  | .cmp _ a (.reg b) => oneExt 1 (0x300 + a.toNat) b.toNat
  | .cmp _ a (.imm v) => aluWords 3 a a (.imm v)
  | .and _ d a x => aluWords 4 d a x
  | .or _ d a x => aluWords 5 d a x
  | .xor _ d a x => aluWords 6 d a x
  | .shl _ d a x => aluWords 7 d a x
  | .shr _ d a x => aluWords 8 d a x
  | .sra _ d a x => aluWords 9 d a x
  | .mul _ d a x => aluWords 10 d a x
  | .mulh _ d a b => aluWords 11 d a (.reg b)
  | .min _ d a x => aluWords 12 d a x
  | .max _ d a x => aluWords 13 d a x
  | .minu _ d a x => aluWords 14 d a x
  | .maxu _ d a x => aluWords 15 d a x
  | .lw _ r a x => loftWords 3 (r.toNat * 16 + a.toNat) x
  | .sw _ r a x => loftWords 3 (0x100 + r.toNat * 16 + a.toNat) x
  | .lh _ r a x => loftWords 3 (0x200 + r.toNat * 16 + a.toNat) x
  | .sh _ r a x => loftWords 3 (0x300 + r.toNat * 16 + a.toNat) x
  | .pop _ vec r q => plainWords 4 (bitNat vec * 128 + r.toNat * 8 + q.toNat)
  | .peek _ vec r q => plainWords 4 (0x100 + bitNat vec * 128 + r.toNat * 8 + q.toNat)
  | .push _ vec r o => plainWords 4 (0x200 + bitNat vec * 128 + r.toNat * 8 + o.toNat)
  | .drop _ q => plainWords 4 (0x300 + q.toNat)
  | .waiteFlag _ k => plainWords 5 k.toNat
  | .waiteLatch _ l => plainWords 5 (0x40 + l.toNat)
  | .setl _ l => plainWords 5 (0x80 + l.toNat)
  | .clrl _ l => plainWords 5 (0xC0 + l.toNat)
  | .waiteDFlag _ k p d => oneExt 5 (0x100 + k.toNat) (p.toNat * 16 + d.toNat)
  | .waiteDLatch _ l p d => oneExt 5 (0x140 + l.toNat) (p.toNat * 16 + d.toNat)
  | .waitt _ p => plainWords 5 (0x180 + p.toNat)
  | .claim _ d l => plainWords 5 (0x200 + d.toNat * 16 + l.toNat)
  | .sende _ t k => plainWords 5 (0x300 + t.toNat * 16 + k.toNat)
  | .vadd _ t d a b => vecWords 0 t d a b
  | .vsub _ t d a b => vecWords 1 t d a b
  | .vmul _ t d a b => vecWords 2 t d a b
  | .vfma _ t d a b => vecWords 3 t d a b
  | .vfnma _ t d a b => vecWords 4 t d a b
  | .vmin _ t d a b => vecWords 5 t d a b
  | .vmax _ t d a b => vecWords 6 t d a b
  | .vceq _ t d a b => vecWords 7 t d a b
  | .vclt _ t d a b => vecWords 8 t d a b
  | .vcle _ t d a b => vecWords 9 t d a b
  | .vand _ d a b => vecWords 10 .binary32 d a b
  | .vor _ d a b => vecWords 11 .binary32 d a b
  | .vxor _ d a b => vecWords 12 .binary32 d a b
  | .twosum _ d a b => vecWords 13 .binary32 d a b
  | .twoprod _ d a b => vecWords 14 .binary32 d a b
  | .vld _ d a x => loftWords 7 (d.toNat * 32 + a.toNat) x
  | .vst _ v a x => loftWords 7 (0x100 + v.toNat * 32 + a.toNat) x
  | .vcvt _ part src dst d a =>
    oneExt 7 (0x200 + d.toNat * 32 + a.toNat * 4) (part.toNat * 64 + typeCode src * 8 + typeCode dst)
  | .vbenc _ bs t s part x y =>
    twoExt 7 (0x300 + x.toNat * 16 + y.toNat * 2)
      (blockCode bs * 2 ^ 18 + typeCode t * 2 ^ 15 + s.toNat * 2 ^ 11 + part.toNat * 2 ^ 8)
  | .vbdec _ bs t s part x y =>
    twoExt 7 (0x380 + x.toNat * 16 + y.toNat * 2)
      (blockCode bs * 2 ^ 18 + typeCode t * 2 ^ 15 + s.toNat * 2 ^ 11 + part.toNat * 2 ^ 8)
  | .mldw _ a t => plainWords 8 (a.toNat * 8 + typeCode t)
  | .mswap _ => plainWords 8 0x80
  | .mms _ acc tr a it accum pm shape =>
    oneExt 8 (0x100 + acc.toNat * 32 + bitNat tr * 16 + a.toNat)
      (typeCode it * 128 + bitNat accum * 64 + passCode pm * 16 + shape.toNat)
  | .mmt _ acc a it wt accum pm w shape =>
    twoExt 8 (0x180 + acc.toNat * 32 + a.toNat)
      (typeCode it * 2 ^ 17 + typeCode wt * 2 ^ 14 + bitNat accum * 2 ^ 13 + passCode pm * 2 ^ 11 + w.toNat * 16 + shape.toNat)
  | .mwb _ acc a dt pair keep shape =>
    oneExt 8 (0x200 + acc.toNat * 32 + a.toNat) (typeCode dt * 128 + bitNat pair * 64 + bitNat keep * 32 + shape.toNat)
  | .mclr _ acc => plainWords 8 (0x280 + acc.toNat * 32)
  | .crd _ k s => plainWords 9 (k.toNat * 16 + s.toNat)
  | .cwr _ k s => plainWords 9 (0x40 + k.toNat * 16 + s.toNat)
  | .tpush _ o kind code => plainWords 9 (0x100 + o.toNat * 64 + kind.toNat * 16 + code.toNat)
  | .ttest _ d q => plainWords 9 (0x200 + d.toNat * 16 + q.toNat)
  | .wgo _ w a => plainWords 11 (w.toNat * 32 + a.toNat)
  | .wstat _ w d => plainWords 11 (0x100 + w.toNat * 32 + d.toNat)
  | .csrr _ d off => oneExt 12 (d.toNat * 16 + off.toNat / 4 % 16) (off.toNat / 64)
  | .csrw _ s off => oneExt 12 (0x100 + s.toNat * 16 + off.toNat / 4 % 16) (off.toNat / 64)
  | .tret _ => plainWords 12 0x200
  | .tretSkip _ => plainWords 12 0x201
  | .halt _ => plainWords 12 0x240
  | .trap _ code => plainWords 12 (0x280 + code.toNat)
  | _ => []

end Sys2Proof
end

