-- ==== Sys2Proof/Config.lean ====
section
/-! DEFINITION. What the spec leaves open: free values and the functions of keys that it does not
give. None has a body, so no proof can see a value. -/

namespace Sys2Proof.Config

/-- The value of a bay load that a mesh failure answers (R188, R256; log entry 9). -/
opaque bayValue : Nat → Vec512

/-- A write into the tables of a network interface or hub (R247): the origin of a plot, a detour entry by
index with its rectangle and waypoint, the plot that owns the cell, its logical cell ID, or its physical coordinates. -/
inductive NiWrite where
  | origin (p : PlotId) (c : CellId)
  | detour (i : Nat) (lxLo lxHi lyLo lyHi : Nat) (waypt : CellId)
  | owner (p : PlotId)
  | self (c : CellId)
  | coords (col : BitVec 10) (row : BitVec 9)
  deriving DecidableEq, Repr

/-- The ticks that the switch to the standby bridge takes, at most 100,000 (R25; log entry 61). -/
opaque bridgeSwitch : Nat

/-- Answers that an endpoint holds space for beyond the first (R244; log entry 72). -/
opaque respSpace : Nat

/-- Answers that a mill holds space for beyond the first (R322; log entry 72). -/
opaque answerSpace : Nat

/-- The fraction of a tick, in 1/64, at which the first bit of a frame leaves the engine, by the number of the frame (R332;
log entry 75). -/
opaque sendPhase : Nat → BitVec 6

/-- Flits of requests and streams that an endpoint's interface holds, where that is more than one packet takes (R244, R259;
log entry 72). -/
opaque ifSpace : Nat

/-- What a table write's offset and payload write: the spec does not give the layout of the tables (R247,
R420; log entry 24). -/
opaque niWrites : Nat → List Byte → List NiWrite

/-- What the retention buffer holds for an element that is an OVERFLOW failure (R349, R350; log entry 30). -/
opaque overflowElem : Nat → BitVec 96

/-- The level of a wafer's node in the tree of a tensor, by wafer and tensor ID (R354): the schedule of
one wafer does not give it (log entry 29). -/
opaque treeLevel : WaferId → BitVec 12 → BitVec 4

/-- Whether the tree of a group in mode AUTO holds 64 wafers or fewer (R354): the schedule of one wafer
does not give it (log entry 29). -/
opaque autoResidue : WaferId → Nat → Bool

/-- The records of a threshing schedule in the body of a THRESH block: the spec gives the records and not
where each section stands (R346, R368; log entry 27). -/
structure ThrSections where
  groups  : List (List Byte)
  tensors : List (List Byte)
  segs    : List (List Byte)
  rets    : List (List Byte)
  progs   : List (List Byte)
  consts  : List (List Byte)
  deriving DecidableEq, Repr, Inhabited

/-- The sections of a THRESH body (log entry 27). -/
opaque thrSections : List Byte → ThrSections

/-- A byte of the opaque body of a cell image, by capture and offset (R227; log entry 18). -/
opaque scanByte : Nat → Nat → Byte

/-- A performance counter of cycles or microseconds, of array work or of loft traffic at a tally boundary, by
capture, unit and index (R463; log entry 10). -/
opaque tallyCount : Nat → Nat → Nat → DWord

/-! ### Firmware, licences and attestation (19): keys that the part holds and never shows (log entry 31) -/

/-- The signature over a firmware image verifies under the public key of the hinge ROM (R503). -/
opaque imageSigned : List Byte → Bool

/-- Every GCM tag of a firmware image verifies under the fused firmware key (R502). -/
opaque imageTagsOk : List Byte → Bool

/-- The emulation library that a firmware image brings, by address: its place in the encrypted plaintext is not
given (R58, R501). -/
opaque imageLibrary : List Byte → List (Nat × Word14)

/-- The signature of a licence record verifies under the licence key (R511). -/
opaque licenceSigned : List Byte → Bool

/-- The identity key's signature over a report, 384 B (R515, R516). -/
opaque identitySign : List Byte → List Byte

/-- The device certificate, DER-encoded, of at most 2,048 B (R515). -/
opaque certificate : List Byte

/-- A settings area after a change: the settings format version of the slot's image, the area before, the command or register
that changed a setting, and the values set (R500, R509; log entry 76). -/
opaque settingsBytes : Nat → List Byte → Nat → List Byte → List Byte

/-- The SHA-256 of the hinge ROM (R516). -/
opaque romDigest : BitVec 256

/-! ### Power and pins (18, 20) -/

/-- The activity in 64ths that a dynamic term stands for where PW_CAL.DFULL is 0: R490 states no quotient
(log entry 32). -/
opaque activityNoScale : Int → Nat

/-- The input voltage that a management read finds, in 10 mV, by the number of the read (R529; log entry 32). -/
opaque inputVoltage : Nat → BitVec 16

end Sys2Proof.Config
end

