-- ==== Sys2Proof/Machine/Flags.lean ====
section
/-! DEFINITION. The flags: the sticky arithmetic flags (R50, R110) and the scalar condition bits
(R79, R80, R74). -/

namespace Sys2Proof.Machine

/-- A set of sticky flags, in the bit order of CL_AFLAGS: NV, OF, UF, NX, FL, BL from bit 0 (R50). -/
abbrev AFlags := BitVec 6

/-- Invalid (R110). -/
abbrev flagNV : AFlags := 1#6
/-- Overflow (R110). -/
abbrev flagOF : AFlags := 2#6
/-- Underflow (R110). -/
abbrev flagUF : AFlags := 4#6
/-- Inexact (R110). -/
abbrev flagNX : AFlags := 8#6
/-- Flush (R110). -/
abbrev flagFL : AFlags := 16#6
/-- Block loss (R110). -/
abbrev flagBL : AFlags := 32#6

/-- A flag when a condition holds. -/
def flagIf (c : Bool) (f : AFlags) : AFlags := if c then f else 0

/-- The four scalar condition bits (02, Architectural state). -/
structure CondBits where
  z : Bool := false
  n : Bool := false
  c : Bool := false
  v : Bool := false
  deriving DecidableEq, Repr

/-- Z and N of a result, C and V kept (R80). -/
def CondBits.setZN (f : CondBits) (r : Word) : CondBits :=
  { f with z := r == 0, n := r.msb }

/-- Z, N, C and V of an addition: C is the carry out of bit 31, V signed overflow (R80). -/
def CondBits.ofAdd (a b : Word) : CondBits :=
  let r := a + b
  { z := r == 0, n := r.msb, c := decide (2 ^ 32 ≤ a.toNat + b.toNat),
    v := a.msb == b.msb && r.msb != a.msb }

/-- Z, N, C and V of a subtraction: C is 1 when no borrow occurs (R80). -/
def CondBits.ofSub (a b : Word) : CondBits :=
  let r := a - b
  { z := r == 0, n := r.msb, c := decide (b.toNat ≤ a.toNat),
    v := a.msb != b.msb && r.msb != a.msb }

/-- A condition holds of the condition bits (R74). -/
def CondBits.holds (f : CondBits) : Cond → Bool
  | .eq => f.z
  | .ne => !f.z
  | .lt => f.n != f.v
  | .ge => f.n == f.v
  | .ltu => !f.c
  | .geu => f.c
  | .mi => f.n
  | .vs => f.v

end Sys2Proof.Machine
end

