-- ==== Sys2Proof/Machine/Float.lean ====
section
/-! DEFINITION. The number formats (04): exact values, one rounding, special cases and flags. -/

namespace Sys2Proof.Machine

/-- A floating-point format (R101). `flush` marks a format without subnormals. -/
structure Fmt where
  ebits : Nat
  fbits : Nat
  bias  : Nat
  flush : Bool
  deriving DecidableEq, Repr

def Fmt.ch16 : Fmt := ⟨7, 8, 63, false⟩
def Fmt.ch8e : Fmt := ⟨5, 2, 15, false⟩
def Fmt.ch8m : Fmt := ⟨4, 3, 7, false⟩
def Fmt.ch6 : Fmt := ⟨3, 2, 3, false⟩
def Fmt.ch4 : Fmt := ⟨2, 1, 1, false⟩
def Fmt.b32 : Fmt := ⟨8, 23, 127, true⟩
def Fmt.a40 : Fmt := ⟨10, 29, 511, true⟩

/-- Bits of a code of the format. -/
def Fmt.width (f : Fmt) : Nat := 1 + f.ebits + f.fbits

/-- The all-ones exponent field. -/
def Fmt.emax (f : Fmt) : Nat := 2 ^ f.ebits - 1

/-- The format of an element type; INT32 has none of its own and takes binary32's width. -/
def fmtOf : ElemType → Fmt
  | .binary32 => .b32
  | .ch16 => .ch16
  | .ch8e => .ch8e
  | .ch8m => .ch8m
  | .ch6 => .ch6
  | .ch4 => .ch4
  | .int32 => .b32

/-- A value: NaN (signalling or quiet), an infinity, or exactly ±mag × 2^exp. -/
inductive FVal where
  | nan (signalling : Bool)
  | inf (neg : Bool)
  | fin (neg : Bool) (mag : Nat) (exp : Int)
  deriving DecidableEq, Repr

/-- The value of a code (R102, R107, R125), a subnormal of a flushing format being read as a zero
of its sign (R105). -/
def decodeF (f : Fmt) (code : Nat) : FVal :=
  let neg := code.testBit (f.ebits + f.fbits)
  let e := code / 2 ^ f.fbits % 2 ^ f.ebits
  let m := code % 2 ^ f.fbits
  if e = f.emax then
    if m = 0 then .inf neg else .nan (f.flush && !m.testBit (f.fbits - 1))
  else if e = 0 then
    .fin neg (if f.flush then 0 else m) (1 - (f.bias : Int) - f.fbits)
  else .fin neg (2 ^ f.fbits + m) ((e : Int) - f.bias - f.fbits)

/-- The input flags of a code: FL for a subnormal of a flushing format (R105), NV for a signalling
NaN (R107). -/
def inputFlags (f : Fmt) (code : Nat) : AFlags :=
  let e := code / 2 ^ f.fbits % 2 ^ f.ebits
  let m := code % 2 ^ f.fbits
  if !f.flush || m = 0 then 0
  else if e = 0 then flagFL
  else if e = f.emax && !m.testBit (f.fbits - 1) then flagNV
  else 0

/-- The sign bit of a format. -/
def signBit (f : Fmt) (neg : Bool) : Nat := if neg then 2 ^ (f.ebits + f.fbits) else 0

/-- The code of an infinity (R104). -/
def infCode (f : Fmt) (neg : Bool) : Nat := signBit f neg + f.emax * 2 ^ f.fbits

/-- The canonical NaN (R104). -/
def nanCode (f : Fmt) : Nat := f.emax * 2 ^ f.fbits + 2 ^ (f.fbits - 1)

/-- `mag` shifted right by `sh` bits, rounded to nearest, ties to even (R108). -/
def shiftRNE (mag sh : Nat) : Nat :=
  let q := mag / 2 ^ sh
  let r := mag % 2 ^ sh
  if 2 ^ sh < 2 * r || (2 * r = 2 ^ sh && q % 2 = 1) then q + 1 else q

/-- The exact value mag × 2^exp at a quantum 2^q: the rounded multiple and whether it is inexact. -/
def atQuantum (mag : Nat) (exp q : Int) : Nat × Bool :=
  if q ≤ exp then (mag * 2 ^ (exp - q).toNat, false)
  else
    let sh := (q - exp).toNat
    (shiftRNE mag sh, mag % 2 ^ sh != 0)

/-- A finite value rounded into a format: its code, and OF, UF, NX or FL (R106, R108 to R110). -/
def roundFin (f : Fmt) (neg : Bool) (mag : Nat) (exp : Int) : Nat × AFlags :=
  if mag = 0 then (signBit f neg, 0)
  else
    let e := (Nat.log2 mag : Int) + exp
    let emin := 1 - (f.bias : Int)
    let q := (if f.flush then e else max e emin) - f.fbits
    let (r, inexact) := atQuantum mag exp q
    let body := (q + f.fbits + f.bias - 1) * 2 ^ f.fbits + r
    if f.flush && body < 2 ^ f.fbits then (signBit f neg, flagFL ||| flagNX)
    else if (f.emax * 2 ^ f.fbits : Nat) ≤ body then (infCode f neg, flagOF ||| flagNX)
    else (signBit f neg + body.toNat,
      flagIf inexact flagNX ||| flagIf (!f.flush && inexact && e < emin) flagUF)

/-- A value rounded into a format; an infinity or NaN raises nothing (R104, R110). -/
def roundF (f : Fmt) : FVal → Nat × AFlags
  | .nan _ => (nanCode f, 0)
  | .inf neg => (infCode f neg, 0)
  | .fin neg mag exp => roundFin f neg mag exp

/-- Minus a value. -/
def FVal.neg : FVal → FVal
  | .nan s => .nan s
  | .inf n => .inf (!n)
  | .fin n m e => .fin (!n) m e

def FVal.isNan : FVal → Bool
  | .nan _ => true
  | _ => false

def FVal.isZero : FVal → Bool
  | .fin _ 0 _ => true
  | _ => false

/-- The exact product, with NV for 0 × ±Inf (R112). A NaN operand gives a NaN. -/
def mulF : FVal → FVal → FVal × AFlags
  | .nan _, _ => (.nan false, 0)
  | _, .nan _ => (.nan false, 0)
  | .inf a, .inf b => (.inf (a != b), 0)
  | .inf a, .fin b m _ => if m = 0 then (.nan false, flagNV) else (.inf (a != b), 0)
  | .fin a m _, .inf b => if m = 0 then (.nan false, flagNV) else (.inf (a != b), 0)
  | .fin a m e, .fin b m' e' => (.fin (a != b) (m * m') (e + e'), 0)

/-- The smallest exponent of the finite terms. -/
def minExp : List FVal → Int → Int
  | [], e => e
  | .fin _ _ e' :: l, e => minExp l (min e' e)
  | _ :: l, e => minExp l e

/-- The finite terms summed as multiples of 2^q. -/
def sumAt (q : Int) : List FVal → Int
  | [] => 0
  | .fin n m e :: l =>
    let x : Int := (m * 2 ^ (e - q).toNat : Nat)
    (if n then -x else x) + sumAt q l
  | _ :: l => sumAt q l

/-- Every term is −0. -/
def allNegZero (l : List FVal) : Bool :=
  l.all fun v => match v with
    | .fin true 0 _ => true
    | _ => false

/-- The exact sum of terms (R112): NV where infinities of both signs meet. -/
def sumF (l : List FVal) : FVal × AFlags :=
  let pInf := l.any (· == .inf false)
  let nInf := l.any (· == .inf true)
  if pInf && nInf then (.nan false, flagNV)
  else if l.any FVal.isNan then (.nan false, 0)
  else if pInf then (.inf false, 0)
  else if nInf then (.inf true, 0)
  else
    let q := minExp l 0
    let s := sumAt q l
    if s = 0 then (.fin (allNegZero l && !l.isEmpty) 0 0, 0)
    else (.fin (s < 0) s.natAbs q, 0)

/-- −1, 0 or 1 as the finite or infinite value x is below, equal to or above y. -/
def cmpF (x y : FVal) : Int :=
  match x, y with
  | .inf a, .inf b => if a == b then 0 else if a then -1 else 1
  | .inf a, _ => if a then -1 else 1
  | _, .inf b => if b then 1 else -1
  | x, y => (sumAt (minExp [x, y] 0) [x, y.neg]).sign

/-- The sign of a value that is not NaN. -/
def FVal.isNeg : FVal → Bool
  | .nan _ => false
  | .inf n => n
  | .fin n _ _ => n

/-- The two operands read from codes, with their input flags. -/
def read2 (f : Fmt) (a b : Nat) : FVal × FVal × AFlags :=
  (decodeF f a, decodeF f b, inputFlags f a ||| inputFlags f b)

/-- VADD (R111, R112). -/
def addC (f : Fmt) (a b : Nat) : Nat × AFlags :=
  let (x, y, fi) := read2 f a b
  let (v, fv) := sumF [x, y]
  let (r, fr) := roundF f v
  (r, fi ||| fv ||| fr)

/-- VSUB: x + (−y) (R111). -/
def subC (f : Fmt) (a b : Nat) : Nat × AFlags :=
  let (x, y, fi) := read2 f a b
  let (v, fv) := sumF [x, y.neg]
  let (r, fr) := roundF f v
  (r, fi ||| fv ||| fr)

/-- VMUL (R111, R112). -/
def mulC (f : Fmt) (a b : Nat) : Nat × AFlags :=
  let (x, y, fi) := read2 f a b
  let (v, fv) := mulF x y
  let (r, fr) := roundF f v
  (r, fi ||| fv ||| fr)

/-- VFMA and VFNMA: d ± a × b, rounded once (R111). -/
def fmaC (negate : Bool) (f : Fmt) (a b d : Nat) : Nat × AFlags :=
  let (x, y, fi) := read2 f a b
  let z := decodeF f d
  let (p, fp) := mulF x y
  let (v, fv) := sumF [if negate then p.neg else p, z]
  let (r, fr) := roundF f v
  (r, fi ||| inputFlags f d ||| fp ||| fv ||| fr)

/-- VMIN and VMAX (R114): −0 lies below +0. -/
def minMaxC (isMax : Bool) (f : Fmt) (a b : Nat) : Nat × AFlags :=
  let (x, y, fi) := read2 f a b
  if x.isNan || y.isNan then (nanCode f, fi)
  else
    let c := cmpF x y
    let xFirst := if c = 0 then x.isNeg || !y.isNeg else c < 0
    let v := if xFirst != isMax then x else y
    ((roundF f v).1, fi)

/-- The comparisons of R113. -/
inductive CmpOp where
  | eq | lt | le
  deriving DecidableEq, Repr

/-- VCEQ, VCLT and VCLE: all ones where the comparison holds (R113). -/
def cmpC (op : CmpOp) (f : Fmt) (a b : Nat) : Nat × AFlags :=
  let (x, y, fi) := read2 f a b
  let holds :=
    if x.isNan || y.isNan then false
    else match op with
      | .eq => cmpF x y = 0
      | .lt => cmpF x y < 0
      | .le => cmpF x y ≤ 0
  (if holds then 2 ^ f.width - 1 else 0, fi)

/-- The error term of TWOSUM and TWOPROD in binary32: exact minus rounded (R115). -/
def errorTerm (exact : FVal) (rounded : Nat) : Nat × AFlags :=
  match decodeF .b32 rounded with
  | .fin n m e =>
    let (d, _) := sumF [exact, .fin (!n) m e]
    let (r, fr) := roundF .b32 d
    (r, fr &&& flagFL)
  | _ => (0, 0)

/-- TWOSUM: the rounded sum and its error (R115). -/
def twoSumC (a b : Nat) : Nat × Nat × AFlags :=
  let (x, y, _) := read2 .b32 a b
  let (r, fr) := addC .b32 a b
  let (e, fe) := errorTerm (sumF [x, y]).1 r
  (r, e, fr ||| fe)

/-- TWOPROD: the rounded product and its error (R115). -/
def twoProdC (a b : Nat) : Nat × Nat × AFlags :=
  let (x, y, _) := read2 .b32 a b
  let (r, fr) := mulC .b32 a b
  let (e, fe) := errorTerm (mulF x y).1 r
  (r, e, fr ||| fe)

/-- A value rounded to INT32 (R116). -/
def toInt32 : FVal → Nat × AFlags
  | .nan _ => (0, flagNV)
  | .inf n => (if n then 0x80000000 else 0x7FFFFFFF, flagNV)
  | .fin n m e =>
    let (r, inexact) := atQuantum m e 0
    let i : Int := if n then -(r : Int) else r
    if i < -(2 ^ 31 : Int) then (0x80000000, flagNV)
    else if (2 ^ 31 : Int) ≤ i then (0x7FFFFFFF, flagNV)
    else ((i % 2 ^ 32).toNat, flagIf inexact flagNX)

/-- The value of an INT32 code; zero is +0 (R116). -/
def ofInt32 (x : Nat) : FVal :=
  let i : Int := if 2 ^ 31 ≤ x then (x : Int) - 2 ^ 32 else x
  .fin (i < 0) i.natAbs 0

/-- Bits of one element of a type. CH6 takes a byte (R71). -/
def elemBits : ElemType → Nat
  | .binary32 => 32
  | .ch16 => 16
  | .ch8e => 8
  | .ch8m => 8
  | .ch6 => 8
  | .ch4 => 4
  | .int32 => 32

/-- The code bits of a stored element; bits 7:6 of a CH6 byte are ignored (R71). -/
def elemCode (t : ElemType) (x : Nat) : Nat :=
  match t with
  | .ch6 => x % 64
  | _ => x

/-- VCVT of one element (R116). -/
def cvtC (src dst : ElemType) (x : Nat) : Nat × AFlags :=
  let x := elemCode src x
  let (v, fi) := if src = .int32 then (ofInt32 x, 0)
    else (decodeF (fmtOf src) x, inputFlags (fmtOf src) x)
  if dst = .int32 then
    let (r, fr) := toInt32 v
    -- each of the three invalid cases sets NV and no other flag; FL records an input flush
    (r, fr ||| (fi &&& (flagFL ||| flagNV)))
  else
    let (r, fr) := roundF (fmtOf dst) v
    (r, fi ||| fr)

/-- A dyadic value times 2^k. -/
def scaleF (k : Int) : FVal → FVal
  | .fin n m e => .fin n m (e + k)
  | v => v

/-- A block element under an SC8 code (R118, R119): the value of the element times the scale. -/
def blockValue (t : ElemType) (code : Nat) (x : Nat) : FVal :=
  let f := fmtOf t
  let x := elemCode t x
  if code = 0 then .fin (x.testBit (f.ebits + f.fbits)) 0 0
  else if code = 255 then .nan false
  else scaleF ((code : Int) - 127) (decodeF f x)

/-- The smallest code from `c` on, within `fuel`, with m < T_F × 2^(c − 127), for m = mag × 2^exp
and T_F = tm × 2^te (R121). -/
def scaleSearch (mag : Nat) (exp : Int) (tm : Nat) (te : Int) : Nat → Nat → Nat
  | 0, c => c
  | fuel + 1, c =>
    if cmpF (.fin false mag exp) (.fin false tm (te + c - 127)) < 0 then c
    else scaleSearch mag exp tm te fuel (c + 1)

/-- The overflow threshold of a format: (2 − 2^−(fbits+1)) × 2^emax (R109). -/
def overflowThreshold (f : Fmt) : Nat × Int :=
  (2 ^ (f.fbits + 2) - 1, (f.emax : Int) - 1 - f.bias - f.fbits - 1)

/-- The largest magnitude of the finite values, or zero. -/
def maxMag : List FVal → FVal
  | [] => .fin false 0 0
  | .fin _ m e :: l =>
    let r := maxMag l
    if cmpF r (.fin false m e) < 0 then .fin false m e else r
  | _ :: l => maxMag l

/-- The scale code of a block of binary32 values (R121, step 2). -/
def blockScale (t : ElemType) (xs : List FVal) : Nat :=
  match maxMag xs with
  | .fin _ 0 _ => if xs.all FVal.isZero then 0 else 127
  | .fin _ m e =>
    let (tm, te) := overflowThreshold (fmtOf t)
    scaleSearch m e tm te 253 1
  | _ => 127

/-- One element of a block encode (R121, step 3): its code, its flags without those of step 1, and
whether it counts in CL_BLCOUNT. -/
def blockElem (t : ElemType) (code : Nat) (x : FVal) : Nat × AFlags × Bool :=
  let f := fmtOf t
  if code = 0 then (signBit f x.isNeg, 0, false)
  else match x with
    | .fin n m e =>
      let (r, fr) := roundFin f n m (e + 127 - code)
      let lost := m != 0 && r % 2 ^ (f.ebits + f.fbits) == 0
      (r, fr ||| flagIf lost (flagBL ||| flagUF ||| flagNX), lost)
    | v => ((roundF f v).1, 0, false)

/-- The events that an A40 rounding keeps: OF, FL and NV (R126). -/
def a40Events (f : AFlags) : AFlags := f &&& (flagNV ||| flagOF ||| flagFL)

/-- An A40 code from an exact value (R126). -/
def roundA40 (v : FVal) : BitVec 40 × AFlags :=
  let (r, fr) := roundF .a40 v
  (BitVec.ofNat 40 r, a40Events fr)

/-- An A40 accumulator plus an exact value, rounded once (R126). -/
def addA40 (acc : BitVec 40) (v : FVal) : BitVec 40 × AFlags :=
  let (s, fs) := sumF [decodeF .a40 acc.toNat, v]
  let (r, fr) := roundA40 s
  (r, a40Events fs ||| fr)

/-- The S16X3 split of a binary32 input (R155): hi, lo and the events of the tile. -/
def splitS16 (x : Nat) : FVal × FVal × AFlags :=
  let fi := inputFlags .b32 x
  match decodeF .b32 x with
  | .fin n m e =>
    let (hi, fh) := roundFin .ch16 n m e
    match decodeF .ch16 hi with
    | .fin hn hm he =>
      let (d, _) := sumF [.fin n m e, .fin (!hn) hm he]
      (.fin hn hm he, decodeF .ch16 (roundF .ch16 d).1, fi)
    | v => (v, .fin false 0 0, fi ||| (fh &&& flagOF))
  | .inf n => (.inf n, .fin false 0 0, fi)
  | .nan _ => (.nan false, .fin false 0 0, fi)

/-- The hi and lo of a PAIR readout (R129). -/
def pairOf (a : BitVec 40) : Nat × Nat × AFlags :=
  let v := decodeF .a40 a.toNat
  let (hi, fh) := roundF .b32 v
  match v, decodeF .b32 hi with
  | .fin _ m _, .fin hn hm he =>
    if m = 0 then (hi, 0, fh)
    else if hm = 0 then (hi, hi, fh)
    else
      let (d, _) := sumF [v, .fin (!hn) hm he]
      let (lo, fl) := roundF .b32 d
      (hi, lo, fh ||| fl)
  | _, _ => (hi, 0, fh)

end Sys2Proof.Machine
end

