-- ==== Sys2Proof/Machine/Store.lean ====
section
/-! DEFINITION. Sparse stores in one canonical form: keys strictly rising, no entry equal to what an
unlisted key reads as. Registers, memories and tables are such stores. -/

namespace Sys2Proof.Machine

/-- A sparse table from numbers to values. -/
abbrev Store (α : Type) := List (Nat × α)

/-- The entry of a key, where it is listed. -/
def Store.find? {α : Type} : Store α → Nat → Option α
  | [], _ => none
  | (k', v) :: m, k => if k' = k then some v else Store.find? m k

/-- The value of a key; an unlisted key reads as the default. -/
def Store.get {α : Type} (d : α) (m : Store α) (k : Nat) : α := (Store.find? m k).getD d

/-- The table without a key. -/
def Store.erase {α : Type} : Store α → Nat → Store α
  | [], _ => []
  | (k', v) :: m, k => if k' = k then Store.erase m k else (k', v) :: Store.erase m k

/-- The table with an entry for a key, in order. -/
def Store.insert {α : Type} : Store α → Nat → α → Store α
  | [], k, v => [(k, v)]
  | (k', v') :: m, k, v =>
    if k < k' then (k, v) :: (k', v') :: m
    else if k = k' then (k, v) :: m
    else (k', v') :: Store.insert m k v

/-- The table with a value for a key; writing the default removes the entry. -/
def Store.set {α : Type} [DecidableEq α] (d : α) (m : Store α) (k : Nat) (v : α) : Store α :=
  if v = d then Store.erase m k else Store.insert m k v

/-- The keys are strictly rising. -/
def Store.sorted {α : Type} : Store α → Bool
  | [] => true
  | [_] => true
  | (k, _) :: (k', v) :: m => decide (k < k') && Store.sorted ((k', v) :: m)

/-- The canonical form: keys strictly rising, no entry equal to the default. -/
def Store.wf {α : Type} [DecidableEq α] (d : α) (m : Store α) : Bool :=
  Store.sorted m && m.all fun e => decide (e.2 ≠ d)

/-- A byte memory. -/
abbrev Memory := List Host.Cell

/-- What an unlisted address reads as: zero. Loft reads zero once scrubbed (R184, R440); for granary
and host memory it is log entry 5. -/
def Memory.blank : Byte := 0

/-- The canonical form of a memory. -/
abbrev Memory.wf (m : Memory) : Bool := Store.wf Memory.blank m

/-- One byte of a memory. -/
def Memory.read (m : Memory) (a : Nat) : Byte := Store.get Memory.blank m a

/-- A memory with one byte written. -/
def Memory.write (m : Memory) (a : Nat) (b : Byte) : Memory := Store.set Memory.blank m a b

/-- `n` bytes from an address on. -/
def Memory.readBytes (m : Memory) (a : Nat) : Nat → List Byte
  | 0 => []
  | n + 1 => m.read a :: Memory.readBytes m (a + 1) n

/-- Bytes written from an address on. -/
def Memory.writeBytes (m : Memory) (a : Nat) : List Byte → Memory
  | [] => m
  | b :: l => Memory.writeBytes (m.write a b) (a + 1) l

/-- A memory with `n` bytes from an address on at their blank value. -/
def Memory.clear (m : Memory) (a n : Nat) : Memory :=
  m.filter fun e => decide (e.1 < a) || decide (a + n ≤ e.1)

/-- Bytes as a number, least significant first (R2). -/
def leNat : List Byte → Nat
  | [] => 0
  | b :: l => b.toNat + 256 * leNat l

/-- The low `n` bytes of a number, least significant first (R2). -/
def leBytes : Nat → Nat → List Byte
  | 0, _ => []
  | n + 1, x => BitVec.ofNat 8 x :: leBytes n (x / 256)

end Sys2Proof.Machine
end

