-- ==== Sys2Proof/Machine/State.lean ====
section
/-! DEFINITION. The state of the wafer and its module, as plain data: every register, buffer, table
and pin the spec names (INVENTORY.md lists them with their rules and reset values), and the queue of
the commands that wait. -/

namespace Sys2Proof.Machine

/-- Why a command could stop the block. No command does: each has the effect the spec gives it. -/
inductive Fault where
  /-- raised by nothing; kept so that the type of faults is inhabited. Safe. -/
  | unreached
  deriving DecidableEq, Repr

/-- Why the model has no meaning for a command. -/
inductive Refusal where
  /-- raised by the dispatcher for a command that the model does not give a meaning yet. Safe. -/
  | notModelled (mnemonic : String)
  deriving DecidableEq, Repr

/-! ### The cell (02, 03, 05, 06, 07) -/

/-- Run states of a cell (02, Run states). -/
inductive RunState where
  | halted | running | sleeping | faulted
  deriving DecidableEq, Repr

/-- A loop counter with the loop it drives (R40 to R43). -/
structure LoopCtr where
  count  : BitVec 24 := 0
  start  : PAddr := 0
  stop   : PAddr := 0
  active : Bool := false
  deriving DecidableEq, Repr

/-- A fetched word that has not issued (R69). -/
structure HeldWord where
  addr     : PAddr
  word     : Word14
  parityOk : Bool
  deriving DecidableEq, Repr

/-- A result of the scalar or the vector unit that is not written yet (R31). -/
structure Result where
  unit : ExecUnit
  /-- address of the instruction's first word -/
  addr : PAddr
  sdst : Option (SReg × Word) := none
  vdst : List (VReg × Vec512) := []
  zn   : Option (Bool × Bool) := none
  c    : Option Bool := none
  v    : Option Bool := none
  flags : AFlags := 0
  /-- elements that a block encode turned into zero (R121) -/
  lost : Nat := 0
  deriving DecidableEq, Repr

/-- What a sleeping cell waits on (R44, R61). -/
inductive WaitOn where
  | flag (k : FlagNo)
  | latch (l : LatchId)
  | tick
  deriving DecidableEq, Repr

/-- The wait of a sleeping cell: its condition, deadline and result register, and the refusal of its
WAITREG (R46, R47, R268). -/
structure Wait where
  on       : WaitOn
  deadline : Option DWord := none
  result   : Option SReg := none
  /-- tick at which its WAITREG was refused -/
  refused  : Option Nat := none
  deriving DecidableEq, Repr

/-- An accumulator tile (R145): elements by index, view 8 or 16, events NV, OF and FL (R127). -/
structure Tile where
  elems  : Store (BitVec 40) := []
  wide   : Bool := false
  events : AFlags := 0
  deriving DecidableEq, Repr

/-- A weight tile (R136): type, 16 element rows of up to 16 B, column scale codes, carried NV event
(R148). -/
structure WTile where
  type   : ElemType := .ch8e
  rows   : BitVec 2048 := 0
  scales : BitVec 64 := 0x7F7F7F7F7F7F7F7F#64
  nv     : Bool := false
  deriving DecidableEq, Repr

/-- Who registered a range (R170, R175). -/
inductive SbOwner where
  | load | staging | product (id : Nat) | writeback (id : Nat) | wain (key : Nat)
  deriving DecidableEq, Repr

/-- A scoreboard entry, at 64 B granularity: first and one past the last byte (R169). -/
structure SbEntry where
  start : Nat
  stop  : Nat
  busy  : Bool
  owner : SbOwner
  deriving DecidableEq, Repr

/-- A product in the array (R150): the tiles as it leaves them, whether it has taken its last input
row or its last weight line, whether it reads the shadow tile, and whether it is an MMT. -/
structure Product where
  id         : Nat
  tiles      : List (AccNo × Tile)
  rowsTaken  : Bool
  readsShadow : Bool
  stream     : Bool
  deriving DecidableEq, Repr

/-- A write-back in the array (R149): the rows still to be written, as loft bytes. -/
structure WriteBack where
  id    : Nat
  acc   : AccNo
  addr  : PAddr
  /-- KEEP, and view rows that KEEP = 0 clears -/
  keep  : Bool
  rows  : Nat
  bytes : List (Nat × List Byte)
  flags : AFlags
  deriving DecidableEq, Repr

/-- An input queue (R196 to R212): its configuration record (R371), the buffer and the ring's head and
count, the accepted season, slots freed and not returned, and credits kept back (R224, R230). -/
structure Queue where
  cfg      : DWord := 0
  buf      : List SFlit := []
  ringHead : Nat := 0
  ringLen  : Nat := 0
  season   : Season := 0
  freed    : Nat := 0
  /-- credits from downstream of a multicast span, not passed on (R207) -/
  down     : Nat := 0
  /-- credits kept back for a channel of a scanned plot (R224) -/
  retained : Bool := false
  /-- credits kept back by a run-dry of the queue's own plot (R230) -/
  dryHeld  : Bool := false
  deriving DecidableEq, Repr

/-- An output channel (R203 to R205): its configuration record (R371), credits, and
whether it is stopped (R216, R223) with markers outstanding. -/
structure Chan where
  cfg     : BitVec 128 := 0
  credits : Nat := 0
  stopped : Bool := false
  markers : Nat := 0
  deriving DecidableEq, Repr

/-- A load from another cell of the bay (R188). -/
structure BayLoad where
  tag  : Byte
  addr : PAddr
  /-- address words of the instruction for a trap: first word, length, raw words -/
  len  : Nat
  raw  : DWord
  window : Nat
  dst  : SReg ⊕ VReg
  /-- bytes loaded -/
  size : Nat
  mask : BitVec 16
  deriving DecidableEq, Repr

/-- One logical cell. -/
structure Cell where
  sregs    : Store Word := []
  vregs    : Store Vec512 := []
  cond     : CondBits := {}
  /-- accumulator tiles a0 to a3 -/
  tiles    : Store Tile := []
  working  : WTile := {}
  shadow   : WTile := {}
  /-- an MLDW is writing the shadow tile (R138) -/
  filling  : Option WTile := none
  products : List Product := []
  /-- an MMT at the head of issue stages its inputs (R142) -/
  staging  : Bool := false
  /-- MWBs whose rows are not all written, oldest first -/
  writebacks : List WriteBack := []
  nextId   : Nat := 0
  queues   : Store Queue := []
  chans    : Store Chan := []
  /-- stale flag, where enabled (R212) -/
  stale    : Option FlagNo := none
  /-- the instruction that issued last was a PUSH to this channel, whose packet is open (R205) -/
  pushed   : Option ChanNo := none
  loops    : Store LoopCtr := []
  /-- active loops, the one set up most recently first (R41) -/
  loopOrder : List CtrNo := []
  /-- return stack, top first (R39) -/
  rstack   : List PAddr := []
  /-- address of the first instruction that has not issued -/
  pc       : PAddr := 0
  held     : List HeldWord := []
  results  : List Result := []
  /-- CLAIMs outstanding: tag and destination (R264) -/
  claims   : List (BitVec 3 × SReg) := []
  bayLoads : List BayLoad := []
  /-- stores to other cells not acknowledged, by tag (R189) -/
  bayStores : List Byte := []
  board    : List SbEntry := []
  run      : RunState := .halted
  wait     : Option Wait := none
  /-- CL_SELF -/
  self     : Word := 0
  /-- CL_PLOT -/
  plot     : Word := 0
  /-- CL_TRAP_CAUSE -/
  cause    : Word := 0
  /-- CL_TRAP_EPC -/
  epc      : PAddr := 0
  /-- CL_TRAP_INFO -/
  info     : Word := 0
  /-- CL_TRAP_RAW -/
  raw      : DWord := 0
  /-- CL_STATUS.INTRAP -/
  intrap   : Bool := false
  /-- CL_AFLAGS -/
  aflags   : AFlags := 0
  /-- CL_AFTRAP -/
  aftrap   : AFlags := 0
  /-- a pending arithmetic trap with the address of the flag-setting instruction (R51) -/
  arith    : Option PAddr := none
  /-- CL_BLCOUNT -/
  blcount  : Word := 0
  /-- CL_EVFLAGS -/
  evflags  : BitVec 16 := 0
  /-- CL_EVLOST -/
  evlost   : BitVec 16 := 0
  /-- CL_VMASK -/
  vmask    : BitVec 16 := 0xFFFF
  /-- CL_BKPT: EN and ADDR -/
  bkptEn   : Bool := false
  bkptAddr : PAddr := 0
  /-- the cell's read snapshot: low-half offset and high half (R10) -/
  csrSnap  : Option (Nat × Word) := none
  /-- the owning plot, as the network interface holds it (R247); 127 for none -/
  owner    : PlotId := 127
  /-- trap frame reported by the library's report-and-halt routine (R37); stopped by a double trap -/
  reported : Bool := false
  doubleTrap : Bool := false
  /-- stopped by a plot fault with its state kept (R221, R449) -/
  frozen   : Bool := false
  /-- a scrub of the cell's loft runs (R184) -/
  scrubbing : Bool := false
  /-- locked out (R453), dead, router dead, and missed probes (R456) -/
  lockedOut : Bool := false
  dead     : Bool := false
  routerDead : Bool := false
  missed   : Nat := 0
  deriving DecidableEq, Repr

/-! ### The mesh (08) -/

/-- State of a link direction (R246). -/
inductive LinkState where
  | down | init | up
  deriving DecidableEq, Repr

/-- A detour entry (R253): a rectangle of targets and a waypoint. -/
structure Detour where
  lxLo : Nat
  lxHi : Nat
  lyLo : Nat
  lyHi : Nat
  waypt : CellId
  deriving DecidableEq, Repr

/-- The tables of a network interface or hub that the ward writes (R247): its identity, plot origins {ly, lx} by
plot ID, and the detour table. -/
structure NiTables where
  origins : Store CellId := []
  detours : Store Detour := []
  /-- the interface's logical cell ID, where it is not the one the map gives, and its physical column and row -/
  self    : Option CellId := none
  coords  : Option (BitVec 10 × BitVec 9) := none
  deriving DecidableEq, Repr

/-! ### The hub (06, 08, 09, 18) -/

/-- A latch (R262). -/
structure Latch where
  val   : Bool := false
  owner : PlotId := 127
  /-- gate whose entry latch it is -/
  entry : Option (BitVec 6) := none
  /-- gate one of whose round latches it is -/
  done  : Option (BitVec 6) := none
  deriving DecidableEq, Repr

/-- A waiter entry (R267, R283). -/
structure Waiter where
  latch    : BitVec 11
  cell     : CellId
  deadline : Bool
  deriving DecidableEq, Repr

/-- Gate states (R273). -/
inductive GateState where
  | disabled | opened | up | faulted
  deriving DecidableEq, Repr

/-- A gate (R272 to R280): its registers, and the tick from which its timeout counts. -/
structure Gate where
  /-- FH_GATE_CTRL without TALLY; OWNER resets to 0x7F -/
  ctrl    : Word := 0x03F80000
  latch   : Word := 0
  state   : GateState := .disabled
  cur     : BitVec 2 := 0
  timeout : Word := 0x2710
  parent  : Word := 0
  mask    : BitVec 128 := 0
  arr     : BitVec 128 := 0
  nxt     : BitVec 128 := 0
  first   : DWord := 0
  /-- tick of the first early arrival, in NXT -/
  nfirst  : DWord := 0
  slots   : Store Word := []
  late    : BitVec 8 := 0
  cause   : BitVec 3 := 0
  fround  : BitVec 2 := 0
  fparent : Bool := false
  fslot   : BitVec 7 := 0
  since   : Option Nat := none
  /-- microseconds counted when the gate faulted (R279) -/
  count   : Nat := 0
  deriving DecidableEq, Repr

/-- Power and heat of a field (18): PW_EST, BALLAST, ACT and REASON of PW_HOLD, PW_TEMP, H_B with the
limit that binds, the supply alert with H_S, calibration, trip levels and weights (log entry 3). -/
structure FieldPower where
  est     : Word := 0
  ballast : Nat := 0
  act     : Nat := 0
  reason  : Nat := 0
  /-- reason that the running interval is charged to (R490) -/
  charge  : Nat := 0
  sensor  : BitVec 4 := 0
  ht      : Nat := 0
  tf      : BitVec 16 := 0
  /-- dynamic and static term of the last interval, in 1/32,000,000 W -/
  dyn     : Int := 0
  stat    : Int := 0
  hb      : Nat := 0
  hs      : Bool := false
  alert   : Bool := false
  /-- tick at which a cleared alert lets H_S fall (R489) -/
  clearAt : Option Nat := none
  cal     : DWord := 0x021600001770
  trip    : Word := 0x04B000F0
  weights : Store Word := []
  deriving DecidableEq, Repr

/-- A field hub: FH_ registers, latch and gate units, and the field's condition. -/
structure Hub where
  /-- the field's supply is on (R435) -/
  powered   : Bool := false
  dark      : Bool := false
  /-- the arithmetic clock is stopped: the field loop has lost lock (R473, R478) -/
  clkStop   : Bool := false
  /-- FH_LOFT_CTRL -/
  loftCtrl  : Word := 0x86
  /-- FH_LOFT_CECNT -/
  cecnt     : Word := 0
  /-- FH_LOFT_UELOG -/
  uelog     : DWord := 0
  /-- FH_LOFT_UECNT -/
  uecnt     : Word := 0
  /-- FH_LOFT_RESVIOL -/
  resviol   : Word := 0
  /-- FH_MESH_DROPCNT -/
  dropcnt   : Word := 0
  /-- FH_MESH_PARCNT -/
  parcnt    : Word := 0
  /-- FH_MESH_STITCHERR -/
  stitcherr : Word := 0
  /-- FH_MESH_DROPLOG -/
  droplog   : DWord := 0
  /-- program-parity errors of the field's cells (R38) -/
  pmemErrs  : Word := 0
  latches   : Store Latch := []
  /-- waiter table, in registration order -/
  waiters   : List Waiter := []
  /-- FH_SYNC_ERR -/
  misuse    : BitVec 16 := 0
  stranger  : BitVec 16 := 0
  /-- FH_SYNC_WAIT.FULLCNT -/
  fullcnt   : BitVec 14 := 0
  gates     : Store Gate := []
  /-- staging of a sync dump (R282) -/
  staging   : List Byte := []
  /-- the tick at which a wake, a WGO or a broadcast last reached the field (R442) -/
  roused    : Option Nat := none
  /-- PW_HOLD.H: the hold share of the field (R486) -/
  hold      : Nat := 0
  power     : FieldPower := {}
  deriving DecidableEq, Repr

/-! ### Wains and the granary (10) -/

/-- Wain states (WN_STATUS). -/
inductive WainState where
  | idle | running | waitmap | faulted | stopped | error
  deriving DecidableEq, Repr

/-- Where a translated address lies: a cell's loft, a granary stack's memory, a host window, or another
wafer through a mill (R289). -/
inductive Target where
  | cell (c : CellId)
  | stack (k : Nat)
  | host (w : BitVec 6)
  | remote (m : MillNo) (rank : Rank)
  deriving DecidableEq, Repr

/-- Bytes that a packet still has to read: where, how many, where they go in the packet, and for a
four-bit slot whether the high nibble is read and written (R291). -/
structure Piece where
  tgt  : Target
  addr : Nat
  n    : Nat
  at_  : Nat
  nib  : Option (Bool × Bool) := none
  deriving DecidableEq, Repr

/-- A packet of a descriptor (R293): its destination, its data, the pieces to read and being read by
tag, the tag of its write, whether it is sent and complete, and the pages that it was translated by. -/
structure WPacket where
  tgt   : Target
  addr  : Nat
  data  : List Byte
  todo  : List Piece
  reads : List (Byte × Piece)
  tag   : Byte := 0
  sent  : Bool := false
  done  : Bool := false
  pages : List (BitVec 21) := []
  deriving DecidableEq, Repr

/-- A wain (R285 to R310). -/
structure Wain where
  /-- owner plot, 127 where the ward keeps it (R285) -/
  owner    : PlotId := 127
  state    : WainState := .idle
  err      : BitVec 4 := 0
  dcount   : BitVec 20 := 0
  /-- chains held, the running one first -/
  chains   : List DWord := []
  /-- WN_DESC -/
  descAddr : DWord := 0
  /-- WN_PROGRESS -/
  progress : Word := 0
  /-- WN_REFUSED -/
  refused  : Word := 0
  /-- WN_FAULT -/
  fault    : DWord := 0
  /-- the descriptor being run, once fetched -/
  desc     : Option (BitVec 512) := none
  packets  : List WPacket := []
  /-- destination bytes whose packets have been issued -/
  issued   : Nat := 0
  /-- cached map entries, most recently used first (R301) -/
  cache    : List (BitVec 21 × DWord) := []
  /-- the translated part of the packet that is being formed: destination, pieces, pages -/
  partDst  : Option (Target × Nat) := none
  part     : List Piece := []
  partPages : List (BitVec 21) := []
  /-- page whose map entry a translation waits for (R301), for a write, for a descriptor fetch -/
  miss     : Option (BitVec 42 × Bool × Bool) := none
  /-- a page fault that is not yet recorded: WN_FAULT (R303) -/
  faulting : Option DWord := none
  /-- cells whose scoreboard holds its range (R170) -/
  ranges   : List CellId := []
  registered : Bool := false
  /-- a scan-out asks it to stop (R308) -/
  stopReq  : Bool := false
  /-- a run-dry stops it at the end of the descriptor (R230) -/
  dryReq   : Bool := false
  /-- sequence number of the fault it holds -/
  faultSeq : Option Word := none
  /-- recorded FAULT_RESUME action: retry or abort (R309) -/
  resume   : Option Bool := none
  deriving DecidableEq, Repr

/-- Stack states (R299). -/
inductive StackState where
  | off | active | selfref | unlicensed | failed
  deriving DecidableEq, Repr

/-- A granary stack: whether fuses mark it bad (R513), its state, GR_CECNT and GR_UELOG. -/
structure Stack where
  bad   : Bool := false
  state : StackState := .off
  cecnt : Word := 0
  uelog : DWord := 0
  deriving DecidableEq, Repr

/-! ### Plots (07) -/

/-- Plot states (R192). -/
inductive PlotState where
  | empty | loaded | running | done | stopped | faulted | scanned | dry
  deriving DecidableEq, Repr

/-- Where a scan-out put a plot's images (R225). -/
inductive ScanTarget where
  | loft
  | granary (addr : BitVec 42) (loftCopy : Bool)
  deriving DecidableEq, Repr

/-- What a scan-out captured of one cell (R223, R227): the cell, its program memory words, the rings
where the image holds them, and the image body as it was written (a free value, log entry 18). -/
structure Snap where
  cell  : Cell
  words : Store (BitVec 15)
  rings : List (Nat × List Byte)
  /-- uncorrectable 16-byte words of what was copied, by their number in the loft (R167) -/
  errs  : List Nat
  body  : List Byte
  deriving DecidableEq, Repr

/-- A plot of the loaded plan: HG_PLOT_ registers and what the ward holds of it. -/
structure Plot where
  state    : PlotState := .empty
  season   : Season := 0
  prev     : Season := 0
  config   : BitVec 4 := 0
  bay      : Bool := false
  width    : BitVec 10 := 0
  height   : BitVec 9 := 0
  lx       : BitVec 10 := 0
  ly       : BitVec 9 := 0
  /-- HG_PLOT_WDOG -/
  wdog     : Word := 0x800003E8
  /-- HG_PLOT_DRY -/
  dryCfg   : Word := 0x000A0064
  /-- HG_PLOT_EVENTS -/
  events   : BitVec 5 := 0
  /-- HG_PLOT_STALE -/
  stale    : Word := 0
  /-- HG_PLOT_DISCARD -/
  discard  : Word := 0
  /-- HG_PLOT_STALLAT -/
  stallAt  : DWord := 0
  /-- HG_PLOT_FENCEDROP -/
  fenceDrop : Word := 0
  /-- HG_PLOT_FAULT -/
  faultReg : Word := 0
  /-- tick of the last progress event (R219), and of the last tick with no cell held (R220) -/
  progress : Nat := 0
  unheld   : Nat := 0
  /-- start tick of a run-dry (R230) -/
  dryStart : Option Nat := none
  /-- bytes of the plot table entry: SCAN, configuration count, WAINMASK, scan area (R369) -/
  scanArea : Option (BitVec 21) := none
  configs  : Nat := 0
  wainMask : Byte := 0
  /-- power weight (R379) -/
  weight   : BitVec 16 := 256
  /-- where the last scan-out went, and the state it captured -/
  scan     : Option ScanTarget := none
  captured : PlotState := .empty
  /-- wain contexts that a scan-out captured (R308) -/
  contexts : List Wain := []
  /-- fault records of the plot held by the ward (R450), with its number and tick -/
  record   : List Byte := []
  /-- a scan-out waits for markers (R223) -/
  scanning : Bool := false
  /-- a scan-out stopped before it completed, and its channels stay stopped (R224, R458) -/
  scanCut  : Bool := false
  /-- cells captured by the last scan-out, in order of py and then px -/
  snaps    : List Snap := []
  /-- the plot was FAULTED when it was captured -/
  wasFaulted : Bool := false
  deriving DecidableEq, Repr

/-! ### The hinge and its ports (13 to 16) -/

/-- One field row of the map (R433): skipped physical columns, holes, blocked holes, holes marked in
service. Without a bad cell, the two spares are skipped. -/
structure MapRow where
  skip    : BitVec 80 := 0xC0000000000000000000#80
  hole    : BitVec 78 := 0
  blocked : BitVec 78 := 0
  insvc   : BitVec 78 := 0
  deriving DecidableEq, Repr

/-- A ledger entry (R431); row and column 0xFF name the field. -/
structure LedgerEntry where
  field  : Byte
  row    : Byte
  col    : Byte
  source : BitVec 2
  comp   : Bool
  rtr    : Bool
  revive : Bool
  epoch  : Word
  deriving DecidableEq, Repr

/-- A resident range (R180): key, first logical cell and shape of its rectangle, first byte and length,
whether a plan claims it and through which plot, and whether it is damaged (R183). -/
structure Resident where
  key     : Word
  lx      : Nat
  ly      : Nat
  width   : Nat
  height  : Nat
  start   : Nat
  len     : Nat
  claimed : Bool
  damaged : Bool
  /-- the plot that claims it: 127 for none (R182) -/
  holder  : PlotId := 127
  deriving DecidableEq, Repr

/-- A notice that waits for room in a ring (R413): kind, body length, tick and body. -/
structure Notice where
  kind : Nat
  len  : Nat
  tick : Nat
  body : List Byte
  deriving DecidableEq, Repr

/-- A viewport (R399): kind 1 GRANARY or 2 LOFT, with its base, or its plot, first cell and width. -/
structure View where
  kind  : BitVec 2
  base  : DWord
  plot  : PlotId
  px0   : Nat
  py0   : Nat
  width : Nat
  deriving DecidableEq, Repr

/-- A PCIe port: its mailboxes, notice ring and class F registers. -/
structure Port where
  /-- ring records by index (R413) -/
  ring    : Store (List Byte) := []
  noticesHeld : List Notice := []
  /-- next notice sequence number -/
  seq     : Nat := 0
  /-- HG_NOTICE_PROD -/
  prod    : Word := 0
  /-- HG_NOTICE_CONS -/
  cons    : Word := 0
  /-- HG_NOTICE_LOST -/
  lost    : Word := 0
  /-- MSI-X mask bits and pending bits (R414) -/
  mask    : BitVec 64 := 0xFFFFFFFFFFFFFFFF
  pend    : BitVec 64 := 0
  /-- MSI-X messages signalled, vector by vector, latest first -/
  signalled : List Nat := []
  /-- the link is up, with its negotiated width and speed (R391) -/
  linkUp  : Bool := false
  width   : BitVec 4 := 0
  speed   : BitVec 3 := 0
  /-- PERST# is asserted; Bus Master Enable (R403, R525) -/
  perst   : Bool := true
  bme     : Bool := false
  /-- HG_MB_ERR: ROWRITE, BADACC, SLOTWR -/
  mbRo    : Byte := 0
  mbBad   : Byte := 0
  mbSlot  : BitVec 16 := 0
  /-- HG_VP_ERR: ROWRITE, RDABORT, WRDROP -/
  vpRo    : BitVec 12 := 0
  vpAbort : BitVec 10 := 0
  vpDrop  : BitVec 10 := 0
  /-- mailbox slots: bytes at slot × 4096 + offset (R404) -/
  mbox    : Memory := []
  /-- MSI-X table: addresses and data by word (R394) -/
  msix    : Store Word := []
  /-- viewports that are not OFF (R399) -/
  views   : Store View := []
  /-- the last BAR2 completion: none for a Completer Abort -/
  lastRead : Option (List Byte) := none
  deriving DecidableEq, Repr

/-! ### Mills, threshing and tallies (09, 11, 12, 16) -/

/-- A tracking entry of a sending mill (R341): index, generation, requester with its tag, and the tick
from which its timeout counts. -/
structure Track where
  index : Nat
  gen   : Byte
  src   : Endpoint
  tag   : Byte
  since : Nat
  deriving DecidableEq, Repr

/-- A remote write that a mill has handed to its destination endpoint (R342): its mesh tag, the header
it answers, and for a request of this wafer the requester's tag. -/
structure Delivery where
  tag   : Byte
  hdr   : ChonelHdr
  /-- requester and tag of a request from this wafer -/
  local_ : Option (Endpoint × Byte)
  deriving DecidableEq, Repr

/-- A latch set or gate operation that a mill holds behind earlier writes (R271): its source wafer and
SRC, and what it delivers. -/
structure HeldOp where
  wafer : WaferId
  src   : CellId
  unit  : BitVec 6
  field : FieldNo
  body  : Body
  /-- mesh tags of the earlier writes from the same source, and the headers of those not yet handed on -/
  waits : List Byte
  queued : List Flit256
  deriving DecidableEq, Repr

/-- A segment or return record (R346). -/
structure ThrSeg where
  plot  : PlotId
  px    : Nat
  py    : Nat
  addr  : Nat
  /-- first element offset and number of elements -/
  first : Nat
  count : Nat
  deriving DecidableEq, Repr

/-- A child entry of a tensor record: wafer, mill and down sending mill. -/
structure ThrChild where
  wafer : WaferId
  mill  : MillNo
  down  : MillNo
  deriving DecidableEq, Repr

/-- A tensor record with the records, program and constants that it names (R346, R361, R362). -/
structure ThrTensor where
  id       : BitVec 12
  e        : Int
  count    : Nat
  children : List ThrChild
  cast     : ElemType
  /-- block size code, none for a cast without blocks -/
  block    : Option BlockSize
  root     : Bool
  parent   : WaferId
  parentMill : MillNo
  upMill   : MillNo
  segs     : List ThrSeg
  rets     : List ThrSeg
  sum      : Nat
  /-- granary addresses of P and S1 to S4 -/
  streams  : List Nat
  prog     : List Word
  consts   : List Word
  deriving DecidableEq, Repr

/-- A threshing group (R346) with its counts: completions of the trigger gate, a step that waits, the
TRIGOVF failure, steps started and steps that reached winnowing (R347, R361). -/
structure ThrGroup where
  id       : Nat
  mode     : BitVec 2
  maxRerun : Nat
  plot     : PlotId
  stride   : Nat
  trigger  : GateId
  harvest  : LatchId
  ret      : LatchId
  px       : Nat
  py       : Nat
  addr     : Nat
  retention : Nat
  timeout  : Nat
  tensors  : List ThrTensor
  count    : Nat := 0
  waiting  : Bool := false
  faulted  : Bool := false
  steps    : Nat := 0
  winnowed : Nat := 0
  deriving DecidableEq, Repr

/-- States of the threshing engine (ML_THR_STATUS). -/
inductive ThrState where
  | idle | harvest | up | winnow | down | faulted
  deriving DecidableEq, Repr

/-- The running step of a threshing engine: the elements taken from each input of each tensor, the
subtree checksums received, how many elements of each tensor have been summed, the sums, the updated
parameters, and what the status record needs. Keys are tensor index × 16 + input. -/
structure ThrRun where
  group   : Nat
  step    : Nat
  attempt : Nat := 0
  residue : Bool := true
  recv    : Store (List (BitVec 96 × BitVec 13)) := []
  checks  : Store DWord := []
  /-- tensors sent up or verified, in record order -/
  done    : Nat := 0
  /-- elements of the next tensor already summed -/
  summed  : Nat := 0
  sums    : Store (List (BitVec 96)) := []
  vals    : Store (List Word) := []
  ended   : List Nat := []
  /-- first failure of the step, and whether the step is BAD or this node has stopped sending -/
  first   : Option ThrFail := none
  bad     : Bool := false
  failed  : Bool := false
  /-- the OVERFLOW that the harvest met: tensor and element (R350) -/
  ovf     : Option (Nat × Nat) := none
  /-- the step has reached winnowing (R361) -/
  reached : Bool := false
  refused : Nat := 0
  losses  : Nat := 0
  nv      : Nat := 0
  of_     : Nat := 0
  fl      : Nat := 0
  progress : Nat := 0
  deriving DecidableEq, Repr

/-- Frame types (R317). -/
inductive FrameType where
  | data | idle | train | ident | time
  deriving DecidableEq, Repr

/-- A frame that a group has sent (R316). -/
structure TxFrame where
  type  : FrameType
  group : BitVec 2
  ctl   : FrameCtl
  slots : List Slot
  /-- TIME: its timestamps (R332) -/
  time  : Option TimeMsg := none
  /-- TRAIN: the training state and lane map, and whether it announces DOWN (R326, R344) -/
  train : Option (BitVec 3 × List (BitVec 5) × Bool) := none
  deriving DecidableEq, Repr

/-- A mill (R311 to R345): link, lanes, sender, receiver, partner, remote traffic and threshing. -/
structure Mill where
  /-- fuses mark it bad (R513); enabled by the licence in force -/
  bad      : Bool := false
  licensed : Bool := true
  /-- ML_LINK.STATE, REASON, GROUPS, PEERPACE, DOWNCNT -/
  link     : BitVec 3 := 0
  reason   : BitVec 4 := 0
  groups   : BitVec 4 := 0
  peerPace : Bool := false
  downcnt  : BitVec 16 := 0
  /-- ML_LINK_CFG -/
  cfg      : Word := 1
  /-- ML_LANES: logical lanes on spares 16 and 17, failed lanes -/
  sp0      : Option (BitVec 4) := none
  sp1      : Option (BitVec 4) := none
  failed   : BitVec 18 := 0
  /-- ML_CREDIT_CFG -/
  creditCfg : Word := 0x24142404
  /-- ML_FECCNT -/
  ue       : Word := 0
  ce       : Word := 0
  /-- ML_REPLAY -/
  nakrx    : BitVec 16 := 0
  timer    : BitVec 16 := 0
  /-- ML_ERRLOG -/
  errlog   : DWord := 0
  /-- ML_TIME.ROLE, OFFSET -/
  role     : BitVec 2 := 0
  offset   : BitVec 24 := 0
  /-- ML_PACE -/
  lastWafer : WaferId := 0
  usec     : BitVec 20 := 0
  /-- tick / 100 of the last microsecond counted in ML_PACE, and of the last one with PACE sent (R463) -/
  paceAt   : Nat := 0
  paceSent : Nat := 0
  /-- ML_REMOTE.LATE, FAILED -/
  late     : Byte := 0
  failedCnt : BitVec 11 := 0
  /-- ML_RTIMEOUT.MS -/
  rtimeout : BitVec 16 := 10
  /-- ML_DROP -/
  dropJob  : BitVec 16 := 0
  dropBad  : BitVec 16 := 0
  /-- engine: light received, transmitter in probe mode, tick of the last burst (R314) -/
  light    : Bool := false
  probe    : Bool := false
  lastBurst : Nat := 0
  /-- tick of the last light, of the last accepted frame, and at which the training state began -/
  lightAt  : Nat := 0
  frameAt  : Nat := 0
  since    : Nat := 0
  /-- physical lanes locked and with their alignment block found (R326) -/
  locked   : BitVec 18 := 0
  aligned  : BitVec 18 := 0
  peerState : BitVec 3 := 0
  /-- the partner's lane map, by logical lane (R312, R326) -/
  laneMap  : List (BitVec 5) := []
  /-- groups that retrain alone (R328) -/
  regroup  : BitVec 4 := 0
  /-- a lane to name in SPAREREQ, with the group that it failed in -/
  spareReq : Option (BitVec 5 × Nat) := none
  /-- logical lanes that the sender moved to spares 16 and 17 -/
  txSp0    : Option (BitVec 4) := none
  txSp1    : Option (BitVec 4) := none
  partner  : Option IdentRec := none
  /-- an IDENT frame waits to be sent (R330) -/
  identDue : Bool := false
  /-- TIME exchanges made, a TIME frame that waits, and the RTT in 1/64 tick -/
  times    : Nat := 0
  timeDue  : Bool := false
  /-- a request of the partner that waits for its reply, with its arrival time (R332) -/
  timeReply : Option (BitVec 70 × BitVec 70) := none
  /-- the division of the receive buffer that training took (R321) -/
  division : List Nat := [0x04, 0x24, 0x14, 0x24]
  timeAt   : Nat := 0
  rtt      : Nat := 0
  /-- IDLE frames sent and received in CREDIT -/
  idleSent : Nat := 0
  idleGot  : Nat := 0
  /-- sender (R323, R324): next SEQ, unacknowledged frames, frames to resend, replays from one SEQ,
  the last NAK acted on with its tick, and the tick of the last ACK advance -/
  seq      : BitVec 16 := 0
  unacked  : List (BitVec 16 × List Slot) := []
  resend   : List (BitVec 16 × List Slot) := []
  replays  : Option (BitVec 16 × Nat) := none
  nakAt    : Option (BitVec 16 × Nat) := none
  ackAt    : Nat := 0
  /-- receiver: next expected SEQ, last SEQ accepted, NAK -/
  expect   : BitVec 16 := 0
  acked    : BitVec 16 := 0xFFFF
  nak      : Bool := false
  /-- credits held and freed slots to return, by LVC (R321) -/
  credits  : List Nat := [0, 0, 0, 0]
  freed    : List Nat := [0, 0, 0, 0]
  /-- slots that wait to be sent, and accepted slots that wait for delivery -/
  outq     : List Slot := []
  inq      : List Slot := []
  /-- payload slots still to drop of a dropped packet, by LVC; the LVC of the last new packet (R319) -/
  dropLeft : List Nat := [0, 0, 0, 0]
  lastLvc  : Nat := 0
  /-- the last frame sent -/
  sent     : Option TxFrame := none
  /-- a DOWN announcement is sent until this tick (R344) -/
  downUntil : Option Nat := none
  tracks   : List Track := []
  /-- generation of the tracking entries (R343) -/
  genAll   : Byte := 0
  deliveries : List Delivery := []
  heldOps  : List HeldOp := []
  /-- cached rank entries, most recently used first (R337) -/
  rankCache : List (Rank × Word) := []
  /-- cached map entries, most recently used first (R301) -/
  mapCache : List (BitVec 21 × DWord) := []
  /-- threshing: groups of the plan, ML_THR_ registers, the running step -/
  thrGroups : List ThrGroup := []
  thrState : ThrState := .idle
  thrGroup : BitVec 4 := 0
  thrAttempt : BitVec 2 := 0
  thrStep  : BitVec 16 := 0
  thrFault : DWord := 0
  thrLost  : Word := 0
  thrStale : Word := 0
  thrBad   : BitVec 16 := 0
  thrRerun : BitVec 16 := 0
  run      : Option ThrRun := none
  deriving DecidableEq, Repr

/-- The tally boundary (R284, R463): HG_TALLY_CFG, the tick its PERIOD counts from, HG_TALLY_STATUS,
the tick of a boundary that waits, the ticks of the last two, and the counters and tally registers of
every unit by unit × 32 + index. -/
structure Tally where
  cfg    : DWord := 0x186A0
  since  : Nat := 0
  skip   : BitVec 16 := 0
  seq    : BitVec 16 := 0
  due    : Option Nat := none
  last   : Nat := 0
  prev   : Nat := 0
  counts : Store DWord := []
  /-- estimated energy by field since the last boundary, in the estimator's unit over 2 µs (R463, R480) -/
  energy : Store Nat := []
  regs   : Store DWord := []
  deriving DecidableEq, Repr

/-- A host window (R402). -/
structure Window where
  port  : PortNo
  base  : DWord
  len   : Nat
  write : Bool
  /-- HOST_WINDOW_DEL waits for its packets (R307) -/
  closing : Bool := false
  deriving DecidableEq, Repr

/-- The licence state (R511 to R513): the variant in force (true for Full), its number, the record
accepted and not in force, and the last record accepted. -/
structure Licence where
  full   : Bool := true
  number : Word := 0
  next   : Option (Bool × Word) := none
  last   : List Byte := []
  deriving DecidableEq, Repr


/-! ### The ward (13 to 16) -/

/-- The stewardship (R417 to R419): 0 NONE, 1 HELD, 2 LAPSED; port, GEN, timeout in ms, and the tick from
which it counts. -/
structure Steward where
  state   : BitVec 2 := 0
  port    : PortNo := 0
  gen     : BitVec 28 := 0
  timeout : Nat := 0
  since   : Nat := 0
  deriving DecidableEq, Repr

/-- What an accepted mutating command waits for. -/
inductive Waiting where
  /-- PLOT_START with DISCARD 0: the channels drain, since a tick (R216) -/
  | drain (p : PlotId) (since : Nat)
  /-- PLOT_STOP in mode HALT: issued instructions complete (R194) -/
  | stop (p : PlotId)
  /-- PLOT_STOP in mode DRY, until DRY_END (R230) -/
  | dry (p : PlotId)
  /-- PLOT_SCAN_OUT, until SCAN_CAPTURE (R223) -/
  | scan (p : PlotId)
  /-- PLOT_MOVE: markers of the feeding channels (R390) -/
  | move (p : PlotId)
  /-- PLOT_MOVE: scrubs of the new cells (R184) -/
  | moved (p : PlotId)
  /-- PLAN_UNLOAD, PLOT_RESET and COMPUTE_RESET: packets of the wains that abandon their chains (R310) -/
  | abandon
  /-- REJOIN of a link, since a tick (R455) -/
  | rejoin (c : CellId) (port : BitVec 2) (since : Nat)
  /-- WARM_RESET, until READY (R437) -/
  | warm
  /-- GRANARY_MAP: packets translated through changed entries (R302) -/
  | map (pages : List Nat)
  /-- HOST_WINDOW_DEL: packets issued to the window (R307) -/
  | window (w : BitVec 6)
  /-- FW_STAGE: the blocks of the image (R506) -/
  | stage
  deriving DecidableEq, Repr

/-- A mutating command that has started and not completed (R406): where it was posted, its opcode word and
payload, whether its port still takes the answer (R415), and what it waits for. -/
structure Running where
  port    : PortNo
  slot    : SlotNo
  opword  : Word
  payload : List Byte
  live    : Bool
  what    : Waiting
  deriving DecidableEq, Repr

/-- A TALLY_READ with FORCE that waits for its boundary (R465). -/
structure Forced where
  port   : PortNo
  slot   : SlotNo
  target : DWord
  live   : Bool
  deriving DecidableEq, Repr

/-- A scheduled sync dump (R282). -/
structure Dump where
  target : DWord
  at_    : Nat
  port   : PortNo
  slot   : SlotNo
  live   : Bool
  deriving DecidableEq, Repr

/-- A block of the loaded plan image (R367): kind, plot, configuration, granary-map address of its body,
its length and its CRC. -/
structure PlanBlock where
  kind   : Nat
  plot   : Nat
  config : Nat
  addr   : Nat
  len    : Nat
  crc    : Word
  deriving DecidableEq, Repr

/-- The loaded plan: its image address, its blocks, and its load identifier (R228, R384). -/
structure PlanInfo where
  addr   : Nat
  blocks : List PlanBlock
  loadId : DWord
  /-- spill rings of every configuration: plot, box in it, first and one past the last byte (R180) -/
  rings  : List (Nat × (Nat × Nat × Nat × Nat) × (Nat × Nat))
  deriving DecidableEq, Repr

/-- Bring-up (15): HG_BOOT, the last stage finished, the next field that stage 4 powers, the ward runs,
HG_RESET_CAUSE, a warm reset that is held (its KIND), and the KIND of the reset under way. -/
structure Boot where
  stage   : BitVec 4 := 0
  err     : BitVec 4 := 0
  fast    : Bool := false
  xb      : Bool := false
  done    : Nat := 0
  nextField : Nat := 0
  wardrst : BitVec 16 := 0
  kind    : BitVec 3 := 0
  held    : Option (BitVec 3) := none
  doing   : BitVec 3 := 1
  /-- waits at stage 4 for COOL_OK (R424) -/
  coolWait : Bool := false
  /-- the crystal check repeats after a holdover (R473) -/
  recheck  : Bool := false
  deriving DecidableEq, Repr

/-! ### Clocks, power and firmware (17 to 20) -/

/-- Clocks (17): CK_XSTAT, CK_XCOUNT, CK_FOSC_CAL (log entry 3), spread depth and rate in force, CK_SSC, the
start of the profile period, CK_CLKMON, CK_LOCK bits 62:0, CK_RELOCK; windows counted, passes in a row
and agreement of the last window, and the tick at which a holdover began. -/
structure Clocks where
  sel      : BitVec 2 := 0
  xa       : BitVec 2 := 0
  xb       : BitVec 2 := 0
  switches : BitVec 16 := 0
  cntA     : BitVec 18 := 0
  cntB     : BitVec 18 := 0
  fosc     : BitVec 19 := 400000
  depth    : BitVec 5 := 0
  rate     : BitVec 7 := 0x40
  ssc      : BitVec 5 × BitVec 7 := (0, 0x40)
  sscStart : Nat := 0
  monSel   : BitVec 7 := 0x7F
  monDiv   : BitVec 16 := 0
  lock     : BitVec 63 := 0
  relock   : Word := 0
  windows  : Nat := 0
  passA    : Nat := 0
  passB    : Nat := 0
  agree    : Bool := false
  /-- agreement in the window in which both crystals became stable (R471) -/
  agree3   : Option Bool := none
  since    : Option Nat := none
  /-- relocking to the other crystal (R472) -/
  relocking : Bool := false
  deriving DecidableEq, Repr

/-- A record of the throttle log (R497). -/
structure ThrottleRec where
  start  : Nat
  dur    : Nat
  field  : Nat
  reason : Nat
  maxH   : Nat
  isOpen : Bool
  maxP   : Nat
  maxT   : Int
  deriving DecidableEq, Repr

/-- Power of the module (18): PW_LIMIT, PW_MODEST and PW_STATUS, the flash terms of R482, estimates of
earlier intervals in 1/32,768,000,000 W (latest first), the tick of the last interval, the throttle log by
number, open episodes with their intervals without a charge, and when each reason was last charged. -/
structure Power where
  sustained : Nat := 33000
  peak      : Nat := 40000
  window    : Nat := 1000
  conv      : Nat := 1067
  comp      : Nat := 0
  budget    : Nat := 0
  module_   : Nat := 0
  stackW    : Nat := 50
  millW     : Nat := 50
  hingeW    : Nat := 100
  stopped   : Bool := false
  cause     : BitVec 2 := 0
  hist      : List Nat := []
  lastAt    : Nat := 0
  log       : Store ThrottleRec := []
  logNext   : Nat := 0
  /-- open episodes: record number and intervals without a charge -/
  open_     : List (Nat × Nat) := []
  charged   : Store Nat := []
  deriving DecidableEq, Repr

/-- A firmware slot (R504): its state and image. -/
structure FwSlot where
  state : BitVec 3 := 0
  image : List Byte := []
  deriving DecidableEq, Repr

/-- Firmware (19): slots, running slot (true for B), attempts, fuse counter, HG_FW_VERSION and
HG_FW_SECVER.IMAGE, the settings areas (R500), and the tick at which an activation restarts the ward
(R507; log entry 3). -/
structure Firmware where
  a        : FwSlot := ⟨5, []⟩
  b        : FwSlot := {}
  running  : Bool := false
  attempts : BitVec 2 := 0
  fuse     : Nat := 0
  version  : Word := 0
  secver   : BitVec 7 := 0
  settingsA : List Byte := []
  settingsB : List Byte := []
  activate : Option Nat := none
  deriving DecidableEq, Repr

/-- JTAG instructions (R530). -/
inductive Jtag where
  | bypass | idcode | sample | extest
  deriving DecidableEq, Repr

/-- Pins of the module (20; log entry 8): WARM# high, a warm reset armed, one requested and not begun, COOL_OK, the 54 V input, the
I3C dynamic address and its last read, whether ALERT# was low when last reported with the in-band
interrupts raised, the JTAG instruction, and whether EXTEST drives the pins. -/
structure Pins where
  warmHigh : Bool := true
  armed    : Bool := true
  request  : Bool := false
  coolOk   : Bool := false
  input    : Bool := false
  i3cAddr  : Option (BitVec 7) := none
  i3cOut   : List Byte := []
  alertLow : Bool := false
  ibis     : Nat := 0
  jtag     : Jtag := .bypass
  extest   : Bool := false
  deriving DecidableEq, Repr

/-- Split accesses of one requester to one register block (R10): the offset of the last low-half read with
its snapshot, and a held low half. -/
structure RegAcc where
  snap : Option (Nat × Word) := none
  held : Option (Nat × Word) := none
  deriving DecidableEq, Repr

/-- The state of the module. -/
structure State where
  /-- commands that wait, first in first out -/
  pending : List Instr := []
  /-- the 10 ns tick counter (02, CL_TICK) -/
  tick    : Nat := 0
  /-- the model's own counter of free values drawn, not the spec's (log entry 2) -/
  drawn   : Nat := 0
  /-- ticks for which the tick counter is held still (R333) -/
  tickHold : Nat := 0
  /-- offset still to be slewed away, and the part of a tick slewed so far, in 1/4,000 tick (R333) -/
  slew    : Int := 0
  slewPart : Int := 0
  /-- mesh packets sent and not delivered (08) -/
  net     : List Packet := []
  cells   : Store Cell := []
  /-- program memory words that differ from the words of every cell, by cell × 8192 + address, with
  the parity bit in bit 14 (R33) -/
  pmem    : Store (BitVec 15) := []
  /-- program memory words that every cell holds unless `pmem` lists another (R58) -/
  pmemAll : Store (BitVec 15) := []
  /-- emulation library words of the running firmware (R58, R59) -/
  library : Store Word14 := []
  /-- loft bytes by cell × 2^21 + address (R161) -/
  loft    : Memory := []
  /-- loft error state by cell × 2^17 + word: 1 correctable, 2 uncorrectable (R166, R167) -/
  loftErr : Store Nat := []
  /-- words waiting for their corrected write-back (R166) -/
  scrubs  : List Nat := []
  /-- links by receiving router × 4 + input port, where they differ from `linkAll` (R246) -/
  links   : Store LinkState := []
  linkAll : LinkState := .down
  /-- links locked out (R453) -/
  linksOut : List Nat := []
  /-- the turns of the round-robins, by router × 128 + output × 16 + queue (R242, R251; log entry 73) -/
  arb     : Store Nat := []
  /-- reads that the hinge has passed to the host: requester, tag, bytes (R289, R403) -/
  hostReads : List (Endpoint × Byte × Nat) := []
  /-- network interface tables, and those that differ, by cell (R247) -/
  ni      : NiTables := {}
  niCell  : Store NiTables := []
  hubs    : Store Hub := []
  /-- detour and origin tables of a hub that differ, by field (R254) -/
  niHub   : Store NiTables := []
  /-- wains: hub wain i of field f is 8f + i, mill wain i of mill m is 384 + 2m + i -/
  wains   : Store Wain := []
  gstacks : Store Stack := []
  /-- granary bytes by physical address (R297) -/
  granary : Memory := []
  /-- granary error state by 64 B unit: 1 correctable, 2 uncorrectable (R298) -/
  granErr : Store Nat := []
  /-- the copies of the granary map in the stacks' ward areas, by stack × 2^21 + page; their errors stand in `granErr`
  (R300, R301) -/
  gmap    : Store DWord := []
  /-- the hinge's cache of map entries, most recently used first (R301) -/
  hingeCache : List (BitVec 21 × DWord) := []
  plots   : Store Plot := []
  ports   : Store Port := []
  /-- map rows by field × 64 + row (R433) -/
  map     : Store MapRow := []
  /-- HG_MAP_EPOCH -/
  epoch   : Word := 0
  /-- the ledger, in order (R431), and HG_LEDGER.LOST -/
  ledger  : List LedgerEntry := []
  ledgerLost : Word := 0
  /-- HG_FAULT_SEQ -/
  faultSeq : Word := 0
  /-- mills locked out (R453) -/
  millsOut : List MillNo := []
  /-- fields that went dark, in order (R254) -/
  darkOrder : List FieldNo := []
  /-- blocked holes when the ward last wrote detours, by field × 64 + row (R254) -/
  darkSeen : Store (BitVec 78) := []
  /-- resident ranges (R180 to R183) -/
  residents : List Resident := []
  /-- CL_LIBVER, the same in every cell (R59) -/
  libver  : Word := 0
  mills   : Store Mill := []
  /-- rank table copies in the hub loft of the mills, by mill × 2^21 + rank, and their route tables, by mill × 4,096 + wafer
  (R23, R336 to R338) -/
  ranks   : Store Word := []
  routes  : Store Word := []
  /-- what HG_RANK_WR and HG_ROUTE_WR were last written with (R10), and HG_RANK_STATUS -/
  rankWr : DWord := 0
  routeWr : DWord := 0
  badEnt  : Bool := false
  rankBusy : Bool := false
  tally   : Tally := {}
  /-- scheduled sync dump (R282), and TALLY_READs that wait for a boundary (R465) -/
  dump    : Option Dump := none
  forced  : List Forced := []
  licence : Licence := {}
  windows : Store Window := []
  /-- host memory by port × 2^64 + address (R402) -/
  hostMem : Memory := []
  /-- HG_BRIDGE.BRIDGE: 0 primary, 1 standby, 2 none, and DROP -/
  bridge  : BitVec 2 := 0
  bridgeDrop : BitVec 30 := 0
  /-- tick at which a switch to the standby bridge in service ends (R25) -/
  switchEnd : Option Nat := none
  /-- held page faults: sequence, wain, record (R303), and the next sequence -/
  pageFaults : List (Word × Nat × List Byte) := []
  pageSeq : Word := 0
  /-- wafer ID and job tag of the loaded plan (R367) -/
  wafer   : WaferId := 0
  jobtag  : BitVec 16 := 0
  jobLoaded : Bool := false
  /-- device serial (fuse, log entry 3) -/
  serial  : DWord := 0
  steward : Steward := {}
  /-- HG_MB_LASTSEQ -/
  lastSeq : Word := 0
  /-- commands posted and not started, in order (R406), and the mutating one that runs -/
  mail    : List (PortNo × SlotNo) := []
  running : Option Running := none
  /-- the ward has restarted, and takes no message until that command has ended (R416) -/
  restarting : Bool := false
  plan    : Option PlanInfo := none
  /-- the next load identifier (R228) -/
  nextLoad : DWord := 1
  boot    : Boot := {}
  /-- fuse map of bad compute and routers, self-test verdicts, stage 5 failures, by
  (field × 64 + row) × 128 + physical column (R425, R426; log entry 3) -/
  fuseComp : List Nat := []
  fuseRtr : List Nat := []
  failComp : List Nat := []
  failRtr : List Nat := []
  failLink : List Nat := []
  /-- fields that tripped at this bring-up -/
  tripped : List FieldNo := []
  /-- the map and epoch stored in flash (R428; log entry 3) -/
  flashMap : Store MapRow := []
  flashEpoch : Word := 0
  dormant : Bool := false
  clocks  : Clocks := {}
  power   : Power := {}
  fw      : Firmware := {}
  pins    : Pins := {}
  /-- split accesses by requester and block (R10), and the value of the last register read -/
  regAcc  : Store RegAcc := []
  regOut  : Option DWord := none
  deriving DecidableEq, Repr

/-- The state right after a cold power-on, before bring-up: every field at the value that
INVENTORY.md gives it. -/
def State.reset : State := {}

end Sys2Proof.Machine
end

