-- ==== Sys2Proof/Machine/Ops.lean ====
section
/-! DEFINITION. The named operations over the state: reading and writing its parts, identifiers and
places, bit fields, notices. -/

namespace Sys2Proof.Machine

/-- The outcome of every command: a next state. -/
abbrev Out := Host.Outcome State Fault Refusal

/-! ### Parts of the state -/

def State.cell (s : State) (c : CellId) : Cell := Store.get {} s.cells c.toNat
def State.setCell (s : State) (c : CellId) (v : Cell) : State :=
  { s with cells := Store.set {} s.cells c.toNat v }
def State.modCell (s : State) (c : CellId) (f : Cell → Cell) : State := s.setCell c (f (s.cell c))

def State.hub (s : State) (f : FieldNo) : Hub := Store.get {} s.hubs f.toNat
def State.setHub (s : State) (f : FieldNo) (v : Hub) : State :=
  { s with hubs := Store.set {} s.hubs f.toNat v }
def State.modHub (s : State) (f : FieldNo) (g : Hub → Hub) : State := s.setHub f (g (s.hub f))

def State.plot (s : State) (p : PlotId) : Plot := Store.get {} s.plots p.toNat
def State.setPlot (s : State) (p : PlotId) (v : Plot) : State :=
  { s with plots := Store.set {} s.plots p.toNat v }
def State.modPlot (s : State) (p : PlotId) (g : Plot → Plot) : State := s.setPlot p (g (s.plot p))

/-- The key of a wain in the state. -/
def wainKey : WainId → Nat
  | .hub f i => f.toNat * 8 + i.toNat
  | .mill m i => 384 + m.toNat * 2 + i.toNat

def State.wain (s : State) (k : Nat) : Wain := Store.get {} s.wains k
def State.setWain (s : State) (k : Nat) (v : Wain) : State := { s with wains := Store.set {} s.wains k v }
def State.modWain (s : State) (k : Nat) (g : Wain → Wain) : State := s.setWain k (g (s.wain k))

def State.stack (s : State) (k : Nat) : Stack := Store.get {} s.gstacks k
def State.setStack (s : State) (k : Nat) (v : Stack) : State :=
  { s with gstacks := Store.set {} s.gstacks k v }

def State.port (s : State) (p : PortNo) : Port := Store.get {} s.ports p.toNat
def State.setPort (s : State) (p : PortNo) (v : Port) : State :=
  { s with ports := Store.set {} s.ports p.toNat v }
def State.modPort (s : State) (p : PortNo) (g : Port → Port) : State := s.setPort p (g (s.port p))

def State.mill (s : State) (m : MillNo) : Mill := Store.get {} s.mills m.toNat
def State.setMill (s : State) (m : MillNo) (v : Mill) : State :=
  { s with mills := Store.set {} s.mills m.toNat v }
def State.modMill (s : State) (m : MillNo) (g : Mill → Mill) : State := s.setMill m (g (s.mill m))

/-- Tally counter keys: a hub, a wain, a mill, with the counter's index (R463). -/
def hubCtr (f : FieldNo) (i : Nat) : Nat := f.toNat * 32 + i
def wainCtr (k i : Nat) : Nat := (48 + k) * 32 + i
def millCtr (m : MillNo) (i : Nat) : Nat := (496 + m.toNat) * 32 + i

/-- A performance counter counts; it saturates at all ones (R463). -/
def State.count (s : State) (key n : Nat) : State :=
  let x := Store.get (0 : DWord) s.tally.counts key
  { s with tally := { s.tally with
      counts := Store.set 0 s.tally.counts key (BitVec.ofNat 64 (min (x.toNat + n) (2 ^ 64 - 1))) } }

/-- The tick as a 64-bit register reads it. -/
def State.tick64 (s : State) : DWord := BitVec.ofNat 64 s.tick

/-! ### Bit fields -/

/-- Bits hi:lo of a register. -/
def bits {w : Nat} (x : BitVec w) (hi lo : Nat) : Nat := x.toNat / 2 ^ lo % 2 ^ (hi + 1 - lo)

/-- A register with bits hi:lo replaced. -/
def putBits {w : Nat} (x : BitVec w) (hi lo v : Nat) : BitVec w :=
  let m := BitVec.ofNat w ((2 ^ (hi + 1 - lo) - 1) * 2 ^ lo)
  (x &&& ~~~m) ||| (BitVec.ofNat w (v * 2 ^ lo) &&& m)

/-- Two byte ranges overlap. -/
def rangesMeet (a b : Nat × Nat) : Bool := decide (a.1 < b.2) && decide (b.1 < a.2)

/-- A counter that saturates at all ones (R6). -/
def satAdd {w : Nat} (x : BitVec w) (n : Nat) : BitVec w := BitVec.ofNat w (min (x.toNat + n) (2 ^ w - 1))

/-- A number of `n` bytes, least significant first, padded with zeros to `len` bytes. -/
def padBytes (l : List Byte) (len : Nat) : List Byte := (l ++ List.replicate len 0).take len

/-- Bytes `at` to `at + n − 1` of a list, as a number. -/
def leAt (l : List Byte) (off n : Nat) : Nat := leNat ((l.drop off).take n)

/-- A list with bytes written over it from an offset on. -/
def overlay (l : List Byte) (off : Nat) (v : List Byte) : List Byte :=
  (l.take off) ++ v ++ l.drop (off + v.length)

/-! ### Identifiers and places (R4, 01) -/

def lxOf (c : CellId) : Nat := c.toNat % 1024
def lyOf (c : CellId) : Nat := c.toNat / 1024
/-- The logical cell at a column and row. -/
def mkCell (lx ly : Nat) : CellId := BitVec.ofNat 19 (ly * 1024 + lx)
/-- R4: lx at most 623 and ly at most 383. -/
def cellIdOk (c : CellId) : Bool := lxOf c ≤ 623 && lyOf c ≤ 383
/-- R4: a field part below 48. -/
def latchIdOk (l : LatchId) : Bool := l.toNat / 2048 < 48
/-- R4, as for latches. -/
def gateIdOk (g : GateId) : Bool := g.toNat / 64 < 48

/-- The field of a logical cell. -/
def fieldOf (c : CellId) : FieldNo := BitVec.ofNat 6 (lyOf c / 64 * 8 + lxOf c / 78)
/-- Column and row of a field in the 8 × 6 grid of fields. -/
def fxOf (f : FieldNo) : Nat := f.toNat % 8
def fyOf (f : FieldNo) : Nat := f.toNat / 8
/-- Row of a cell within its field. -/
def rowIn (c : CellId) : Nat := lyOf c % 64
/-- Logical column of a cell within its field. -/
def colIn (c : CellId) : Nat := lxOf c % 78
/-- Field and index of a latch; of a gate. -/
def latchField (l : LatchId) : FieldNo := BitVec.ofNat 6 (l.toNat / 2048)
def latchIndex (l : LatchId) : Nat := l.toNat % 2048
def gateField (g : GateId) : FieldNo := BitVec.ofNat 6 (g.toNat / 64)
def gateIndex (g : GateId) : Nat := g.toNat % 64

/-- The map row of a cell. -/
def State.mapRow (s : State) (f : FieldNo) (row : Nat) : MapRow := Store.get {} s.map (f.toNat * 64 + row)

/-- The n-th physical column, from `p` on, whose SKIP bit is clear. -/
def nthUsed (skip : BitVec 80) : Nat → Nat → Nat → Nat
  | 0, p, _ => p
  | fuel + 1, p, n =>
    if skip.getLsbD p then nthUsed skip fuel (p + 1) n
    else if n = 0 then p
    else nthUsed skip fuel (p + 1) (n - 1)

/-- Physical column of a logical cell within its field (R433). -/
def State.physCol (s : State) (c : CellId) : Nat :=
  nthUsed (s.mapRow (fieldOf c) (rowIn c)).skip 80 0 (colIn c)

/-- The position is a hole (R20, R429); so is every position of a dark field (R27). -/
def State.isHole (s : State) (c : CellId) : Bool :=
  (s.hub (fieldOf c)).dark || (s.mapRow (fieldOf c) (rowIn c)).hole.getLsbD (colIn c)

/-- The position is a blocked hole. -/
def State.isBlocked (s : State) (c : CellId) : Bool :=
  (s.hub (fieldOf c)).dark || (s.mapRow (fieldOf c) (rowIn c)).blocked.getLsbD (colIn c)

/-! ### Plots -/

/-- The cell of a plot at plot-relative coordinates (R190). -/
def Plot.cellAt (p : Plot) (px py : Nat) : CellId := mkCell (p.lx.toNat + px) (p.ly.toNat + py)

/-- The cells of a rectangle, in order of row and then column. -/
def rectCells (lx ly w h : Nat) : List CellId :=
  (List.range h).flatMap fun y => (List.range w).map fun x => mkCell (lx + x) (ly + y)

/-- The cells of a plot, in order of py and then px. -/
def Plot.cells (p : Plot) : List CellId := rectCells p.lx.toNat p.ly.toNat p.width.toNat p.height.toNat

/-- The plot holds the cells of its rectangle: it is placed, and a scan-out to granary has not released them
(R225). -/
def Plot.holds (p : Plot) : Bool :=
  p.state != .empty && !(p.state == .scanned && match p.scan with
    | some (.granary _ _) => true
    | _ => false)

/-- The rectangle of the plot holds a cell. -/
def Plot.covers (p : Plot) (c : CellId) : Bool :=
  p.holds && decide (p.lx.toNat ≤ lxOf c) && decide (lxOf c < p.lx.toNat + p.width.toNat) &&
    decide (p.ly.toNat ≤ lyOf c) && decide (lyOf c < p.ly.toNat + p.height.toNat)

/-- The IDs of the plots of the loaded plan, ascending. -/
def State.plotIds (s : State) : List PlotId :=
  (s.plots.filter fun e => e.2.state != .empty).map fun e => BitVec.ofNat 7 e.1

/-- The plots whose cell passes a test, ascending. -/
def State.plotsWith (s : State) (t : Plot → Bool) : List PlotId :=
  (s.plots.filter fun e => e.2.state != .empty && t e.2).map fun e => BitVec.ofNat 7 e.1

/-- A change of every cell of a list. -/
def State.modCells (s : State) (l : List CellId) (f : Cell → Cell) : State :=
  l.foldl (fun s c => s.modCell c f) s

/-- A progress event of a plot (R219): its watchdog and run-dry counts restart. -/
def State.progress (s : State) (p : PlotId) : State :=
  if p.toNat < 96 then s.modPlot p fun q => if q.state = .empty then q else { q with progress := s.tick }
  else s

/-! ### Notices (R413, R414) -/

/-- The MSI-X vector of a notice kind. -/
def noticeVector (kind : Nat) : Nat :=
  match kind with
  | 1 => 17
  | 5 => 18
  | 6 => 19
  | 7 => 19
  | _ => 16

/-- A vector is signalled, or made pending where it is masked (R414). -/
def Port.signal (p : Port) (v : Nat) : Port :=
  if p.mask.getLsbD v then { p with pend := p.pend ||| BitVec.ofNat 64 (2 ^ v) }
  else { p with signalled := v :: p.signalled }

/-- The ring holds 1,024 records that the host has not consumed. -/
def Port.ringFull (p : Port) : Bool := p.prod - p.cons == 1024

/-- A notice written into the ring, and its vector signalled. -/
def Port.writeNotice (p : Port) (n : Notice) : Port :=
  let rec_ := padBytes (leBytes 2 n.kind ++ leBytes 2 n.len ++ leBytes 4 p.seq ++ leBytes 8 n.tick ++ n.body) 64
  { p with
    ring := Store.set [] p.ring (p.prod.toNat % 1024) rec_
    prod := p.prod + 1
    seq := p.seq + 1 }.signal (noticeVector n.kind)

/-- A notice for the port: written, kept in order, or counted as lost. -/
def Port.notice (p : Port) (n : Notice) : Port :=
  if p.ringFull || !p.noticesHeld.isEmpty then
    if p.noticesHeld.length < 4096 then { p with noticesHeld := p.noticesHeld ++ [n] }
    else { p with lost := satAdd p.lost 1 }
  else p.writeNotice n

/-- A notice to both ports (R413). -/
def State.notice (s : State) (kind len : Nat) (body : List Byte) : State :=
  let n : Notice := ⟨kind, len, s.tick, body⟩
  (s.modPort 0 fun p => p.notice n).modPort 1 fun p => p.notice n

/-- Held notices written while the ring has room. -/
def Port.drainHeld : Nat → Port → Port
  | 0, p => p
  | fuel + 1, p =>
    match p.noticesHeld with
    | [] => p
    | n :: l => if p.ringFull then p else Port.drainHeld fuel ({ p with noticesHeld := l }.writeNotice n)

/-! ### Loft errors (R166, R167) -/

/-- The loft memory address of a byte of a cell. -/
def loftKey (c : CellId) (a : Nat) : Nat := c.toNat * 2 ^ 21 + a

/-- The key of the 16-byte word that holds a byte. -/
def wordKey (c : CellId) (a : Nat) : Nat := c.toNat * 2 ^ 17 + a / 16

/-- The words of `n` bytes from `a`. -/
def wordsOf (c : CellId) (a n : Nat) : List Nat :=
  if n = 0 then [] else (List.range ((a + n - 1) / 16 - a / 16 + 1)).map fun i => wordKey c a + i

/-- A corrected error is counted, and its write-back waits (R166); the count reaching its threshold
raises a LOFT notice. The error is counted once: not again while its write-back waits (log entry 66). -/
def State.corrected (s : State) (c : CellId) (word : Nat) : State :=
  if s.scrubs.contains word then s else
  let f := fieldOf c
  let h := s.hub f
  let n := satAdd h.cecnt 1
  let thr := 2 ^ bits h.loftCtrl 7 4
  let s := s.count (hubCtr f 13) 1
  let s := { s.setHub f { h with cecnt := n } with scrubs := s.scrubs ++ [word] }
  if h.loftCtrl.getLsbD 8 && n.toNat == thr && h.cecnt.toNat < thr then
    s.notice 10 8 (padBytes ([BitVec.ofNat 8 f.toNat, BitVec.ofNat 8 (bits h.loftCtrl 7 4), 0, 0] ++
      leBytes 4 thr) 48)
  else s

/-- An uncorrectable error is counted, and logged where the log is armed (R167). -/
def State.uncorrectable (s : State) (c : CellId) (a : Nat) (source : Nat) : State :=
  let f := fieldOf c
  let h := s.hub f
  let log := 2 ^ 63 + source * 2 ^ 60 + s.physCol c * 2 ^ 48 + rowIn c * 2 ^ 42 +
    a / 16 % 16 * 2 ^ 38 + a / 16 * 16
  s.setHub f { h with
    uecnt := satAdd h.uecnt 1
    uelog := if h.uelog.msb then h.uelog else BitVec.ofNat 64 log }

/-- The errors of the words of `n` bytes at `a`, met by a reader (R166, R167): each corrected error is
counted; the answer says whether a word is uncorrectable. -/
def State.checkWords (s : State) (c : CellId) (source : Nat) : List Nat → State × Bool
  | [] => (s, false)
  | w :: l =>
    match Store.get 0 s.loftErr w with
    | 0 => s.checkWords c source l
    | 1 => (s.corrected c w).checkWords c source l
    | _ =>
      let (s, _) := (s.uncorrectable c (w % 2 ^ 17 * 16) source).checkWords c source l
      (s, true)

/-- An unclaimed resident window of a cell holds a byte (R181). -/
def State.inUnclaimed (s : State) (c : CellId) (a : Nat) : Bool :=
  s.residents.any fun r => !r.claimed && decide (r.lx ≤ lxOf c) && decide (lxOf c < r.lx + r.width) &&
    decide (r.ly ≤ lyOf c) && decide (lyOf c < r.ly + r.height) && decide (r.start ≤ a) &&
    decide (a < r.start + r.len)

/-- A byte range of a cell meets an unclaimed window. -/
def State.refusedRange (s : State) (c : CellId) (a n : Nat) : Bool :=
  s.residents.any fun r => !r.claimed && decide (r.lx ≤ lxOf c) && decide (lxOf c < r.lx + r.width) &&
    decide (r.ly ≤ lyOf c) && decide (lyOf c < r.ly + r.height) && decide (max a r.start < min (a + n) (r.start + r.len))

/-- An access that an unclaimed window refuses is counted (R181). -/
def State.countRefused (s : State) (c : CellId) : State :=
  s.modHub (fieldOf c) fun h => { h with resviol := satAdd h.resviol 1 }

/-- The words of an access that lie outside every unclaimed window: those the bank reads or writes (R181). -/
def State.openWords (s : State) (c : CellId) (a n : Nat) : List Nat :=
  (wordsOf c a n).filter fun w => !s.inUnclaimed c (w % 2 ^ 17 * 16)

/-- The aligned 64 B units that a byte range meets (R161). -/
def unitsOf (a n : Nat) : Nat := if n = 0 then 0 else (a + n - 1) / 64 - a / 64 + 1

/-- Hub counters 6 and 7: the 64 B units that an access reads, or writes, in a cell's loft (R463). -/
def State.countUnits (s : State) (c : CellId) (i a n : Nat) : State := s.count (hubCtr (fieldOf c) i) (unitsOf a n)

/-- `n` bytes of a cell's loft as a reader sees them, with whether a word is uncorrectable. A read
that meets an unclaimed window counts once and reads zeros there; its other words are checked as any (R166, R167). -/
def State.loftRead (s : State) (c : CellId) (a n : Nat) (source : Nat) : State × List Byte × Bool :=
  let s := s.countUnits c 6 a n
  if s.refusedRange c a n then
    let (t, bad) := (s.countRefused c).checkWords c source (s.openWords c a n)
    (t, (List.range n).map fun i =>
      if s.inUnclaimed c (a + i) then 0 else s.loft.read (loftKey c (a + i)), bad)
  else
    let (s, bad) := s.checkWords c source (wordsOf c a n)
    (s, s.loft.readBytes (loftKey c a) n, bad)

/-- Bytes of a list that a mask keeps are written; the others stay. -/
def writeMasked (m : Memory) (a : Nat) : List (Option Byte) → Memory
  | [] => m
  | none :: l => writeMasked m (a + 1) l
  | some b :: l => writeMasked (m.write a b) (a + 1) l

/-- The bytes of a write that fall in a 16-byte word, whole or in part (R163). -/
def fullWord (a : Nat) (l : List (Option Byte)) (w : Nat) : Bool :=
  (List.range 16).all fun i =>
    let x := w * 16 + i
    decide (a ≤ x) && ((l.drop (x - a)).head?.getD none).isSome

/-- The words that a write touches: a partial one is merged, its read meeting an uncorrectable word
that stays so; a whole one replaces the error (R163, R167). -/
def State.mergeWords (s : State) (c : CellId) (a : Nat) (l : List (Option Byte)) : List Nat → State
  | [] => s
  | w :: ws =>
    let s := if fullWord a l (w % 2 ^ 17) then { s with loftErr := Store.erase s.loftErr w }
      else match Store.get 0 s.loftErr w with
        | 0 => s
        | 1 => { s.corrected c w with
            loftErr := Store.erase s.loftErr w
            scrubs := s.scrubs.filter (· != w) }
        | _ => s.uncorrectable c (w % 2 ^ 17 * 16) 6
    s.mergeWords c a l ws

/-- A write into a cell's loft, byte by byte where the mask gives a byte (R163, R167, R181). -/
def State.loftWrite (s : State) (c : CellId) (a : Nat) (l : List (Option Byte)) : State :=
  let s := s.countUnits c 7 a l.length
  if s.refusedRange c a l.length then
    let l' := (List.range l.length).map fun i =>
      if s.inUnclaimed c (a + i) then none else (l.drop i).head?.getD none
    let t := (s.countRefused c).mergeWords c a l' (s.openWords c a l.length)
    { t with loft := writeMasked s.loft (loftKey c a) l' }
  else
    let s := s.mergeWords c a l (wordsOf c a l.length)
    { s with loft := writeMasked s.loft (loftKey c a) l }

/-! ### Events of a cell -/

/-- A flag is set; a set of a set flag is counted as lost (R48). -/
def Cell.setFlag (v : Cell) (k : FlagNo) : Cell :=
  if v.evflags.getLsbD k.toNat then { v with evlost := satAdd v.evlost 1 }
  else { v with evflags := v.evflags ||| BitVec.ofNat 16 (2 ^ k.toNat) }

/-- A sleeping cell wakes; WAITE.D's result register receives 1 for an event and 0 for a deadline
(R46). -/
def Cell.wake (v : Cell) (byEvent : Bool) : Cell :=
  let v := match v.wait.bind Wait.result with
    | some d => { v with sregs := Store.set 0 v.sregs d.toNat (if byEvent then 1 else 0) }
    | none => v
  { v with run := .running, wait := none }

/-- A flag set reaches a cell: a cell that sleeps on it clears it and continues (R44, R48). -/
def State.cellEvent (s : State) (c : CellId) (k : FlagNo) : State :=
  let v := (s.cell c).setFlag k
  match v.run, v.wait with
  | .sleeping, some w =>
    if w.on = .flag k then
      let v := { v with evflags := v.evflags &&& ~~~(BitVec.ofNat 16 (2 ^ k.toNat)) }
      (s.setCell c (v.wake true)).progress v.owner
    else s.setCell c v
  | _, _ => s.setCell c v

/-- A mesh packet is sent. -/
def State.send (s : State) (p : Packet) : State := { s with net := s.net ++ [p] }

/-- HG_PLOT_EVENTS bits are set; a PLOT notice reports those newly set, and each entry to DONE (R195, R413; log entry 12). -/
def State.plotEvent (s : State) (p : PlotId) (ev : BitVec 5) : State :=
  let q := s.plot p
  let new_ := ev &&& ~~~q.events
  let s := s.setPlot p { q with events := q.events ||| ev }
  if new_ = 0 && !ev.getLsbD 0 then s
  else s.notice 1 3 (padBytes [BitVec.ofNat 8 p.toNat,
    BitVec.ofNat 8 (match q.state with
      | .empty => 0 | .loaded => 1 | .running => 2 | .done => 3 | .stopped => 4 | .faulted => 5
      | .scanned => 6 | .dry => 7), BitVec.ofNat 8 new_.toNat] 48)

end Sys2Proof.Machine
end

