-- ==== Sys2Proof/Machine/Route.lean ====
section
/-! DEFINITION. Sending packets: taps, waypoints and injection points (R249 to R253). -/

namespace Sys2Proof.Machine

/-- The virtual channel of a body's type (R239). -/
def bodyVc : Body → BitVec 2
  | .stream .. => 3
  | .credit .. => 2
  | .readReq .. => 1
  | .writeReq .. => 1
  | .readResp .. => 2
  | .writeAck .. => 2
  | .errorResp .. => 2
  | .forward h _ _ _ => if h.ctype = 1 || h.ctype = 2 then 2 else 1
  | _ => 0

/-- Payload flits that a number of bytes takes. -/
def flitsOf (n : Nat) : Nat := (n + 31) / 32

/-- LEN of a packet with a body: payload flits (R239); up to 16 B of read data travel in the type word. -/
def bodyLen : Body → Nat
  | .stream _ _ _ _ fl => fl.length
  | .writeReq _ _ _ _ d => flitsOf d.length
  | .readResp _ d => if d.length ≤ 16 then 0 else flitsOf d.length
  | .control _ _ p => flitsOf p.length
  | .forward h _ _ d => if h.ctype = 1 || h.ctype = 2 then 0 else 1 + flitsOf d.length
  | _ => 0

/-- The type code of a body (R239). -/
def bodyType : Body → Nat
  | .stream .. => 0
  | .credit .. => 1
  | .readReq .. => 2
  | .writeReq .. => 3
  | .readResp .. => 4
  | .writeAck .. => 5
  | .errorResp .. => 6
  | .latchOp .. => 7
  | .gateOp .. => 8
  | .event .. => 9
  | .control .. => 10
  | .forward h _ _ _ => if h.ctype = 1 || h.ctype = 2 then 5 else 3
  | .reserved t => t.toNat

/-- A number moved up or down to the nearest one that passes a test, within `fuel`; the lower one on a tie
(log entry 25). -/
def nearest (ok : Nat → Bool) (x : Nat) : Nat → Nat → Nat
  | 0, _ => x
  | fuel + 1, d => if d ≤ x && ok (x - d) then x - d else if ok (x + d) then x + d else nearest ok x fuel (d + 1)

/-- A cell that may be a waypoint of the ward: in no dark field, and no blocked hole when the ward last wrote
detours (R254). -/
def State.wayOk (s : State) (x y : Nat) : Bool :=
  let f := fieldOf (mkCell x y)
  decide (x ≤ 623) && decide (y ≤ 383) && !(s.hub f).dark &&
    !(Store.get (0 : BitVec 78) s.darkSeen (f.toNat * 64 + y % 64)).getLsbD (x % 78)

/-- The detour entries that the ward writes for one dark field into the tables of an interface at a place
(R254). -/
def State.darkEntries (s : State) (d : FieldNo) (sx sy : Nat) : List Detour :=
  let cx0 := 78 * fxOf d
  let cx1 := cx0 + 77
  let ry0 := 64 * fyOf d
  let ry1 := ry0 + 63
  let hasN := ry0 != 0
  let hasS := ry1 != 383
  let nr := ry0 - 1
  let sr := ry1 + 1
  let wc := if 0 < cx0 then cx0 - 1 else cx1 + 1
  let br := if hasN then nr else sr
  let onRow (x y : Nat) : CellId := mkCell (nearest (fun x => s.wayOk x y) x 624 0) y
  let onCol (x y : Nat) : CellId := mkCell x (nearest (fun y => s.wayOk x y) y 384 0)
  let entry (have_ : Bool) (e : Detour) : List Detour := if have_ then [e] else []
  if ry0 ≤ sy ∧ sy ≤ ry1 then
    if sx < cx0 then
      entry hasN ⟨cx0, 623, 0, nr, onRow sx nr⟩ ++ entry hasS ⟨cx0, 623, sr, 383, onRow sx sr⟩ ++
        entry (cx1 < 623) ⟨cx1 + 1, 623, ry0, ry1, onRow sx br⟩
    else
      entry hasN ⟨0, cx1, 0, nr, onRow sx nr⟩ ++ entry hasS ⟨0, cx1, sr, 383, onRow sx sr⟩ ++
        entry (0 < cx0) ⟨0, cx0 - 1, ry0, ry1, onRow sx br⟩
  else if sy < ry0 then entry hasS ⟨cx0, cx1, sr, 383, onCol wc sr⟩
  else entry hasN ⟨cx0, cx1, 0, nr, onCol wc nr⟩

/-- Tables with the ward's detour entries 12 to 15 for the fields that went dark, where no later table write
replaced them (R254). -/
def State.withDark (s : State) (t : NiTables) (place : FieldNo → Nat × Nat) : NiTables :=
  match s.darkOrder with
  | [] => t
  | fs =>
    let es := (fs.flatMap fun d => s.darkEntries d (place d).1 (place d).2).take 4
    { t with detours := es.zipIdx.foldl (fun (m : Store Detour) (e : Detour × Nat) =>
        if (Store.find? m (12 + e.2)).isSome then m else Store.insert m (12 + e.2) e.1) t.detours }

/-- The place by which a hub's entries for a dark field are formed (R254). -/
def hubPlace (f d : FieldNo) : Nat × Nat :=
  (78 * fxOf f + (if fxOf f < fxOf d then 77 else if fxOf d < fxOf f then 0 else 39), 64 * fyOf f + 31)

/-- The tables of a cell's network interface (R247, R254). -/
def State.niOf (s : State) (c : CellId) : NiTables :=
  s.withDark ((Store.find? s.niCell c.toNat).getD s.ni) fun _ => (lxOf c, lyOf c)
/-- The tables of a hub (R254). -/
def State.niOfHub (s : State) (f : FieldNo) : NiTables :=
  s.withDark ((Store.find? s.niHub f.toNat).getD s.ni) (hubPlace f)

/-- The tap that a source column sets for a hub of column fx (R250). -/
def tapFor (lx fx : Nat) : Nat := if lx < 78 * fx then 0 else if lx < 78 * fx + 78 then lx - 78 * fx else 77

/-- The cell by which a detour table judges a destination (R253). -/
def detourTarget : Endpoint → Nat × Nat
  | .cell c => (lxOf c, lyOf c)
  | .hub f _ tap => (78 * fxOf f + tap.toNat, 64 * fyOf f + 31)

/-- The waypoint of the first detour entry that holds the target (R253). -/
def detourFor (m : Store Detour) (t : Nat × Nat) : Option CellId :=
  (List.find? (fun (e : Nat × Detour) => decide (e.2.lxLo ≤ t.1) && decide (t.1 ≤ e.2.lxHi) && decide (e.2.lyLo ≤ t.2) &&
    decide (t.2 ≤ e.2.lyHi)) m).map fun e => e.2.waypt

/-- A unit of a hub as a destination, from a source column (R249, R250). -/
def hubDest (lx : Nat) (f : FieldNo) (unit : BitVec 6) : Endpoint :=
  .hub f unit (BitVec.ofNat 7 (tapFor lx (fxOf f)))

/-- A packet that the network interface of a cell injects, locked out or not: a locked-out cell's interface still
answers requests and returns credits (R253, R260). -/
def State.niSend (s : State) (c : CellId) (dest : Dest) (wp : Option CellId) (body : Body) : State :=
  let w := match dest with
    | .unicast e => match wp with
      | some w => some w
      | none => detourFor (s.niOf c).detours (detourTarget e)
    | _ => none
  s.send ⟨.cell ((s.niOf c).self.getD c), dest, w, bodyVc body, BitVec.ofNat 4 (bodyLen body), body, c, .local, false, true, false⟩

/-- A packet that a cell sends; a locked-out cell sends nothing (R253, R261). -/
def State.cellSend (s : State) (c : CellId) (dest : Dest) (wp : Option CellId) (body : Body) : State :=
  if (s.cell c).lockedOut then s else s.niSend c dest wp body

/-- A packet to a cell, from a cell. -/
def State.cellToCell (s : State) (c d : CellId) (body : Body) : State := s.cellSend c (.unicast (.cell d)) none body

/-- A packet to a hub unit, from a cell. -/
def State.cellToHub (s : State) (c : CellId) (f : FieldNo) (unit : BitVec 6) (body : Body) : State :=
  s.cellSend c (.unicast (hubDest (lxOf c) f unit)) none body

/-- The destination that a hub writes, and the point its target lies at (R251). -/
def hubTarget (f : FieldNo) (e : Endpoint) : Endpoint × Nat × Nat :=
  match e with
  | .cell c => (e, lxOf c, lyOf c)
  | .hub f' u _ =>
    let fx := fxOf f
    let fx' := fxOf f'
    let inj := if fx' = fx then 78 * fx + 39 else if fx' < fx then 78 * fx else 78 * fx + 77
    let tap := tapFor inj fx'
    (.hub f' u (BitVec.ofNat 7 tap), 78 * fx' + tap,
      if fyOf f' < fyOf f then 64 * fyOf f' + 32 else 64 * fyOf f' + 31)

/-- A packet that a hub unit injects (R251). -/
def State.hubSend (s : State) (f : FieldNo) (unit : BitVec 6) (e : Endpoint) (body : Body) : State :=
  let (dst, tx, ty) := hubTarget f e
  let w := detourFor (s.niOfHub f).detours (detourTarget dst)
  let (tx, ty) := match w with
    | some c => (lxOf c, lyOf c)
    | none => (tx, ty)
  let col := min 77 (tx - 78 * fxOf f)
  let row := if ty ≤ 64 * fyOf f + 31 then 64 * fyOf f + 31 else 64 * fyOf f + 32
  s.send ⟨.hub f unit (BitVec.ofNat 7 col), .unicast dst, w, bodyVc body, BitVec.ofNat 4 (bodyLen body), body,
    mkCell (78 * fxOf f + col) row, .hub, false, true, false⟩

/-- Two endpoints are the same unit, whatever the tap. -/
def sameUnit : Endpoint → Endpoint → Bool
  | .cell c, .cell d => c == d
  | .hub f u _, .hub f' u' _ => f == f' && u == u'
  | _, _ => false

/-- Two packets that arrive in the order in which they were sent: they share VC, source, destination and waypoint, at one
place of a span (R243). -/
def sameLane (p q : Packet) : Bool :=
  p.vc == q.vc && p.src == q.src && p.dest == q.dest && p.waypt == q.waypt && p.pos == q.pos

/-- The first packet that has left the mesh, passes a test, and has no packet of its lane before it; `seen` holds the
packets already passed. -/
def frontOf (t : Packet → Bool) (seen : List Packet) : List Packet → Option Packet
  | [] => none
  | p :: l =>
    if p.ejected && t p && !seen.any (sameLane p) then some p
    else frontOf t (if p.ejected then p :: seen else seen) l

/-- No packet that passes a test may be taken yet: those there are travel still, or stand behind another of their lane
(R243; log entry 11). -/
def State.notYet (s : State) (t : Packet → Bool) : Bool := s.net.any t && (frontOf t [] s.net).isNone

/-- A packet reaches its endpoint: the one of the mesh that passes a test and comes first in its lane is gone. -/
def State.arrived (s : State) (t : Packet → Bool) : State :=
  match frontOf t [] s.net with
  | some p => { s with net := s.net.erase p }
  | none => s

/-- A command takes a packet from the mesh, or waits for it (R243). -/
def State.takes (s : State) (t : Packet → Bool) (act : State → Out) : Out :=
  if s.notYet t then .next s else act (s.arrived t)

/-- A unicast packet bound for an endpoint. -/
def isFor (p : Packet) (e : Endpoint) : Bool :=
  match p.dest with
  | .unicast d => sameUnit d e
  | _ => false

/-- A packet of a hub unit to another unit: inside one hub it takes no mesh link (R251, R265). -/
def State.unitSend (s : State) (f : FieldNo) (unit : BitVec 6) (f' : FieldNo) (unit' : BitVec 6)
    (body : Body) : State :=
  if f = f' then
    s.send ⟨.hub f unit 0, .unicast (.hub f unit' 0), none, bodyVc body, BitVec.ofNat 4 (bodyLen body), body,
      mkCell (78 * fxOf f) (64 * fyOf f + 31), .hub, false, true, true⟩
  else s.hubSend f unit (.hub f' unit' 0) body

/-! ### Units of the hubs (R13, R248) -/

/-- The field of a granary stack and of a mill. -/
def stackField (k : Nat) : FieldNo :=
  BitVec.ofNat 6 (if k < 8 then (k / 2 + 1) * 8 else ((k - 8) / 2 + 1) * 8 + 7)
def millField (m : MillNo) : FieldNo :=
  BitVec.ofNat 6 (if m.toNat < 16 then m.toNat / 2 else 40 + (m.toNat - 16) / 2)

/-- Unit of a granary stack and of a mill in its hub. -/
def stackUnit (k : Nat) : BitVec 6 := BitVec.ofNat 6 (12 + k % 2)
def millUnit (m : MillNo) : BitVec 6 := BitVec.ofNat 6 (14 + m.toNat % 2)

/-- The stack or mill that a unit of a field is, where the field has one. -/
def stackAt (f : FieldNo) (u : Nat) : Option Nat :=
  (List.range 16).find? fun k => stackField k == f && k % 2 == u % 2
def millAt (f : FieldNo) (u : Nat) : Option MillNo :=
  ((List.range 32).find? fun m => millField (BitVec.ofNat 5 m) == f && m % 2 == u % 2).map (BitVec.ofNat 5)

/-- The field through which the hinge reaches the wafer: 8 while the standby bridge is in use (R24). -/
def State.hingeField (s : State) : FieldNo := if s.bridge = 1 then 8 else 0

/-- A hub unit is present, licensed and not on a dark field (R248, R255). -/
def State.unitPresent (s : State) (f : FieldNo) (u : BitVec 6) : Bool :=
  let n := u.toNat
  !(s.hub f).dark && decide (f.toNat < 48) &&
    (if n ≤ 10 then true
     else if n = 12 ∨ n = 13 then
       match stackAt f n with
       | some k => (s.stack k).state != .unlicensed
       | none => false
     else if n = 14 ∨ n = 15 then
       match millAt f n with
       | some m => (s.mill m).licensed
       | none => false
     else if 16 ≤ n ∧ n ≤ 19 then
       match millAt f ((n - 16) / 2) with
       | some m => (s.mill m).licensed
       | none => false
     else n == 20 && f == s.hingeField && s.bridge != 2)

/-- The wain that a hub unit is (R248). -/
def wainAt (f : FieldNo) (u : BitVec 6) : Option Nat :=
  if u.toNat < 8 then some (wainKey (.hub f (BitVec.ofNat 3 u.toNat)))
  else if 16 ≤ u.toNat ∧ u.toNat ≤ 19 then
    (millAt f ((u.toNat - 16) / 2)).map fun m => wainKey (.mill m (BitVec.ofNat 1 (u.toNat % 2)))
  else none

/-- Field and unit of a wain (R248). -/
def wainField : WainId → FieldNo
  | .hub f _ => f
  | .mill m _ => millField m
def wainUnit : WainId → BitVec 6
  | .hub _ i => BitVec.ofNat 6 i.toNat
  | .mill m i => BitVec.ofNat 6 (16 + 2 * (m.toNat % 2) + i.toNat)

/-- The wain of a key. -/
def wainOfKey (k : Nat) : WainId :=
  if k < 384 then .hub (BitVec.ofNat 6 (k / 8)) (BitVec.ofNat 3 (k % 8))
  else .mill (BitVec.ofNat 5 ((k - 384) / 2)) (BitVec.ofNat 1 (k % 2))

/-! ### GATED fields (R442) -/

/-- Every cell of a field is HALTED, SLEEPING or skipped, and none of its wains is RUNNING. -/
def State.fieldQuiet (s : State) (f : FieldNo) : Bool :=
  (s.cells.all fun e => fieldOf (BitVec.ofNat 19 e.1) != f || e.2.run == .halted || e.2.run == .sleeping) &&
    (List.range 8).all fun i => (s.wain (wainKey (.hub f (BitVec.ofNat 3 i)))).state != .running

/-- A wake, a WGO or a broadcast reaches a field, which is then not GATED for the tick (log entry 77). -/
def State.rouse (s : State) (f : FieldNo) : State := s.modHub f fun h => { h with roused := some s.tick }

/-- The field is GATED. -/
def State.gated (s : State) (f : FieldNo) : Bool := s.fieldQuiet f && (s.hub f).roused != some s.tick

end Sys2Proof.Machine
end

