-- ==== Sys2Proof/Machine/Queue.lean ====
section
/-! DEFINITION. Input queues, spill rings, output channels and their credits (07). -/

namespace Sys2Proof.Machine

def Cell.queue (v : Cell) (q : QueueNo) : Queue := Store.get {} v.queues q.toNat
def Cell.setQueue (v : Cell) (q : QueueNo) (x : Queue) : Cell :=
  { v with queues := Store.set {} v.queues q.toNat x }
def Cell.chan (v : Cell) (o : ChanNo) : Chan := Store.get {} v.chans o.toNat
def Cell.setChan (v : Cell) (o : ChanNo) (x : Chan) : Cell :=
  { v with chans := Store.set {} v.chans o.toNat x }

/-! ### Configuration records (R371) -/

def Queue.en (q : Queue) : Bool := q.cfg.getLsbD 63
def Queue.vec (q : Queue) : Bool := q.cfg.getLsbD 62
/-- Spill size in units of 4 KiB (R176). -/
def Queue.spill (q : Queue) : Nat := bits q.cfg 61 55
/-- Ring base in the cell's loft. -/
def Queue.ringBase (q : Queue) : Nat := bits q.cfg 54 46 * 4096
/-- The non-empty flag, where enabled (R202). -/
def Queue.neFlag (q : Queue) : Option FlagNo :=
  if q.cfg.getLsbD 45 then some (BitVec.ofNat 4 (bits q.cfg 44 41)) else none
/-- The flag of a token kind (R210). -/
def Queue.tokFlag (q : Queue) (kind : Nat) : Option FlagNo :=
  if q.cfg.getLsbD (8 * kind + 7) then some (BitVec.ofNat 4 (bits q.cfg (8 * kind + 6) (8 * kind + 3))) else none
/-- The counter whose loop a token kind ends (R210). -/
def Queue.tokCtr (q : Queue) (kind : Nat) : Option CtrNo :=
  if q.cfg.getLsbD (8 * kind + 2) then some (BitVec.ofNat 2 (bits q.cfg (8 * kind + 1) (8 * kind))) else none
/-- Flit slots of the queue (R196). -/
def Queue.capacity (q : Queue) : Nat := 16 + 112 * q.spill
/-- Flits that the queue holds. -/
def Queue.held (q : Queue) : Nat := q.buf.length + q.ringLen

def Chan.en (o : Chan) : Bool := o.cfg.getLsbD 0
def Chan.vec (o : Chan) : Bool := o.cfg.getLsbD 1
/-- 0 a cell of the own plot, 1 of another plot, 2 multicast. -/
def Chan.destKind (o : Chan) : Nat := bits o.cfg 3 2
def Chan.dplot (o : Chan) : PlotId := BitVec.ofNat 7 (bits o.cfg 15 8)
def Chan.dqueue (o : Chan) : QueueNo := BitVec.ofNat 3 (bits o.cfg 23 16)
def Chan.dir (o : Chan) : BitVec 2 := BitVec.ofNat 2 (bits o.cfg 31 24)
def Chan.target (o : Chan) : Nat := bits o.cfg 63 32
def Chan.span (o : Chan) : Nat := bits o.cfg 41 32
/-- Waypoint offset (dx, dy), where the channel has one (R372). -/
def Chan.wayOff (o : Chan) : Option (Int × Int) :=
  if o.cfg.getLsbD 4 then
    some ((BitVec.ofNat 16 (bits o.cfg 79 64)).toInt, (BitVec.ofNat 16 (bits o.cfg 95 80)).toInt)
  else none

/-! ### Elements -/

/-- The flits of the element or token at the head, where it is whole (R201). -/
def headElem : List SFlit → Option (List SFlit)
  | [] => none
  | f :: l =>
    if f.cls = 1 then
      match l with
      | g :: _ => some [f, g]
      | [] => none
    else some [f]

/-- The queue holds an element or token. -/
def Queue.present (q : Queue) : Bool := (headElem q.buf).isSome

/-- A token flit. -/
def isToken (f : SFlit) : Bool := f.cls == 3

/-- Kind of a token: byte 0, bits 1:0 (R197). -/
def tokKind (f : SFlit) : Nat := f.data.toNat % 4

/-- The class that TTEST and the token word give (R95, R209). -/
def classCode (f : SFlit) : Nat :=
  if f.cls = 3 then
    match tokKind f with
    | 0 => 1
    | 1 => 2
    | 2 => 3
    | _ => 16 + f.data.toNat / 4 % 16
  else 0

/-- The token flit of a kind and code (R197). -/
def tokenFlit (season : Season) (kind code : Nat) : SFlit := ⟨3, season, BitVec.ofNat 256 (kind + 4 * code)⟩

/-- The flits of a scalar element (R197). -/
def scalarFlits (season : Season) (x : Word) : List SFlit := [⟨0, season, BitVec.ofNat 256 x.toNat⟩]

/-- The flits of a vector element (R197). -/
def vectorFlits (season : Season) (x : Vec512) : List SFlit :=
  [⟨1, season, x.extractLsb' 0 256⟩, ⟨2, season, x.extractLsb' 256 256⟩]

/-- The vector of two flits. -/
def vectorOf (lo hi : SFlit) : Vec512 := hi.data ++ lo.data

/-- A token word (R209). -/
def tokenWord (f : SFlit) : Word := BitVec.ofNat 32 (0x80000000 + classCode f)

/-! ### Spill rings (R176 to R179) -/

/-- Loft address of a ring slot and of its tag (R177). -/
def Queue.slotAddr (q : Queue) (i : Nat) : Nat := q.ringBase + i / 7 * 256 + i % 7 * 32
def Queue.tagAddr (q : Queue) (i : Nat) : Nat := q.ringBase + i / 7 * 256 + 224 + i % 7 * 4

/-- The tag of a flit: season in bits 3:0, class in bits 6:4 (R177 gives what it carries; the places
of the bits are log entry 14). -/
def tagOf (f : SFlit) : Nat := f.season.toNat + 16 * f.cls.toNat

/-- Slots of a group that are filled, for a ring of `n` slots holding `len` flits from `head`. -/
def groupCount (n head len g : Nat) : Nat :=
  ((List.range 7).filter fun i => decide ((7 * g + i + n - head) % n < len)).length

/-- Bytes written to a cell's loft, all of them kept. -/
def State.loftPut (s : State) (c : CellId) (a : Nat) (l : List Byte) : State := s.loftWrite c a (l.map some)

/-- The count of filled slots of a slot's group is written. -/
def State.ringCount (s : State) (c : CellId) (q : Queue) (slot : Nat) : State :=
  s.loftPut c (q.ringBase + slot / 7 * 256 + 252)
    (leBytes 4 (groupCount (112 * q.spill) q.ringHead q.ringLen (slot / 7)))

/-- A flit goes to the ring (R178). -/
def State.ringPush (s : State) (c : CellId) (qn : QueueNo) (f : SFlit) : State :=
  let s := s.count (hubCtr (fieldOf c) 14) 1
  let q := (s.cell c).queue qn
  let slot := (q.ringHead + q.ringLen) % (112 * q.spill)
  let s := s.loftPut c (q.slotAddr slot) (leBytes 32 f.data.toNat)
  let s := s.loftPut c (q.tagAddr slot) (leBytes 4 (tagOf f))
  let q := { q with ringLen := q.ringLen + 1 }
  (s.modCell c fun v => v.setQueue qn q).ringCount c q slot

/-- The oldest flit leaves the ring; none where its words are uncorrectable (R167). -/
def State.ringPop (s : State) (c : CellId) (qn : QueueNo) : State × Option SFlit :=
  let q := (s.cell c).queue qn
  let slot := q.ringHead
  let (s, data, bad) := s.loftRead c (q.slotAddr slot) 32 3
  let (s, tag, bad') := s.loftRead c (q.tagAddr slot) 4 3
  if bad || bad' then (s, none)
  else
    let t := leNat tag
    let q := { q with ringHead := (slot + 1) % (112 * q.spill), ringLen := q.ringLen - 1 }
    ((s.modCell c fun v => v.setQueue qn q).ringCount c q slot,
      some ⟨BitVec.ofNat 3 (t / 16), BitVec.ofNat 4 t, BitVec.ofNat 256 (leNat data)⟩)

/-- The queue holds a whole element or a token, in its buffer or its ring (R201, R202). -/
def Queue.holdsElem (q : Queue) : Bool :=
  match q.buf with
  | [] => q.ringLen != 0
  | f :: _ => f.cls != 1 || 2 ≤ q.held

/-- The ring is full while the buffer has room: the oldest ring flit is due in the buffer (R178, R196). -/
def Queue.refillDue (q : Queue) : Bool := q.buf.length < 16 && q.ringLen != 0 && 112 * q.spill ≤ q.ringLen

/-- A flit is stored in the queue: in the buffer, or in the ring while the buffer is full or the ring
holds any flit (R178). -/
def State.putFlit (s : State) (c : CellId) (qn : QueueNo) (f : SFlit) : State :=
  let q := (s.cell c).queue qn
  if q.buf.length < 16 && q.ringLen == 0 then s.modCell c fun v => v.setQueue qn { q with buf := q.buf ++ [f] }
  else if q.ringLen < 112 * q.spill then s.ringPush c qn f
  else s

/-- A flit is stored, and the non-empty flag is set where the queue held no element (R202). -/
def State.storeFlit (s : State) (c : CellId) (qn : QueueNo) (f : SFlit) : State :=
  let before := (s.cell c).queue qn
  let s := s.putFlit c qn f
  if before.holdsElem || !((s.cell c).queue qn).holdsElem then s
  else match before.neFlag with
    | some k => s.cellEvent c k
    | none => s

/-! ### Places of streams (R203) -/

/-- The plot of a cell, as its network interface holds it, with its coordinates in CL_SELF. -/
def Cell.px (v : Cell) : Nat := bits v.self 9 0
def Cell.py (v : Cell) : Nat := bits v.self 18 10
def Cell.season (v : Cell) : Season := BitVec.ofNat 4 (bits v.plot 31 28)

/-- The logical cell of plot coordinates, from the origin table (R203). -/
def State.placeOf (s : State) (c : CellId) (p : PlotId) (px py : Nat) : CellId :=
  let o := Store.get 0 (s.niOf c).origins p.toNat
  mkCell (lxOf o + px) (lyOf o + py)

/-- The cell at a distance in a direction: 0 east, 1 west, 2 south, 3 north (R258). -/
def stepDir (c : CellId) (dir : BitVec 2) (n : Nat) : CellId :=
  match dir.toNat with
  | 0 => mkCell (lxOf c + n) (lyOf c)
  | 1 => mkCell (lxOf c - n) (lyOf c)
  | 2 => mkCell (lxOf c) (lyOf c + n)
  | _ => mkCell (lxOf c) (lyOf c - n)

/-- The plot that a channel of a cell feeds. -/
def State.feedPlot (s : State) (c : CellId) (o : Chan) : PlotId :=
  if o.destKind = 1 then o.dplot else (s.cell c).owner

/-- The cells that a channel of a cell feeds: none in a plot that holds no cells. -/
def State.feeds (s : State) (c : CellId) (o : Chan) : List CellId :=
  match o.destKind with
  | 2 => (List.range (o.span + 1)).map fun n => stepDir c o.dir n
  | _ =>
    let p := s.feedPlot c o
    if (s.plot p).holds then [s.placeOf c p (o.target % 1024) (o.target / 1024 % 512)] else []

/-- The waypoint of a channel: the origin of the sending plot plus its offset (R372). -/
def State.chanWay (s : State) (c : CellId) (o : Chan) : Option CellId :=
  o.wayOff.map fun (dx, dy) =>
    let org := Store.get 0 (s.niOf c).origins (s.cell c).owner.toNat
    mkCell ((lxOf org : Int) + dx).toNat ((lyOf org : Int) + dy).toNat

/-- A cell of a plot at plot coordinates, as it stands or, in a plot that a scan-out has released, as it was captured. -/
def State.cellNow (s : State) (p : PlotId) (x : Nat × Nat) : Cell :=
  let q := s.plot p
  if q.holds then s.cell (q.cellAt x.1 x.2)
  else match q.snaps[x.2 * q.width.toNat + x.1]? with
    | some y => y.cell
    | none => {}

/-- The queues that the destinations of a channel hold for it, as their plots' configurations stand. -/
def State.feedQueues (s : State) (c : CellId) (o : Chan) : List Queue :=
  let p := s.feedPlot c o
  if o.destKind = 2 || (s.plot p).holds then (s.feeds c o).map fun d => (s.cell d).queue o.dqueue
  else [(s.cellNow p (o.target % 1024, o.target / 1024 % 512)).queue o.dqueue]

/-- The credits that R204 and R533 give a channel with its destinations as they stand. -/
def State.freshCredits (s : State) (c : CellId) (o : Chan) : Nat :=
  let caps := (s.feedQueues c o).filterMap fun q =>
    if q.en && (s.plot (s.feedPlot c o)).state != .empty then some q.capacity else none
  match caps with
  | [] => 0
  | k :: l => l.foldl min k

/-- Flits of a channel are sent to what it feeds, in a packet of their own (R205). -/
def State.chanSend (s : State) (c : CellId) (on : ChanNo) (flits : List SFlit) : State :=
  let v := s.cell c
  let o := v.chan on
  let body := Body.stream o.dqueue (s.feedPlot c o) on v.owner flits
  if o.destKind = 2 then
    s.cellSend c (.multicast false o.dir (BitVec.ofNat 10 o.span)) none body
  else
    match s.feeds c o with
    | d :: _ => s.cellSend c (.unicast (.cell d)) (s.chanWay c o) body
    | [] => s

/-- The packet that a channel's last push left open: it stands at its own router, holds fewer than 8 payload flits and ends
on no token (R205). -/
def openPacket (c : CellId) (on : ChanNo) (p : Packet) : Bool :=
  p.src == .cell c && p.pos == c && p.inPort == .local && !p.ejected && match p.body with
    | .stream _ _ o _ fl => o == on && decide (fl.length < 8) && !fl.getLast?.any isToken
    | _ => false

/-- A stream packet takes further flits behind its own. -/
def joinFlits (p : Packet) (flits : List SFlit) : Packet :=
  match p.body with
  | .stream q dp o sp fl =>
    { p with body := .stream q dp o sp (fl ++ flits), len := BitVec.ofNat 4 (fl ++ flits).length }
  | _ => p

/-- The last packet of a list that passes a test is changed. -/
def modLast (t : Packet → Bool) (f : Packet → Packet) (l : List Packet) : List Packet :=
  match l.reverse.findIdx? t with
  | none => l
  | some i => l.modify (l.length - 1 - i) f

/-- The flits of a push or token: they join the open packet of the channel, up to 8 payload flits, and the rest goes in a
packet of its own. A push follows in the next cycle where no other instruction of the cell issued between the two
(R205; DESIGN CHOICE, log entry 13). -/
def State.sendFlits (s : State) (c : CellId) (on : ChanNo) (flits : List SFlit) : State :=
  let open_ := if (s.cell c).pushed = some on then s.net.reverse.find? (openPacket c on) else none
  match open_.map Packet.body with
  | some (.stream _ _ _ _ fl) =>
    let k := 8 - fl.length
    let s := { s with net := modLast (openPacket c on) (fun p => joinFlits p (flits.take k)) s.net }
    if flits.length ≤ k then s else s.chanSend c on (flits.drop k)
  | _ => s.chanSend c on flits

/-- The flits of a queue are emptied: how many they were. -/
def Queue.emptied (q : Queue) : Queue := { q with buf := [], ringHead := 0, ringLen := 0 }

end Sys2Proof.Machine
end

