-- ==== Sys2Proof/Machine/Operands.lean ====
section
/-! DEFINITION. The operands of a cell's instructions: registers read and written, second operands,
loft and bay addresses (R70, R78, R81, R186). -/

namespace Sys2Proof.Machine

/-- A scalar register. -/
def Cell.s (v : Cell) (r : SReg) : Word := Store.get 0 v.sregs r.toNat
/-- A vector register. -/
def Cell.v (v : Cell) (r : VReg) : Vec512 := Store.get 0 v.vregs r.toNat
def Cell.setS (v : Cell) (r : SReg) (x : Word) : Cell := { v with sregs := Store.set 0 v.sregs r.toNat x }
def Cell.setV (v : Cell) (r : VReg) (x : Vec512) : Cell := { v with vregs := Store.set 0 v.vregs r.toNat x }
/-- The 64-bit value of a register pair (R70). -/
def Cell.pair (v : Cell) (p : PairNo) : DWord :=
  v.s (BitVec.ofNat 4 (2 * p.toNat + 1)) ++ v.s (BitVec.ofNat 4 (2 * p.toNat))

/-- The value of a second operand. -/
def Cell.src (v : Cell) : Src → Word
  | .reg b => v.s b
  | .imm x => x

/-- A loop counter. -/
def Cell.loop (v : Cell) (k : CtrNo) : LoopCtr := Store.get {} v.loops k.toNat
def Cell.setLoop (v : Cell) (k : CtrNo) (x : LoopCtr) : Cell :=
  { v with loops := Store.set {} v.loops k.toNat x }

/-- An accumulator tile. -/
def Cell.tile (v : Cell) (a : AccNo) : Tile := Store.get {} v.tiles a.toNat
def Cell.setTile (v : Cell) (a : AccNo) (t : Tile) : Cell := { v with tiles := Store.set {} v.tiles a.toNat t }

/-- Registers that an instruction reads and writes; the condition bits count as one register. -/
structure RegUse where
  ss : List SReg := []
  vs : List VReg := []
  sd : List SReg := []
  vd : List VReg := []
  condRead  : Bool := false
  condWrite : Bool := false
  deriving DecidableEq, Repr

def srcRegs : Src → List SReg
  | .reg b => [b]
  | .imm _ => []

/-- The vector register that a queue instruction names (R82). -/
def qvreg (r : BitVec 4) : VReg := BitVec.ofNat 3 r.toNat

def pairRegs (p : PairNo) : List SReg := [BitVec.ofNat 4 (2 * p.toNat), BitVec.ofNat 4 (2 * p.toNat + 1)]

/-- `n` vector registers from `y` on. -/
def vregsFrom (y : VReg) (n : Nat) : List VReg := (List.range n).map fun i => BitVec.ofNat 3 (y.toNat + i)

/-- The registers of an instruction (R32, R70). -/
def regUse : Instr → RegUse
  | .jr _ s => { ss := [s] }
  | .callr _ s => { ss := [s] }
  | .bcc .. => { condRead := true }
  | .loop _ _ _ (.reg s) => { ss := [s] }
  | .add _ d a x => { ss := a :: srcRegs x, sd := [d], condWrite := true }
  | .addi _ d _ => { ss := [d], sd := [d], condWrite := true }
  | .sub _ d a b => { ss := [a, b], sd := [d], condWrite := true }
  | .mov _ d x => { ss := srcRegs x, sd := [d] }
  | .movh _ d _ => { ss := [d], sd := [d] }
  | .cmp _ a x => { ss := a :: srcRegs x, condWrite := true }
  | .and _ d a x => { ss := a :: srcRegs x, sd := [d], condWrite := true }
  | .or _ d a x => { ss := a :: srcRegs x, sd := [d], condWrite := true }
  | .xor _ d a x => { ss := a :: srcRegs x, sd := [d], condWrite := true }
  | .shl _ d a x => { ss := a :: srcRegs x, sd := [d], condWrite := true }
  | .shr _ d a x => { ss := a :: srcRegs x, sd := [d], condWrite := true }
  | .sra _ d a x => { ss := a :: srcRegs x, sd := [d], condWrite := true }
  | .mul _ d a x => { ss := a :: srcRegs x, sd := [d], condWrite := true }
  | .mulh _ d a b => { ss := [a, b], sd := [d], condWrite := true }
  | .min _ d a x => { ss := a :: srcRegs x, sd := [d], condWrite := true }
  | .max _ d a x => { ss := a :: srcRegs x, sd := [d], condWrite := true }
  | .minu _ d a x => { ss := a :: srcRegs x, sd := [d], condWrite := true }
  | .maxu _ d a x => { ss := a :: srcRegs x, sd := [d], condWrite := true }
  | .lw _ r a _ => { ss := [a], sd := [r] }
  | .lh _ r a _ => { ss := [a], sd := [r] }
  | .sw _ r a _ => { ss := [r, a] }
  | .sh _ r a _ => { ss := [r, a] }
  | .pop _ vec r _ =>
    if vec then { vd := [qvreg r], condWrite := true } else { sd := [r], condWrite := true }
  | .peek _ vec r _ =>
    if vec then { vd := [qvreg r], condWrite := true } else { sd := [r], condWrite := true }
  | .push _ vec r _ => if vec then { vs := [qvreg r] } else { ss := [r] }
  | .waiteLatch _ l => { ss := [l] }
  | .waiteDFlag _ _ p d => { ss := pairRegs p, sd := [d] }
  | .waiteDLatch _ l p d => { ss := l :: pairRegs p, sd := [d] }
  | .waitt _ p => { ss := pairRegs p }
  | .setl _ l => { ss := [l] }
  | .clrl _ l => { ss := [l] }
  | .claim _ d l => { ss := [l], sd := [d] }
  | .sende _ t _ => { ss := [t] }
  | .vadd _ _ d a b => { vs := [a, b], vd := [d] }
  | .vsub _ _ d a b => { vs := [a, b], vd := [d] }
  | .vmul _ _ d a b => { vs := [a, b], vd := [d] }
  | .vfma _ _ d a b => { vs := [a, b, d], vd := [d] }
  | .vfnma _ _ d a b => { vs := [a, b, d], vd := [d] }
  | .vmin _ _ d a b => { vs := [a, b], vd := [d] }
  | .vmax _ _ d a b => { vs := [a, b], vd := [d] }
  | .vceq _ _ d a b => { vs := [a, b], vd := [d] }
  | .vclt _ _ d a b => { vs := [a, b], vd := [d] }
  | .vcle _ _ d a b => { vs := [a, b], vd := [d] }
  | .vand _ d a b => { vs := [a, b], vd := [d] }
  | .vor _ d a b => { vs := [a, b], vd := [d] }
  | .vxor _ d a b => { vs := [a, b], vd := [d] }
  | .twosum _ d a b => { vs := [a, b], vd := [d, d + 1] }
  | .twoprod _ d a b => { vs := [a, b], vd := [d, d + 1] }
  | .vld _ d a _ => { ss := [a], vd := [d] }
  | .vst _ v a _ => { ss := [a], vs := [v] }
  | .vcvt _ _ _ _ d a => { vs := [a, d], vd := [d] }
  | .vbenc _ bs _ s _ x y => { vs := x :: vregsFrom y (blockGroups bs), sd := [s], vd := [x] }
  | .vbdec _ bs _ s _ x y => { ss := [s], vs := [x], vd := vregsFrom y (blockGroups bs) }
  | .mldw _ a _ => { ss := [a] }
  | .mms _ _ _ a _ _ _ sh => { ss := [a, sh] }
  | .mmt _ _ a _ _ _ _ w sh => { ss := [a, w, sh] }
  | .mwb _ _ a _ _ _ sh => { ss := [a, sh] }
  | .crd _ _ s => { sd := [s] }
  | .cwr _ _ s => { ss := [s] }
  | .ttest _ d _ => { sd := [d] }
  | .wgo _ _ a => { ss := [a] }
  | .wstat _ _ d => { sd := [d] }
  | .csrr _ d _ => { sd := [d] }
  | .csrw _ s _ => { ss := [s] }
  | _ => {}

/-- A scalar register is still to be written by an earlier instruction. -/
def Cell.awaitsS (v : Cell) (r : SReg) : Bool :=
  v.results.any (fun x => x.sdst.any fun d => d.1 == r) || v.claims.any (fun x => x.2 == r) ||
    v.bayLoads.any fun x => x.dst == .inl r

/-- A vector register is still to be written by an earlier instruction. -/
def Cell.awaitsV (v : Cell) (r : VReg) : Bool :=
  v.results.any (fun x => x.vdst.any fun d => d.1 == r) || v.bayLoads.any fun x => x.dst == .inr r

/-- The condition bits are still to be written. -/
def Cell.awaitsCond (v : Cell) : Bool :=
  v.results.any fun x => x.zn.isSome || x.c.isSome || x.v.isSome

/-- Every source has been written (R32). -/
def Cell.sourcesReady (v : Cell) (u : RegUse) : Bool :=
  u.ss.all (fun r => !v.awaitsS r) && u.vs.all (fun r => !v.awaitsV r) && !(u.condRead && v.awaitsCond)

/-- No destination is awaited (R32). -/
def Cell.destsFree (v : Cell) (u : RegUse) : Bool :=
  u.sd.all (fun r => !v.awaitsS r) && u.vd.all (fun r => !v.awaitsV r) && !(u.condWrite && v.awaitsCond)

/-- Every earlier instruction has completed (R44, R60). -/
def Cell.idle (v : Cell) : Bool :=
  v.results.isEmpty && v.claims.isEmpty && v.bayLoads.isEmpty && v.bayStores.isEmpty && v.filling.isNone &&
    v.products.isEmpty && !v.staging && v.writebacks.isEmpty

/-! ### Addresses -/

/-- A loft access of an instruction: a local address of a cell, or a trap cause with the address. -/
inductive LoftPlace where
  | at_ (c : CellId) (a : Nat)
  | trap (cause : Nat) (addr : Word)
  deriving DecidableEq, Repr

/-- Where an LW, LH, SW, SH, VLD or VST goes (R81, R186, R187): `base` + x × size formed without
wrapping, checked for range and then alignment. -/
def State.loftPlace (s : State) (c : CellId) (base : Word) (x : Int) (size : Nat) : LoftPlace :=
  let sum : Int := base.toNat + x * size
  let v := s.cell c
  let p := s.plot v.owner
  let limit : Int := if p.bay then 0x3000000 else 0x200000
  let info := BitVec.ofInt 32 sum
  if sum < 0 || limit ≤ sum then .trap 5 info
  else if sum % size ≠ 0 then .trap 6 info
  else
    let a := sum.toNat
    if !p.bay || (0x1FFFC0 ≤ a && a ≤ 0x1FFFFF) then .at_ c a
    else
      let u := a / 64
      let b := u % 24
      let d := p.cellAt (v.px / 4 * 4 + b % 4) (v.py / 6 * 6 + b / 4)
      .at_ d (u / 24 * 64 + a % 64)

/-- A latch ID register that names a latch (R49, R84). -/
def latchReg (x : Word) : Option LatchId :=
  let l : LatchId := BitVec.ofNat 17 x.toNat
  if x.toNat < 2 ^ 17 && latchIdOk l then some l else none

/-- The entries of the scoreboard that overlap a byte range, at 64 B granularity (R169). -/
def Cell.boardHits (v : Cell) (a n : Nat) : List SbEntry :=
  v.board.filter fun e => decide (e.start < (a + n + 63) / 64 * 64) && decide (a / 64 * 64 < e.stop)

/-- The scoreboard permits a read: no busy range is met (R169). -/
def Cell.mayRead (v : Cell) (a n : Nat) : Bool := n == 0 || (v.boardHits a n).all fun e => !e.busy
/-- The scoreboard permits a write: no range is met (R169). -/
def Cell.mayWrite (v : Cell) (a n : Nat) : Bool := n == 0 || (v.boardHits a n).isEmpty

/-- A scoreboard entry for `n` bytes at `a` (R169). -/
def sbEntry (a n : Nat) (busy : Bool) (o : SbOwner) : SbEntry := ⟨a / 64 * 64, (a + n + 63) / 64 * 64, busy, o⟩

/-- Entries that the matrix array holds (R174). -/
def Cell.matrixEntries (v : Cell) : Nat :=
  (v.board.filter fun e => match e.owner with
    | .wain _ => false
    | _ => true).length

/-- The matrix array may register `n` more ranges: at most six of its own, eight in all (R174). -/
def Cell.mayRegister (v : Cell) (n : Nat) : Bool := v.matrixEntries + n ≤ 6 && v.board.length + n ≤ 8

/-- The ranges of an owner are released. -/
def Cell.release (v : Cell) (o : SbOwner) : Cell := { v with board := v.board.filter fun e => e.owner != o }

/-- An MMT that stages has not issued (R142): what takes the cell away from it abandons the staging and releases its
ranges (DESIGN CHOICE, log entry 34); the MMT stages anew when it next comes to the head of issue. -/
def Cell.abandon (v : Cell) : Cell := if v.staging then { v with staging := false }.release .staging else v

/-- The cell issues nothing further until it is released. -/
def Cell.freeze (v : Cell) : Cell := { v.abandon with frozen := true }

/-- The address of the word after an instruction of `n` words at the head of the hold: the word after its base word, which
does not follow its first word where a loop body ends on one of its prefixes (R67, R76). -/
def Cell.afterHead (v : Cell) (n : Nat) : PAddr :=
  match (v.held.drop (n - 1)).head? with
  | some w => w.addr + 1
  | none => v.pc + BitVec.ofNat 13 n

end Sys2Proof.Machine
end

