-- ==== Sys2Proof/Machine/Holds.lean ====
section
/-! DEFINITION. What holds an instruction at issue beside its registers (R32): the units of a cell, its tags, its
scoreboard, and the shapes, ranges and judgements of the matrix array. -/

namespace Sys2Proof.Machine

/-! ### Units, tags and loft accesses (R159, R163, R188, R189, R264, R286) -/

/-- An MMT weight stream runs: it takes every read cycle of the loft (R159). -/
def Cell.streaming (v : Cell) : Bool := v.products.any fun p => p.stream && !p.rowsTaken

/-- A request tag that the cell has free, from 0 on. -/
def Cell.freeTag (v : Cell) : Option Byte :=
  ((List.range 256).find? fun t =>
    !(v.bayLoads.any fun l => l.tag.toNat == t) && !(v.bayStores.any fun x => x.toNat == t)).map (BitVec.ofNat 8)

/-- The runs of bytes that a masked write keeps, with their offsets. -/
def keptRuns : List (Option Byte) → Nat → List Byte → List (Nat × List Byte)
  | [], off, run => if run.isEmpty then [] else [(off - run.length, run)]
  | some b :: l, off, run => keptRuns l (off + 1) (run ++ [b])
  | none :: l, off, run =>
    (if run.isEmpty then [] else [(off - run.length, run)]) ++ keptRuns l (off + 1) []

/-- The bytes of a vector register that the lane mask keeps (R87). -/
def maskedBytes (mask : BitVec 16) (x : Vec512) : List (Option Byte) :=
  (List.range 64).map fun i =>
    if mask.getLsbD (i / 4) then some (BitVec.ofNat 8 (bits x (8 * i + 7) (8 * i))) else none

/-- A bay-mode cell holds its signals until its stores to other cells have completed (R189). -/
def State.bayHeld (s : State) (v : Cell) : Bool := (s.plot v.owner).bay && !v.bayStores.isEmpty

/-- A CLAIM tag that is free, from 0 on (R264). -/
def Cell.freeCtag (v : Cell) : Option (BitVec 3) :=
  ((List.range 8).find? fun t => !(v.claims.any fun x => x.1.toNat == t)).map (BitVec.ofNat 3)

/-- The wain can accept another chain (R286, R306). -/
def Wain.accepts (w : Wain) : Bool := w.chains.length < 4 && w.state != .error

/-! ### The matrix array (R92, R130, R134 to R143, R149 to R152) -/

/-- The type carries scale codes (R136). -/
def scaled (t : ElemType) : Bool := t != .ch16

/-- Bytes of an element row of a tile image (R137). -/
def rowSize (t : ElemType) : Nat := if t = .ch16 then 16 else 8

/-- K positions of a slice (R130). -/
def sliceK (t : ElemType) : Nat := if t = .ch4 then 32 else 16

/-- The next multiple of 64. -/
def up64 (n : Nat) : Nat := (n + 63) / 64 * 64

/-- A matrix address judged at issue: LOFT_RANGE for an extent beyond the loft, then LOFT_ALIGN (R52,
R93). -/
def matrixTrap (a : Word) (extent : Nat) : Option (Nat × Word) :=
  if 2 ^ 21 < a.toNat + extent then some (5, a)
  else if a.toNat % 64 ≠ 0 then some (6, a)
  else none

/-- M, N and K of a shape register (R92). -/
def shapeOf (x : Word) : Nat × Nat × Nat := (bits x 8 0, bits x 13 9, bits x 31 14)

/-- The limits of R134 for MMS. -/
def mmsLimits (tr : Bool) (t : ElemType) (m n k : Nat) : Bool :=
  if !tr then m ≤ 256 && n ≤ 8 && k ≤ sliceK t
  else if t = .ch4 then m ≤ 64 && n ≤ 16 && k ≤ 8
  else m ≤ 128 && n ≤ 16 && k ≤ 8

/-- The second tile of a complex product (R153). -/
def imagAcc (acc : AccNo) : AccNo := acc + 1

/-- The tiles that a product of a mode writes. -/
def tilesOf (pm : PassMode) (acc : AccNo) : List AccNo :=
  match pm with
  | .cx3 => [acc, imagAcc acc]
  | .cx4 => [acc, imagAcc acc]
  | _ => [acc]

/-- A tile is free for a writer: no earlier writer and no MWB of it is unfinished (R152). -/
def Cell.tileFree (v : Cell) (acc : AccNo) : Bool :=
  !(v.products.any fun p => p.tiles.any fun t => t.1 == acc) && !(v.writebacks.any fun w => w.acc == acc)

/-- The product path is free (R151). -/
def Cell.pathFree (v : Cell) : Bool := v.products.all (·.rowsTaken) && !v.staging

/-- Bytes of a feed row (R140). -/
def feedRow (tr s16 : Bool) (t : ElemType) : Nat :=
  let f := if s16 then 64 else match t with
    | .ch16 => 32
    | _ => 16
  if tr then (if t = .ch4 then 4 else f / 2) else f

/-- Planes of a mode's inputs (R141). -/
def planes (pm : PassMode) : Nat :=
  match pm with
  | .cx3 => 2
  | .cx4 => 2
  | _ => 1

/-- The parts of an MMS operand from an address: each plane, followed by its scale codes where the type
has them (R141). -/
def mmsParts (tr : Bool) (t : ElemType) (pm : PassMode) (m a : Nat) : List (Nat × Nat) :=
  let plane := m * feedRow tr (pm == .s16x3) t
  let one := if scaled t then up64 plane + up64 m else up64 plane
  (List.range (planes pm)).flatMap fun p =>
    (a + p * one, plane) :: if scaled t then [(a + p * one + up64 plane, m)] else []

/-- End of the last part. -/
def partsEnd (l : List (Nat × Nat)) : Nat := l.foldl (fun e p => max e (p.1 + p.2)) 0

/-- Sizes of an MMT: bytes of an input row, slices, column groups, blocks of a plane, bytes of a line. -/
structure MmtSizes where
  rs    : Nat
  kgs   : Nat
  ngs   : Nat
  blocks : Nat
  line  : Nat
  wplanes : Nat

def mmtSizes (it wt : ElemType) (pm : PassMode) (n k : Nat) : MmtSizes :=
  let g := sliceK it
  let half := if pm = .s16x3 then 8 else match it with
    | .ch16 => 4
    | .ch4 => 1
    | _ => 2
  let kgs := (k + g - 1) / g
  let ngs := (n + 7) / 8
  ⟨up64 ((k * half + 1) / 2), kgs, ngs, kgs * ngs, 16 * rowSize wt, match pm with
    | .real => 1
    | .cx3 => 3
    | _ => 2⟩

/-- The staged parts: input planes, input scale codes, weight scale codes (R142). -/
def mmtStaged (it wt : ElemType) (pm : PassMode) (m n k a w : Nat) : List (Nat × Nat) :=
  let z := mmtSizes it wt pm n k
  let inBytes := planes pm * m * z.rs
  [(a, inBytes)] ++ (if scaled it then [(a + inBytes, planes pm * m * z.kgs)] else []) ++
    if scaled wt then [(w + z.wplanes * z.blocks * z.line, z.wplanes * z.blocks * 8)] else []

/-- 64 B units that staging reads (R142). -/
def mmtUnits (l : List (Nat × Nat)) : Nat := (l.map fun p => (p.2 + 63) / 64).sum

/-- Bytes of the weight planes. -/
def mmtWeightBytes (it wt : ElemType) (pm : PassMode) (n k : Nat) : Nat :=
  let z := mmtSizes it wt pm n k
  z.wplanes * z.blocks * z.line

/-- How a product or a write-back is judged when it comes to issue. -/
inductive MatrixJudge where
  | trap (cause : Nat) (info : Word)
  | hold
  | noWork
  | viewOnly
  | ready
  deriving DecidableEq, Repr

/-- The judgement of an MMT (R92, R93, R134, R142, R152, R158, R534). Where its input and its weight-stream address raise
the same cause, CL_TRAP_INFO holds the input address (DESIGN CHOICE, log entry 67). -/
def mmtJudge (v : Cell) (acc : AccNo) (r : SReg) (it wt : ElemType) (pm : PassMode) (w sh : SReg) : MatrixJudge :=
  let (m, n, k) := shapeOf (v.s sh)
  let a := v.s r
  let wa := v.s w
  let staged := mmtStaged it wt pm m n k a.toNat wa.toNat
  let inEnd := partsEnd (staged.take (if scaled it then 2 else 1)) - a.toNat
  let wBytes := mmtWeightBytes it wt pm n k
  let wEnd := wBytes + if scaled wt then (mmtSizes it wt pm n k).wplanes * (mmtSizes it wt pm n k).blocks * 8 else 0
  let tiles := tilesOf pm acc
  if 128 < m || 16 < n then .trap 2 0
  else if m = 0 || n = 0 then (if v.pathFree then .noWork else .hold)
  else if k = 0 then (if v.pathFree && tiles.all v.tileFree then .viewOnly else .hold)
  else if 256 < mmtUnits staged then .trap 2 0
  else match matrixTrap a inEnd, matrixTrap wa wEnd with
    | some (5, x), _ => .trap 5 x
    | _, some (5, x) => .trap 5 x
    | some (t, x), _ => .trap t x
    | _, some (t, x) => .trap t x
    | none, none =>
      if v.pathFree && tiles.all v.tileFree && v.mayRead a.toNat inEnd && v.mayRead wa.toNat wEnd &&
          v.mayRegister (if scaled wt then 2 else 1) then .ready
      else .hold

/-- Bytes of a written element (R149). -/
def wbSize (dt : ElemType) (pair : Bool) : Nat := if pair then 8 else elemBits dt / 8

/-- The judgement of an MMS (R92, R93, R134, R141, R152, R157, R158, R534). One with M, N or K of zero waits for its path
alone, also with two weight tiles while the shadow tile fills, and then its type is not held against the filling tile
(DESIGN CHOICE, log entry 67). -/
def mmsJudge (v : Cell) (acc : AccNo) (tr : Bool) (r : SReg) (it : ElemType) (pm : PassMode) (sh : SReg) : MatrixJudge :=
  let (m, n, k) := shapeOf (v.s sh)
  let a := v.s r
  let two := pm != .real
  let typesOk := typeGroup it == typeGroup v.working.type &&
    (!two || v.filling.isSome || typeGroup it == typeGroup v.shadow.type) &&
    (pm != .s16x3 || v.working.type == .ch16)
  let extent := partsEnd (mmsParts tr it pm m a.toNat) - a.toNat
  let tiles := tilesOf pm acc
  if !typesOk || !mmsLimits tr it m n k then .trap 2 0
  else if m = 0 || n = 0 then (if v.pathFree then .noWork else .hold)
  else if k = 0 then (if v.pathFree && tiles.all v.tileFree then .viewOnly else .hold)
  else match matrixTrap a extent with
    | some (t, x) => .trap t x
    | none =>
      if !v.pathFree || !tiles.all v.tileFree || (two && v.filling.isSome) || !v.mayRead a.toNat extent ||
          !v.mayRegister 1 then .hold
      else .ready

/-- Bytes that an MWB spans from its address (R149). -/
def mwbExtent (wide : Bool) (dt : ElemType) (pair : Bool) (m n : Nat) : Nat :=
  (m - 1) * (if wide then 16 else 8) * wbSize dt pair + n * wbSize dt pair

/-- The judgement of an MWB (R92, R93, R134, R149, R151, R152, R158, R534). The write-back path takes the next instruction
after the issue interval, which the model does not count: several MWBs may be unfinished, and they finish in order (log
entry 68). An MWB with KEEP = 0 writes its tile, so no other MWB of the tile runs beside it (R152). -/
def mwbJudge (v : Cell) (acc : AccNo) (r : SReg) (dt : ElemType) (pair keep : Bool) (sh : SReg) : MatrixJudge :=
  let (m, n, _) := shapeOf (v.s sh)
  let t := v.tile acc
  let a := v.s r
  let extent := mwbExtent t.wide dt pair m n
  if (if t.wide then 128 else 256) < m || (if t.wide then 16 else 8) < n then .trap 2 0
  else if m = 0 || n = 0 then .noWork
  else match matrixTrap a extent with
    | some (k, x) => .trap k x
    | none =>
      if v.products.any (fun q => q.tiles.any fun e => e.1 == acc) ||
          v.writebacks.any (fun w => w.acc == acc && (!w.keep || !keep)) ||
          !v.mayWrite a.toNat extent || !v.mayRegister 1 then .hold
      else .ready

/-- The judgement of an MLDW of a type (R93, R138, R159, R170, R174). -/
def mldwJudge (v : Cell) (r : SReg) (t : ElemType) : MatrixJudge :=
  let a := v.s r
  let n := 16 * rowSize t + if scaled t then 8 else 0
  match matrixTrap a n with
  | some (k, x) => .trap k x
  | none =>
    if v.filling.isSome || v.streaming || !v.mayRead a.toNat n || !v.mayRegister 1 ||
        v.products.any (fun p => p.readsShadow && !p.rowsTaken) then .hold
    else .ready

/-- MSWAP waits until the shadow tile is full and every earlier product has taken its last input row (R139). -/
def Cell.swapHeld (v : Cell) : Bool := v.filling.isSome || v.products.any fun p => !p.rowsTaken

/-! ### The other holds of R222 -/

/-- A loft access waits for the scoreboard, the weight stream or a request tag. -/
def State.accessHeld (s : State) (c : CellId) (base : Word) (x : Int) (size : Nat) (write : Bool) : Bool :=
  let v := s.cell c
  match s.loftPlace c base x size with
  | .trap _ _ => false
  | .at_ d a =>
    if d ≠ c then v.freeTag.isNone
    else if write then !v.mayWrite a size
    else (!v.mayRead a size || v.streaming) &&
      (wordsOf c a size).all fun w => decide (Store.get 0 s.loftErr w < 2) || s.inUnclaimed c (w % 2 ^ 17 * 16)

/-- An instruction whose registers are ready is held by something other than a queue or a channel (R32, R222). -/
def State.heldElse (s : State) (c : CellId) (i : Instr) : Bool :=
  let v := s.cell c
  let judged (j : MatrixJudge) : Bool := j == .hold
  let latchOk (r : SReg) : Bool := (latchReg (v.s r)).isSome
  match i with
  | .lw _ _ a x => s.accessHeld c (v.s a) x 4 false
  | .lh _ _ a x => s.accessHeld c (v.s a) x 2 false
  | .vld _ _ a x => s.accessHeld c (v.s a) x 64 false
  | .sw _ _ a x => s.accessHeld c (v.s a) x 4 true
  | .sh _ _ a x => s.accessHeld c (v.s a) x 2 true
  | .vst _ _ a x => s.accessHeld c (v.s a) x 64 true
  | .mldw _ r t => judged (mldwJudge v r t)
  | .mswap _ => v.swapHeld
  | .mms _ acc tr r it _ pm sh => judged (mmsJudge v acc tr r it pm sh)
  | .mmt _ acc r it wt _ pm w sh => v.staging || judged (mmtJudge v acc r it wt pm w sh)
  | .mwb _ acc r dt pair keep sh => judged (mwbJudge v acc r dt pair keep sh)
  | .mclr _ acc => !v.tileFree acc
  | .waiteFlag _ k => !v.evflags.getLsbD k.toNat && !v.idle
  | .waiteDFlag _ k _ _ => !v.evflags.getLsbD k.toNat && !v.idle
  | .waiteLatch _ l => latchOk l && !v.idle
  | .waiteDLatch _ l _ _ => latchOk l && !v.idle
  | .waitt _ p => decide (s.tick < (v.pair p).toNat) && !v.idle
  | .halt _ => !v.idle
  | .setl _ l => latchOk l && s.bayHeld v
  | .clrl _ l => latchOk l && s.bayHeld v
  | .claim _ _ l => latchOk l && (s.bayHeld v || v.freeCtag.isNone)
  | .sende .. => s.bayHeld v
  | .wgo _ w a => !(s.wain (wainKey (.hub (fieldOf c) w))).accepts && decide ((v.s a).toNat ≤ 0x1FFFFF) && (v.s a).toNat % 64 == 0
  | _ => false

end Sys2Proof.Machine
end

