-- ==== Sys2Proof/Machine/PlotFault.lean ====
section
/-! DEFINITION. Faults of plots: stall entries, the plot fault record and the FAULT notice (R222, R445
to R450). -/

namespace Sys2Proof.Machine

/-- The words at the head of a cell's hold (R63). -/
def Cell.head (v : Cell) (c : CellId) : Option (Nat × Spelled) := decodeWords c (v.held.map (·.word))

/-- Credits that a push needs (R204). -/
def pushNeeds (vec : Bool) : Nat := if vec then 2 else 1

/-- HOLD and HELDQ of a stall entry (R222). -/
def State.holdOf (s : State) (c : CellId) : Nat × Nat :=
  let v := s.cell c
  if v.run != .running then (0, 0)
  else match v.head c with
    | some (_, .instr i) =>
      let onQueue (q : QueueNo) : Option (Nat × Nat) :=
        let x := v.queue q
        if x.en && !x.present then some (1, q.toNat) else none
      let onChan (o : ChanNo) (need : Nat) : Option (Nat × Nat) :=
        let x := v.chan o
        if x.en && (decide (x.credits < need) || x.stopped) then some (2, o.toNat) else none
      let hold := match i with
        | .pop _ _ _ q => onQueue q
        | .peek _ _ _ q => onQueue q
        | .drop _ q => onQueue q
        | .ttest _ _ q => onQueue q
        | .push _ vec _ o => onChan o (pushNeeds vec)
        | .tpush _ o _ _ => onChan o 1
        | _ => none
      match hold with
      | some h => h
      | none =>
        if v.sourcesReady (regUse i) && v.destsFree (regUse i) && !s.heldElse c i then (0, 0) else (3, 0)
    | _ => (0, 0)

/-- The bitmap of the n below `k` that pass a test. -/
def bitmap (k : Nat) (t : Nat → Bool) : Nat := ((List.range k).map fun n => if t n then 2 ^ n else 0).sum

def RunState.code : RunState → Nat
  | .halted => 0
  | .running => 1
  | .sleeping => 2
  | .faulted => 3

/-- A stall entry (R222). -/
def State.stallEntry (s : State) (c : CellId) : Nat :=
  let v := s.cell c
  let (hold, hq) := s.holdOf c
  let nocred := bitmap 4 fun n =>
    let o := v.chan (BitVec.ofNat 2 n)
    o.en && decide (o.credits < pushNeeds o.vec)
  let full := bitmap 8 fun n =>
    let q := v.queue (BitVec.ofNat 3 n)
    q.en && q.held == q.capacity
  let empty := bitmap 8 fun n =>
    let q := v.queue (BitVec.ofNat 3 n)
    q.en && !q.holdsElem
  v.run.code * 2 ^ 30 + hold * 2 ^ 28 + nocred * 2 ^ 24 + full * 2 ^ 16 + empty * 2 ^ 8 + hq

/-- A cell entry of the plot fault record (R450). -/
def State.recordEntry (s : State) (c : CellId) : List Byte :=
  let v := s.cell c
  if v.dead || v.lockedOut || s.isHole c then
    padBytes ([0, 0, 0, 0, 0] ++ [BitVec.ofNat 8 ((if v.dead then 4 else 0) + (if s.isHole c then 8 else 0))]) 32
  else
    let b5 := (if v.reported then 1 else 0) + (if v.doubleTrap then 2 else 0) + (if v.intrap then 16 else 0)
    padBytes (leBytes 4 (s.stallEntry c) ++ leBytes 1 v.cause.toNat ++ leBytes 1 b5 ++ leBytes 2 v.epc.toNat ++
      leBytes 4 v.info.toNat ++ leBytes 4 0 ++ leBytes 8 v.raw.toNat) 32

/-- The plot fault record of a plot (R450). -/
def State.plotRecord (s : State) (p : PlotId) (cls number : Nat) : List Byte :=
  let q := s.plot p
  let n := q.width.toNat * q.height.toNat
  padBytes (leBytes 4 0x544C5546 ++ leBytes 1 p.toNat ++ leBytes 1 q.season.toNat ++ leBytes 1 cls ++ [0] ++
    leBytes 4 number ++ leBytes 2 q.width.toNat ++ leBytes 2 q.height.toNat ++ leBytes 8 s.tick ++
    leBytes 4 (64 + 32 * n)) 64 ++ q.cells.flatMap s.recordEntry

/-- A plot state that a fault changes to FAULTED (R449). -/
def PlotState.faultable : PlotState → Bool
  | .loaded => true
  | .running => true
  | .done => true
  | .stopped => true
  | _ => false

/-- A plot enters FAULTED: its cells stop with their state kept, its record is captured, and FAULT is set in its events,
with STALL where class 2 stalled it (R221, R449). -/
def State.plotFaulted (s : State) (p : PlotId) (cls number : Nat) : State :=
  let q := s.plot p
  let s := s.modCells q.cells Cell.freeze
  let s := s.setPlot p { q with
    state := .faulted
    faultReg := BitVec.ofNat 32 (cls * 2 ^ 24 + number % 2 ^ 24) }
  (s.modPlot p fun q => { q with record := s.plotRecord p cls number }).plotEvent p (if cls = 2 then 0b01010 else 0b01000)

/-- The FAULT notice of a fault for one plot, 127 for none (R445). `flags` adds to byte 3. -/
def State.faultNotice (s : State) (p : Option PlotId) (cls number unit flags : Nat) (detail : List Byte) : State :=
  let (b1, b2) := match p with
    | some p => (p.toNat, (s.plot p).season.toNat)
    | none => (0xFF, 0)
  s.notice 4 48 (padBytes (leBytes 1 cls ++ leBytes 1 b1 ++ leBytes 1 b2 ++ leBytes 1 flags ++ leBytes 4 number ++
    leBytes 8 s.tick ++ leBytes 4 unit ++ leBytes 4 s.epoch.toNat ++ detail) 48)

/-- A fault of the ward: it takes the next number, faults every plot it names and writes a notice for
each, or one notice where it names none (R445, R449). -/
def State.fault (s : State) (cls unit : Nat) (detail : List Byte) (flags : Nat) (ps : List PlotId) : State :=
  let number := s.faultSeq.toNat
  let s := { s with faultSeq := s.faultSeq + 1 }
  match ps with
  | [] => s.faultNotice none cls number unit flags detail
  | _ => ps.foldl (fun s p =>
      if (s.plot p).state.faultable then
        (s.plotFaulted p cls number).faultNotice (some p) cls number unit (flags + 1) detail
      else s.faultNotice (some p) cls number unit (flags + 4) detail) s

/-- The plot of a cell as a list: none for a cell that no plot holds. -/
def State.plotOfCell (s : State) (c : CellId) : List PlotId := s.plotsWith fun q => q.covers c

/-- A CELL_TRAP fault (R446). -/
def State.cellTrapFault (s : State) (c : CellId) (cause : Nat) (double : Bool) (epc : PAddr) : State :=
  let v := s.cell c
  s.fault 1 c.toNat (leBytes 1 cause ++ leBytes 1 (if double then 1 else 0) ++ leBytes 2 epc.toNat ++
    leBytes 4 v.info.toNat ++ leBytes 8 v.raw.toNat) 0 (s.plotOfCell c)

end Sys2Proof.Machine
end

