-- ==== Sys2Proof/Machine/Mesh.lean ====
section
/-! DEFINITION. Routers and links: routing, buffers, drops and link states (R233 to R261). -/

namespace Sys2Proof.Machine

/-- Ports by number: 0 north, 1 south, 2 east, 3 west, 4 local, 5 hub (FH_MESH_DROPLOG). -/
def portCode : RPort → Nat
  | .north => 0
  | .south => 1
  | .east => 2
  | .west => 3
  | .local => 4
  | .hub => 5

def portOf (n : Nat) : RPort :=
  match n with
  | 0 => .north
  | 1 => .south
  | 2 => .east
  | 3 => .west
  | 4 => .local
  | _ => .hub

/-- The neighbour of a router at a port, where the grid has one. -/
def neighbour (r : CellId) (d : Nat) : Option CellId :=
  match d with
  | 0 => if lyOf r = 0 then none else some (mkCell (lxOf r) (lyOf r - 1))
  | 1 => if lyOf r = 383 then none else some (mkCell (lxOf r) (lyOf r + 1))
  | 2 => if lxOf r = 623 then none else some (mkCell (lxOf r + 1) (lyOf r))
  | 3 => if lxOf r = 0 then none else some (mkCell (lxOf r - 1) (lyOf r))
  | _ => none

/-- The facing port. -/
def facing (d : Nat) : Nat :=
  match d with
  | 0 => 1
  | 1 => 0
  | 2 => 3
  | _ => 2

/-- The link at a port of a router is a stitch crossing (R15). -/
def isStitch (r : CellId) (d : Nat) : Bool :=
  match d with
  | 0 => lyOf r % 32 == 0
  | 1 => lyOf r % 32 == 31
  | 2 => lxOf r % 78 == 77
  | _ => lxOf r % 78 == 0

/-- The key of a link direction: its receiving router and input port. -/
def linkKey (r : CellId) (d : Nat) : Nat := r.toNat * 4 + d

/-- The state of the direction that a router receives at a port. -/
def State.linkIn (s : State) (r : CellId) (d : Nat) : LinkState :=
  (Store.find? s.links (linkKey r d)).getD s.linkAll

/-- A router serves: its position is not a blocked hole and its router is not dead (R260). -/
def State.routerOk (s : State) (r : CellId) : Bool := !s.isBlocked r && !(s.cell r).routerDead

/-- The state of the link at a port of a router: UP once both sides are, DOWN where something holds it DOWN
(R246, R455). -/
def State.linkState (s : State) (r : CellId) (d : Nat) : LinkState :=
  match neighbour r d with
  | none => .down
  | some n =>
    if s.routerOk r && s.routerOk n then
      match s.linkIn r d, s.linkIn n (facing d) with
      | .up, .up => .up
      | .down, _ => .down
      | _, .down => .down
      | _, _ => .init
    else .down

/-- Both directions of the link at a port of a router are set to a state. -/
def State.setLink (s : State) (r : CellId) (d : Nat) (x : LinkState) : State :=
  match neighbour r d with
  | none => s
  | some n => { s with links := Store.insert (Store.insert s.links (linkKey r d) x) (linkKey n (facing d)) x }

/-- The links of a router go DOWN. -/
def State.linksDown (s : State) (r : CellId) : State := [0, 1, 2, 3].foldl (fun s d => s.setLink r d .down) s

/-- FH_MESH_LINKDOWN of a field: links that no bring-up has trained since the reset do not count. -/
def State.linksDownCount (s : State) (f : FieldNo) : Nat :=
  if (s.hub f).dark || s.linkAll == .down then 0
  else
    let n := (rectCells (78 * fxOf f) (64 * fyOf f) 78 64).foldl (fun n c =>
      n + ([0, 1, 2, 3].filter fun d => (neighbour c d).isSome && s.linkState c d == .down).length) 0
    min n 4095

/-- A header's DEST and SRC field (R249). -/
def endBits : Endpoint → Nat
  | .cell c => c.toNat
  | .hub f u t => f.toNat * 2 ^ 13 + u.toNat * 2 ^ 7 + t.toNat
def destBits : Dest → Nat
  | .unicast e => endBits e
  | .multicast side dir span => (if side then 2 ^ 12 else 0) + dir.toNat * 2 ^ 10 + span.toNat
  | .reserved => 0

/-- An endpoint names identifiers that R4 permits. -/
def endOk : Endpoint → Bool
  | .cell c => cellIdOk c
  | .hub f _ t => f.toNat < 48 && t.toNat < 78

/-- LEN lies in the range of the type (R239). -/
def lenOk (type len : Nat) : Bool :=
  match type with
  | 0 => 1 ≤ len && len ≤ 8
  | 3 => 1 ≤ len && len ≤ 8
  | 4 => len ≤ 8
  | 10 => len ≤ 8
  | _ => len == 0

/-- A header is malformed (R241, R259). -/
def pktMalformed (p : Packet) : Bool :=
  let t := bodyType p.body
  11 ≤ t || p.vc != bodyVc p.body || !lenOk t p.len.toNat ||
    (match p.dest with
      | .unicast e => !endOk e
      | .multicast _ _ _ => p.waypt.isSome
      | .reserved => true) ||
    (p.waypt.any fun w => !cellIdOk w)

/-- The packet is a VC1 request, with its tag. -/
def requestTag (p : Packet) : Option Byte :=
  match p.body with
  | .readReq _ _ t => some t
  | .writeReq _ _ _ t _ => some t
  | .forward h _ t _ => if h.ctype = 0 || h.ctype = 3 then some t else none
  | _ => none

/-- Who receives the failure of a request: its SRC, or the requester of one that a mill forwards. -/
def requesterOf (p : Packet) : Endpoint :=
  match p.body with
  | .forward _ e _ _ => e
  | _ => p.src

/-- The first router that drops a packet counts and logs it, answers a VC1 request, and the ward faults
the source cell's plot; a packet of a hub concerns no plot, and its drop is reported as such (R255, R445; log entry 60). -/
def State.meshDrop (s : State) (r : CellId) (reason port : Nat) (p : Packet) : State :=
  let f := fieldOf r
  let s := s.count (hubCtr f 10) 1
  let h := s.hub f
  let log := BitVec.ofNat 64 (2 ^ 63 + reason * 2 ^ 60 + port * 2 ^ 57 + p.vc.toNat * 2 ^ 55 + bodyType p.body * 2 ^ 51 +
    rowIn r * 2 ^ 45 + s.physCol r * 2 ^ 38 + endBits p.src * 2 ^ 19 + destBits p.dest)
  let h := { h with
    dropcnt := if reason = 1 then h.dropcnt else satAdd h.dropcnt 1
    parcnt := if reason = 1 then satAdd h.parcnt 1 else h.parcnt
    droplog := if h.droplog.msb then h.droplog else log }
  let s := s.setHub f h
  let s := match requestTag p with
    | some t =>
      if reason = 0 || reason = 4 then
        let body := Body.errorResp t (if reason = 0 then 1 else 3) false
        -- the tap is set from the router's own column (R250)
        let dst := match requesterOf p with
          | .hub f u _ => hubDest (lxOf r) f u
          | e => e
        s.send ⟨.cell r, .unicast dst, detourFor (s.niOf r).detours (detourTarget dst), bodyVc body, 0, body, r,
          .local, false, true, false⟩
      else s
    | none => s
  match p.src with
  | .cell c => s.fault 5 f.toNat (leBytes 8 h.droplog.toNat) 0 (s.plotOfCell c)
  | .hub _ _ _ => s.fault 5 f.toNat (leBytes 8 h.droplog.toNat) 0 []

/-- What a router does with a packet. -/
inductive Hop where
  | drop (reason port : Nat)
  | eject
  | move (d : Nat)
  | copy
  | copyMove (d : Nat)
  | copyDrop (port : Nat)
  | wait
  deriving DecidableEq, Repr

/-- The port toward a target column and row: columns first (R252); none at the target. -/
def toward (r : CellId) (tx ty : Nat) : Option Nat :=
  if lxOf r < tx then some 2
  else if tx < lxOf r then some 3
  else if lyOf r < ty then some 1
  else if ty < lyOf r then some 0
  else none

/-- The row at which the leg of a packet to a hub begins (R250). -/
def startRow (p : Packet) (fy : Nat) : Nat :=
  match p.waypt with
  | some w => lyOf w
  | none => match p.src with
    | .cell c => lyOf c
    | .hub f _ _ => if fy ≤ fyOf f then 64 * fyOf f + 31 else 64 * fyOf f + 32

/-- Room in the buffer of a router input for a packet (R245). -/
def State.roomAt (s : State) (n : CellId) (d : Nat) (vc : BitVec 2) (leg : Bool) (size : Nat) : Bool :=
  let used := ((s.net.filter fun q => q.pos == n && portCode q.inPort == d && q.vc == vc && q.leg == leg && !q.ejected).map
    fun q => 1 + q.len.toNat).sum
  used + size ≤ (if isStitch n d then 12 else 9)

/-- A step over the link at a port, where the link is UP and the buffer has room. -/
def State.step1 (s : State) (p : Packet) (leg : Bool) (d reason : Nat) (go : Hop) (bad : Nat → Nat → Hop) : Hop :=
  match neighbour p.pos d with
  | none => bad reason d
  | some n =>
    if s.linkState n (facing d) ≠ .up then bad reason d
    else if s.roomAt n (facing d) p.vc leg (1 + p.len.toNat) then go
    else .wait

/-- The leg class of a packet at its router: it changes at the waypoint (R252). -/
def legHere (p : Packet) : Bool := p.leg || p.waypt == some p.pos

/-- Where the first cell of a multicast lies, and the port of its direction (R258). -/
def spanStart (p : Packet) (side : Bool) : CellId :=
  match p.src with
  | .cell c => c
  | .hub f _ t => mkCell (78 * fxOf f + t.toNat) (if side then 64 * fyOf f + 32 else 64 * fyOf f + 31)
def dirPort (dir : BitVec 2) : Nat :=
  match dir.toNat with
  | 0 => 2
  | 1 => 3
  | 2 => 1
  | _ => 0

/-- The interface at a packet's router can take the whole of it (R244, R259; log entry 72). -/
def State.ifaceRoom (s : State) (p : Packet) : Bool :=
  p.vc == 0 || p.vc == 2 ||
    (let used := ((s.net.filter fun q => q.ejected && q.inPort != .hub && q.pos == p.pos && q.vc == p.vc).map fun q =>
      1 + q.len.toNat).sum
    used + (1 + p.len.toNat) ≤ 9 || used + (1 + p.len.toNat) ≤ Config.ifSpace)

/-- The routing decision of a router for a packet that it holds (R241, R250, R252, R255, R259). -/
def State.hop (s : State) (p : Packet) : Hop :=
  let r := p.pos
  if !p.parityOk then .drop 1 (portCode p.inPort)
  else if pktMalformed p then .drop 2 (portCode p.inPort)
  else
    let leg := legHere p
    match p.dest with
    | .reserved => .drop 2 (portCode p.inPort)
    | .multicast side dir span =>
      let c := spanStart p side
      let gone := (lxOf r - lxOf c) + (lxOf c - lxOf r) + (lyOf r - lyOf c) + (lyOf c - lyOf r)
      if !s.ifaceRoom p then .wait
      else if gone < span.toNat then s.step1 p leg (dirPort dir) 0 (.copyMove (dirPort dir)) fun _ d => .copyDrop d
      else .copy
    | .unicast e =>
      match (if leg then none else p.waypt), e with
      | some w, _ =>
        match toward r (lxOf w) (lyOf w) with
        | some d => s.step1 p leg d 0 (.move d) .drop
        | none => .wait
      | none, .cell c =>
        match toward r (lxOf c) (lyOf c) with
        | some d => s.step1 p leg d 0 (.move d) .drop
        | none => if s.ifaceRoom p then .eject else .wait
      | none, .hub f u tap =>
        let reason := if s.unitPresent f u then 0 else 4
        let north := decide (startRow p (fyOf f) ≤ 64 * fyOf f + 31)
        let ty := if north then 64 * fyOf f + 31 else 64 * fyOf f + 32
        match toward r (78 * fxOf f + tap.toNat) ty with
        | some d => s.step1 p leg d reason (.move d) .drop
        | none =>
          if reason = 4 then .drop 4 5
          else
            let d := if north then 1 else 0
            match neighbour r d with
            | some n => 
              if s.linkState n (facing d) ≠ .up then .drop 0 d else if s.ifaceRoom p then .eject else .wait
            | none => .drop 0 d

/-- The packets that a router may act on at an input: the first of each virtual channel and leg class;
`seen` holds the classes already met. -/
def headsAt (r : CellId) (port : RPort) (seen : List (BitVec 2 × Bool)) : List Packet → List Packet
  | [] => []
  | p :: l =>
    if p.pos == r && p.inPort == port && !p.ejected && !seen.contains (p.vc, p.leg) then
      p :: headsAt r port ((p.vc, p.leg) :: seen) l
    else headsAt r port seen l

/-- The inputs of a router that its outputs serve; a hub's packets enter the input of the seam link (R251). -/
def inputs : List RPort := [.north, .south, .east, .west, .local]

/-- The output that a packet's next hop needs: a link, the local port, or the seam link for a hub (R233, R250). -/
def hopOut (p : Packet) : Hop → Option Nat
  | .move d => some d
  | .copyMove d => some d
  | .copy => some 4
  | .eject => match p.dest with
    | .unicast (.hub _ _ _) => some (if rowIn p.pos ≤ 31 then 1 else 0)
    | _ => some 4
  | _ => none

/-- The packets of a router that are ready for an output. -/
def State.readyFor (s : State) (r : CellId) (o : Nat) : List Packet :=
  (inputs.flatMap fun d => headsAt r d [] s.net).filter fun p => hopOut p (s.hop p) == some o

/-- The turn of a round-robin of a router's output: 0 to 7 among the inputs of a queue, 8 among queues, 9 among those of
VC0, 10 between the hub and the seam link (log entry 73). -/
def turnKey (r : CellId) (o k : Nat) : Nat := r.toNat * 128 + o * 16 + k
def State.turn (s : State) (r : CellId) (o k : Nat) : Nat := Store.get 0 s.arb (turnKey r o k)
def State.setTurn (s : State) (r : CellId) (o k x : Nat) : State := { s with arb := Store.set 0 s.arb (turnKey r o k) x }

/-- The first of the numbers below 8 that is present, from a turn on. -/
def roundRobin (turn : Nat) (l : List Nat) : Option Nat := ((List.range 8).map fun i => (turn + i) % 8).find? l.contains

/-- A packet's queue at an input: its virtual channel and leg class. -/
def queueNo (p : Packet) : Nat := p.vc.toNat * 2 + (if p.leg then 1 else 0)
/-- Where the turn among queues stands for a packet's virtual channel. -/
def classTurn (p : Packet) : Nat := if p.vc = 0 then 9 else 8

/-- The packet that an output sends next: VC0 first, then the queues and within one the inputs by round-robin (R242). -/
def State.winner (s : State) (r : CellId) (o : Nat) : Option Packet :=
  let ps := s.readyFor r o
  let fast := ps.filter fun p => p.vc == 0
  let ps := if fast.isEmpty then ps else fast
  match ps with
  | [] => none
  | p :: _ =>
    match roundRobin (s.turn r o (classTurn p)) (ps.map queueNo) with
    | none => none
    | some q =>
      let ps := ps.filter fun p => queueNo p == q
      (roundRobin (s.turn r o q) (ps.map fun p => portCode p.inPort)).bind fun i => ps.find? fun p => portCode p.inPort == i

/-- The turns move on past a packet that an output has sent. -/
def State.served (s : State) (r : CellId) (o : Nat) (p : Packet) : State :=
  (s.setTurn r o (classTurn p) ((queueNo p + 1) % 8)).setTurn r o (queueNo p) ((portCode p.inPort + 1) % 8)

/-- The input by which a router beside a seam is reached over it (R16, R251). -/
def seamIn (r : CellId) : Option Nat := if rowIn r = 31 then some 1 else if rowIn r = 32 then some 0 else none

/-- The packet of the hub that enters a seam router next: VC0 first, with room in the input of the seam link (R251). -/
def State.hubHead (s : State) (r : CellId) (d : Nat) : Option Packet :=
  let hs := (headsAt r .hub [] s.net).filter fun p => s.roomAt r d p.vc p.leg (1 + p.len.toNat)
  (hs.find? fun p => p.vc == 0).or hs.head?

/-- The packet that comes over the seam to a router next. -/
def State.seamHead (s : State) (r : CellId) (d : Nat) : Option Packet :=
  match neighbour r d with
  | none => none
  | some n => (s.winner n (facing d)).filter fun p =>
      match s.hop p with
      | .move _ => true
      | .copyMove _ => true
      | _ => false

/-- The hub's packet goes before the one that comes over the seam: VC0 first, else by turns (R242, R251). -/
def State.hubTurn (s : State) (r : CellId) (d : Nat) : Bool :=
  match s.hubHead r d, s.seamHead r d with
  | none, _ => false
  | some _, none => true
  | some h, some p => if (h.vc == 0) != (p.vc == 0) then h.vc == 0 else s.turn r d 10 == 0

/-- A packet may take its next hop: its output sends it next, and the hub does not enter the input across a seam first. -/
def State.mayGo (s : State) (r : CellId) (p : Packet) (x : Hop) : Bool :=
  match x with
  | .wait => false
  | _ => match hopOut p x with
    | none => true
    | some o =>
      s.winner r o == some p && !(o < 2 && x != .eject && (seamIn r == some o) &&
        ((neighbour r o).any fun n => s.hubTurn n (facing o)))

/-- The packet that a router sends on from an input, with what becomes of it (R242). -/
def State.chosen (s : State) (r : CellId) (port : RPort) : Option (Packet × Hop) :=
  let hs := headsAt r port [] s.net
  let hs := hs.filter (fun p => p.vc == 0) ++ hs.filter (fun p => p.vc != 0)
  (hs.map fun p => (p, s.hop p)).find? fun x => s.mayGo r x.1 x.2

/-- The packet as it stands after a move over a link. -/
def movedTo (p : Packet) (d : Nat) : Packet :=
  { p with pos := (neighbour p.pos d).getD p.pos, inPort := portOf (facing d), leg := legHere p }

/-- Flits forwarded by a router are counted (R463). -/
def State.countFlits (s : State) (r : CellId) (p : Packet) : State :=
  let s := s.count (hubCtr (fieldOf r) 8) (1 + p.len.toNat)
  if p.vc = 0 then s.count (hubCtr (fieldOf r) 9) (1 + p.len.toNat) else s

/-- A hub's packet enters the input of the seam link (R251). -/
def State.hubEnters (s : State) (r : CellId) : State :=
  match seamIn r with
  | none => s
  | some d =>
    match s.hubHead r d with
    | some p => if s.hubTurn r d then
        (({ s with net := s.net.erase p }).send { p with inPort := portOf d }).setTurn r d 10 1
      else s
    | none => s

/-- A packet has crossed the seam into a router: the hub's turn is next (R251). -/
def State.seamCrossed (s : State) (r : CellId) (d : Nat) : State :=
  if seamIn r = some d then
    match neighbour r d with
    | some n => s.setTurn n (facing d) 10 0
    | none => s
  else s

/-- A flit of the packet that stands first at an input has failed its parity on the way in (R234, R255). -/
def State.flipped (s : State) (r : CellId) (port : RPort) : State :=
  match headsAt r port [] s.net with
  | p :: _ => { s with net := s.net.replace p { p with parityOk := false } }
  | [] => s

/-- PACKET_FORWARD (R242, R245, R251, R252, R255, R259); `x.flip` says that a bit of the first packet at the input was lost
on the link, a physical event (log entry 60). -/
def execPacketForward (r : CellId) (x : PortInput) (s : State) : Out :=
  let port := x.port
  let s := if x.flip && port != .hub && s.routerOk r then s.flipped r port else s
  if !s.routerOk r then .next s
  else if port = .hub then .next (s.hubEnters r)
  else match s.chosen r port with
    | none => .next s
    | some (p, x) =>
      let t := { s with net := s.net.erase p }
      let t := match hopOut p x with
        | some o => t.served r o p
        | none => t
      let ej : Packet := { p with ejected := true, leg := legHere p }
      match x with
      | .drop reason d => .next (t.meshDrop r reason d p)
      | .eject => .next (t.send ej)
      | .move d => .next (((t.send (movedTo p d)).countFlits r p).seamCrossed r d)
      | .copy => .next (t.send ej)
      | .copyMove d => .next ((((t.send ej).send (movedTo p d)).countFlits r p).seamCrossed r d)
      | .copyDrop d => .next ((t.send ej).meshDrop r 0 d p)
      | .wait => .next s

/-- STITCH_LOCK_ERROR at the receiving side of a crossing (R236, R246). -/
def execStitchLockError (c : CellId) (port : BitVec 2) (s : State) : Out :=
  let d := port.toNat
  if (neighbour c d).isNone || !isStitch c d then .next s
  else
    let s := s.modHub (fieldOf c) fun h => { h with stitcherr := satAdd h.stitcherr 1 }
    .next (s.setLink c d .down)

end Sys2Proof.Machine
end

