-- ==== Sys2Proof/Machine/Issue.lean ====
section
/-! DEFINITION. Fetch, loop end tests, issue, completion and traps of a cell (02, 03). -/

namespace Sys2Proof.Machine

/-! ### Loop end tests (R40 to R43, R67) -/

/-- The end tests of the loops of a list at a word (R41): the cell after them, and the body start of
the first loop that repeats. -/
def Cell.testLoops (addr : PAddr) : List CtrNo → Cell → Cell × Option PAddr
  | [], v => (v, none)
  | k :: l, v =>
    let x := v.loop k
    if x.active && x.stop == addr then
      if 1 < x.count.toNat then (v.setLoop k { x with count := x.count - 1 }, some x.start)
      else
        let v := v.setLoop k { x with count := 0, active := false }
        Cell.testLoops addr l { v with loopOrder := v.loopOrder.filter (· != k) }
    else Cell.testLoops addr l v

/-- Execution leaves a word: the end tests are made, none while a handler runs (R53), and the address
of the next word follows. -/
def Cell.leaveWord (v : Cell) (addr : PAddr) : Cell × PAddr :=
  if v.intrap then (v, addr + 1)
  else
    let (v, t) := Cell.testLoops addr v.loopOrder v
    (v, t.getD (addr + 1))

/-- Execution leaves words in order: the cell after their end tests and the next address. -/
def Cell.leaveWords : List HeldWord → Cell → PAddr → Cell × PAddr
  | [], v, next => (v, next)
  | w :: l, v, _ =>
    let (v, next) := v.leaveWord w.addr
    Cell.leaveWords l v next

/-- The address that the fetch unit fetches next, with every held word's end test made (R43, R69). -/
def Cell.fetchAddr (v : Cell) : PAddr := (Cell.leaveWords v.held v v.pc).2

/-- The held words lie on the path that the loop state gives from the program counter on. -/
def Cell.onPath : List HeldWord → Cell → PAddr → Bool
  | [], _, _ => true
  | w :: l, v, next =>
    if w.addr = next then
      let (v, next) := v.leaveWord w.addr
      Cell.onPath l v next
    else false

/-- An end test of a counter's loop has been made for one of the words (R43). -/
def Cell.tested (k : CtrNo) : List HeldWord → Cell → Bool
  | [], _ => false
  | w :: l, v =>
    let (v', _) := v.leaveWord w.addr
    decide (v'.loop k ≠ v.loop k) || Cell.tested k l v'

/-- The first `n` held words issue: their end tests are made, and the words that follow are discarded
where the loop state no longer leads to them (R40, R43). -/
def Cell.retire (v : Cell) (n : Nat) : Cell :=
  let (v', next) := Cell.leaveWords (v.held.take n) v v.pc
  let rest := v'.held.drop n
  { v' with pc := next, held := if Cell.onPath rest v' next then rest else [] }

/-- A taken branch after `n` words: their end tests are made, and the held words are discarded (R69;
log entry 15). -/
def Cell.branch (v : Cell) (n : Nat) (target : PAddr) : Cell :=
  let (v', _) := Cell.leaveWords (v.held.take n) v v.pc
  { v' with pc := target, held := [] }

/-- A counter's loop becomes inactive (R77). -/
def Cell.endLoop (v : Cell) (k : CtrNo) : Cell :=
  let v := v.setLoop k { v.loop k with active := false }
  { v with loopOrder := v.loopOrder.filter (· != k) }

/-- A change of a counter's loop by an instruction of `n` words: where fetch has made that loop's end
test for a later word, the words that follow are discarded (R43). -/
def Cell.changeLoop (v : Cell) (n : Nat) (k : CtrNo) (f : Cell → Cell) : Cell :=
  let v' := f v
  if Cell.tested k (v.held.drop n) (Cell.leaveWords (v.held.take n) v v.pc).1 then
    { v' with held := v'.held.take n }
  else v'

/-! ### Traps (R51 to R57) -/

/-- CL_TRAP_RAW of a list of words: W0 to W2 and LEN. -/
def rawOf (ws : List Word14) : DWord :=
  let w (i : Nat) : Nat := ((ws.drop i).head?.getD 0).toNat
  BitVec.ofNat 64 (w 0 + w 1 * 2 ^ 14 + w 2 * 2 ^ 28 + ws.length * 2 ^ 42)

/-- Trap entry (R53). -/
def Cell.enterTrap (v : Cell) (cause : Nat) (epc : PAddr) (info : Word) (raw : DWord) : Cell :=
  { v.abandon with
    cause := BitVec.ofNat 32 cause
    epc := epc
    info := info
    raw := raw
    intrap := true
    held := []
    pc := BitVec.ofNat 13 cause }

/-- A cell stops in FAULTED and reports the cause and EPC; its plot faults (R38, R55). -/
def State.cellStops (s : State) (c : CellId) (cause : Nat) (epc : PAddr) (double : Bool) : State :=
  (s.modCell c fun v => { v.abandon with run := .faulted, wait := none, doubleTrap := double }).cellTrapFault c cause
    double epc

/-- A precise trap: entry, or a double trap while a handler runs (R53, R55). -/
def State.precise (s : State) (c : CellId) (cause : Nat) (epc : PAddr) (info : Word) (raw : DWord) : State :=
  let v := s.cell c
  if v.intrap then s.cellStops c cause epc true
  else s.setCell c (v.enterTrap cause epc info raw)

/-- The cell may issue: RUNNING, not stopped by a fault, not locked out, dead or dark, its clock running (R478). -/
def State.canRun (s : State) (c : CellId) : Bool :=
  let v := s.cell c
  v.run == .running && !v.frozen && !v.lockedOut && !v.dead && !(s.hub (fieldOf c)).dark && !(s.hub (fieldOf c)).clkStop

/-- An arithmetic trap waits to be taken at this boundary (R51, R55). -/
def Cell.arithDue (v : Cell) : Bool := v.arith.isSome && !v.intrap

/-- The words of the instruction at the head of the hold, up to the first that failed its parity: W0 to W2 and LEN of a
parity trap count no word beyond it, since nothing says how the words after it would be decoded (DESIGN CHOICE, log
entry 64). -/
def headWords (n : Nat) (l : List HeldWord) : List HeldWord :=
  let ws := l.take n
  let good := ws.takeWhile (·.parityOk)
  ws.take (good.length + 1)

/-- The head of the hold raises a trap of its own before anything issues: BREAK, PMEM_PARITY,
RSV_MAJOR or RSV_SUB, in that order (R52). A pending arithmetic trap comes first (R51). A parity failure is counted
when its word is part of the head instruction, so a failing word that is discarded unissued is not counted (DESIGN
CHOICE, log entry 64). -/
def State.settle (s : State) (c : CellId) : State :=
  let v := s.cell c
  if !s.canRun c || v.arithDue then s
  else match v.held with
    | [] => s
    | w :: _ =>
      let n := match v.head c with
        | some (n, _) => n
        | none => v.held.length
      let ws := headWords n v.held
      let raw := rawOf (ws.map (·.word))
      let broken := ws.any fun x => !x.parityOk
      let complete := (v.head c).isSome || broken
      if complete && v.bkptEn && v.bkptAddr == w.addr && !v.intrap then s.precise c 14 w.addr 0 raw
      else if broken then
        let s := s.modHub (fieldOf c) fun h => { h with pmemErrs := h.pmemErrs + 1 }
        if ws.any fun x => !x.parityOk && x.addr == 12 then s.cellStops c 12 w.addr false
        else s.precise c 12 w.addr 0 raw
      else match v.head c with
        | some (_, .reserved cause) => s.precise c cause w.addr 0 raw
        | _ => s

/-- A sleeping cell wakes, and the words it holds are judged (R38, R46, R52). -/
def State.wakeCell (s : State) (c : CellId) (byEvent : Bool) : State :=
  ((s.rouse (fieldOf c)).modCell c fun v => v.wake byEvent).settle c

/-! ### Fetch -/

/-- The word that a cell's program memory holds, with its parity bit in bit 14 (R33). -/
def State.pmemWord (s : State) (c : CellId) (a : PAddr) : BitVec 15 :=
  (Store.find? s.pmem (c.toNat * 8192 + a.toNat)).getD (Store.get 0 s.pmemAll a.toNat)

/-- Bits set in a word. -/
def popcount (n : Nat) : Nat → Nat
  | 0 => 0
  | k + 1 => (if n.testBit k then 1 else 0) + popcount n k

/-- A word with its parity bit: even parity over the 15 bits (R33; log entry 16). -/
def withParity (w : Word14) : BitVec 15 := BitVec.ofNat 15 (w.toNat + popcount w.toNat 14 % 2 * 2 ^ 14)

/-- The parity of a word matches (R33, R38). -/
def parityGood (x : BitVec 15) : Bool := popcount x.toNat 15 % 2 == 0

/-- FETCH (R69): one word into the hold, while it holds fewer than four. -/
def execFetch (c : CellId) (s : State) : Out :=
  let v := s.cell c
  if !s.canRun c then .next s
  else if 4 ≤ v.held.length then .next (s.settle c)
  else
    let a := v.fetchAddr
    let x := s.pmemWord c a
    let w : HeldWord := ⟨a, BitVec.ofNat 14 x.toNat, parityGood x⟩
    .next ((s.setCell c { v with held := v.held ++ [w] }).settle c)

/-! ### Issue -/

/-- What an instruction does when it comes to issue: it is held, it traps, it takes effect, or it takes
effect and continues at a target. -/
inductive Act where
  | hold
  | trap (cause : Nat) (info : Word)
  /-- a trap after what its cause recorded elsewhere -/
  | trapIn (s : State) (cause : Nat) (info : Word)
  | done (s : State)
  | jump (s : State) (target : PAddr)
  /-- an effect before issue: the instruction stays at the head -/
  | stay (s : State)
  /-- as `jump`, without end tests: TRET (R54) -/
  | leave (s : State) (target : PAddr)

/-- The vector unit executes the instruction (majors 0x6 and 0x7). -/
def isVector : Instr → Bool
  | .vadd .. => true | .vsub .. => true | .vmul .. => true | .vfma .. => true | .vfnma .. => true
  | .vmin .. => true | .vmax .. => true | .vceq .. => true | .vclt .. => true | .vcle .. => true
  | .vand .. => true | .vor .. => true | .vxor .. => true | .twosum .. => true | .twoprod .. => true
  | .vld .. => true | .vst .. => true | .vcvt .. => true | .vbenc .. => true | .vbdec .. => true
  | _ => false

/-- BREAK or PMEM_PARITY stops the instruction of `n` words at the head of the hold (R38, R52). -/
def Cell.headBreaks (v : Cell) (n : Nat) : Bool :=
  (v.held.take n).any (fun w => !w.parityOk) ||
    v.held.head?.any fun w => v.bkptEn && v.bkptAddr == w.addr && !v.intrap

/-- The channel whose packet an instruction leaves open (R205). -/
def pushOf : Instr → Option ChanNo
  | .push _ _ _ o => some o
  | _ => none

/-- An issued instruction is counted (R463), and noted where it is a PUSH (R205). -/
def State.countIssue (s : State) (c : CellId) (i : Instr) : State :=
  let s := s.modCell c fun v => { v with pushed := pushOf i }
  let s := s.count (hubCtr (fieldOf c) 0) 1
  if isVector i then s.count (hubCtr (fieldOf c) 5) 1 else s

/-- Issue of the instruction at the head of a cell's hold (R30 to R32). A command that names another
instruction than the one at the head, or a cell that cannot issue, changes nothing. -/
def State.issue (s : State) (c : CellId) (i : Instr) (act : State → Cell → PAddr → Nat → Act) : State :=
  let v := s.cell c
  if !s.canRun c || v.arithDue then s
  else match v.held, v.head c with
    | w :: _, some (n, .instr j) =>
      if v.headBreaks n then s.settle c
      else if j ≠ i || !v.sourcesReady (regUse i) then s
      else
        let ok := v.destsFree (regUse i)
        match act s v w.addr n with
        | .hold => s
        | .trap cause info => s.precise c cause w.addr info (rawOf ((v.held.take n).map (·.word)))
        | .trapIn t cause info => t.precise c cause w.addr info (rawOf ((v.held.take n).map (·.word)))
        | .done t => if ok then ((t.modCell c fun v => v.retire n).settle c).countIssue c i else s
        | .jump t a => if ok then (t.modCell c fun v => v.branch n a).countIssue c i else s
        | .stay t => if ok then t else s
        | .leave t a => if ok then (t.modCell c fun v => { v with pc := a, held := [] }).countIssue c i else s
    | _, _ => s

/-- A result is handed to a unit; it is written when the unit completes it (R31). -/
def Cell.push (v : Cell) (r : Result) : Cell := { v with results := v.results ++ [r] }

/-- An instruction whose only effect is a result. -/
def withResult (c : CellId) (f : Cell → PAddr → Result) (s : State) (v : Cell) (a : PAddr) (_ : Nat) : Act :=
  .done (s.setCell c (v.push (f v a)))

/-! ### Completion (R31, R50, R51) -/

/-- Flags that an instruction at an address sets: they join CL_AFLAGS, and an enabled one arms the arithmetic trap
(R50, R51). A flag raised again while it is set arms the trap too, and CL_TRAP_INFO keeps the address of the
instruction that armed it first (both DESIGN CHOICE, log entry 65). -/
def Cell.raiseFlags (v : Cell) (flags : AFlags) (addr : PAddr) : Cell :=
  { v with
    aflags := v.aflags ||| flags
    arith := if flags &&& v.aftrap ≠ 0 && v.arith.isNone then some addr else v.arith }

/-- A result is written. -/
def Cell.complete (v : Cell) (r : Result) : Cell :=
  let v := match r.sdst with
    | some (d, x) => v.setS d x
    | none => v
  let v := r.vdst.foldl (fun v d => v.setV d.1 d.2) v
  let f := v.cond
  let f := match r.zn with
    | some (z, n) => { f with z := z, n := n }
    | none => f
  let f := { f with c := r.c.getD f.c, v := r.v.getD f.v }
  { v with cond := f, blcount := satAdd v.blcount r.lost }.raiseFlags r.flags r.addr

/-- The first result of a unit and the others. -/
def takeResult (u : ExecUnit) : List Result → Option (Result × List Result)
  | [] => none
  | r :: l =>
    if r.unit = u then some (r, l)
    else (takeResult u l).map fun (x, l') => (x, r :: l')

/-- UNIT_COMPLETION: the unit writes the result of its oldest instruction (R31). -/
def execUnitCompletion (c : CellId) (u : ExecUnit) (s : State) : Out :=
  let v := s.cell c
  match takeResult u v.results with
  | none => .next s
  | some (r, l) => .next ((s.setCell c ({ v with results := l }.complete r)).settle c)

/-- ARITH_TRAP: the pending trap is taken at an instruction boundary (R51); held while a handler runs
(R55), not taken by a cell that sleeps (R57). A staging at the head is abandoned (R142, log entry 34). -/
def execArithTrap (c : CellId) (s : State) : Out :=
  let v := s.cell c
  match v.arith with
  | some a =>
    if s.canRun c && !v.intrap then
      .next (s.setCell c ({ v with arith := none }.enterTrap 11 v.pc (a.setWidth 32) 0))
    else .next s
  | none => .next s

end Sys2Proof.Machine
end

