-- ==== Sys2Proof/Machine/CellQueue.lean ====
section
/-! DEFINITION. Queue and token instructions of a cell, and the streams and credits that reach it (07). -/

namespace Sys2Proof.Machine

/-! ### Instructions (R82, R94, R198, R209, R210) -/

/-- A queue that the width names (R198). -/
def Queue.usable (q : Queue) (vec : Bool) : Bool := q.en && q.vec == vec

/-- The actions of a removed token: the flag is set, and then the counter's loop ends (R210). -/
def tokenActions (c : CellId) (q : Queue) (f : SFlit) (n : Nat) (s : State) : State :=
  if isToken f then
    let k := tokKind f
    let s := match q.tokFlag k with
      | some e => s.modCell c fun v => v.setFlag e
      | none => s
    match q.tokCtr k with
    | some k => s.modCell c fun v => v.changeLoop n k fun v => v.endLoop k
    | none => s
  else s

/-- The head element leaves the queue: its slots are freed, and a token acts (R206, R210). -/
def removeHead (c : CellId) (qn : QueueNo) (e : List SFlit) (n : Nat) (s : State) : State :=
  let v := s.cell c
  let q := v.queue qn
  let s := s.setCell c (v.setQueue qn { q with buf := q.buf.drop e.length, freed := q.freed + e.length })
  let s := match e with
    | f :: _ => tokenActions c q f n s
    | [] => s
  s.progress v.owner

/-- The value that POP and PEEK take from a head: data, or the token word, in every lane of a vector
(R209). -/
def headResult (vec : Bool) (r : BitVec 4) (p : PAddr) (e : List SFlit) : Result :=
  match e with
  | [] => { unit := .scalar, addr := p }
  | f :: l =>
    let tok := isToken f
    let w : Word := if tok then tokenWord f else f.data.setWidth 32
    if vec then
      let x : Vec512 := if tok then BitVec.ofNat 512 (((List.range 16).map fun i => w.toNat * 2 ^ (32 * i)).sum)
        else vectorOf f (l.head?.getD f)
      { unit := .vector, addr := p, vdst := [(qvreg r, x)], c := some tok }
    else { unit := .scalar, addr := p, sdst := some (r, w), c := some tok }

/-- POP and PEEK (R198, R201, R209). -/
def takeAct (remove : Bool) (c : CellId) (vec : Bool) (r : BitVec 4) (qn : QueueNo)
    (s : State) (v : Cell) (p : PAddr) (n : Nat) : Act :=
  let q := v.queue qn
  if !q.usable vec then .trap 8 0
  else match headElem q.buf with
    | none => .hold
    | some e =>
      let s := s.setCell c (v.push (headResult vec r p e))
      .done (if remove then removeHead c qn e n s else s)

/-- POP. -/
def execPop (c : CellId) (vec : Bool) (r : BitVec 4) (q : QueueNo) (s : State) : Out :=
  .next (s.issue c (.pop c vec r q) (takeAct true c vec r q))

/-- PEEK. -/
def execPeek (c : CellId) (vec : Bool) (r : BitVec 4) (q : QueueNo) (s : State) : Out :=
  .next (s.issue c (.peek c vec r q) (takeAct false c vec r q))

/-- DROP: either width (R198). -/
def execDrop (c : CellId) (qn : QueueNo) (s : State) : Out :=
  .next (s.issue c (.drop c qn) fun s v _ n =>
    let q := v.queue qn
    if !q.en then .trap 8 0
    else match headElem q.buf with
      | none => .hold
      | some e => .done (removeHead c qn e n s))

/-- TTEST (R95, R198). -/
def execTtest (c : CellId) (d : SReg) (qn : QueueNo) (s : State) : Out :=
  .next (s.issue c (.ttest c d qn) fun s v p _ =>
    let q := v.queue qn
    if !q.en then .trap 8 0
    else match headElem q.buf with
      | some (f :: _) =>
        .done (s.setCell c (v.push { unit := .scalar, addr := p, sdst := some (d, BitVec.ofNat 32 (classCode f)) }))
      | _ => .hold)

/-- Flits leave on a channel that holds their credits (R204). -/
def sendAct (c : CellId) (on : ChanNo) (flits : List SFlit) (s : State) (v : Cell) : Act :=
  let o := v.chan on
  if o.credits < flits.length || o.stopped then .hold
  else
    let s := s.setCell c (v.setChan on { o with credits := o.credits - flits.length })
    .done ((s.sendFlits c on flits).progress v.owner)

/-- PUSH (R198, R204). -/
def execPush (c : CellId) (vec : Bool) (r : BitVec 4) (on : ChanNo) (s : State) : Out :=
  .next (s.issue c (.push c vec r on) fun s v _ _ =>
    let o := v.chan on
    if !(o.en && o.vec == vec) then .trap 8 0
    else sendAct c on (if vec then vectorFlits v.season (v.v (qvreg r)) else scalarFlits v.season (v.s r)) s v)

/-- TPUSH (R94, R198, R208). -/
def execTpush (c : CellId) (on : ChanNo) (kind : BitVec 2) (code : BitVec 4) (s : State) : Out :=
  .next (s.issue c (.tpush c on kind code) fun s v _ _ =>
    if !(v.chan on).en then .trap 8 0
    else sendAct c on [tokenFlit v.season kind.toNat code.toNat] s v)

/-! ### Arrivals (R197 to R213, R260) -/

/-- The producer of a queue: the cell and channel that feed it (R199). -/
def State.producer (s : State) (c : CellId) (qn : QueueNo) : Option (CellId × ChanNo) :=
  s.cells.findSome? fun e =>
    let d : CellId := BitVec.ofNat 19 e.1
    (List.range 4).findSome? fun n =>
      let on : ChanNo := BitVec.ofNat 2 n
      let o := e.2.chan on
      if o.en && o.dqueue == qn && (s.feeds d o).contains c then some (d, on) else none

/-- A stale flit is counted by the receiving plot, with the STALE event and the cell's stale flag
(R212). -/
def State.staleFlit (s : State) (c : CellId) : State :=
  let v := s.cell c
  let s := s.count (hubCtr (fieldOf c) 15) 1
  let s := if v.owner.toNat < 96 then
      (s.modPlot v.owner fun p => if p.state = .empty then p else { p with stale := satAdd p.stale 1 })
    else s
  let s := if v.owner.toNat < 96 && (s.plot v.owner).state != .empty then s.plotEvent v.owner 4 else s
  match v.stale with
  | some k => s.cellEvent c k
  | none => s

/-- Flits, copies or events of a plot dropped at a destination out of service (R260). -/
def State.fenceDrops (s : State) (p : PlotId) (n : Nat) : State :=
  if p.toNat < 96 && (s.plot p).state != .empty then
    s.modPlot p fun q => { q with fenceDrop := satAdd q.fenceDrop n }
  else s

/-- A freed-slot packet from a queue's interface to a cell (R206); a locked-out cell's interface sends it too (R260). -/
def State.sendCredit (s : State) (c dst : CellId) (n : Nat) (season : Season) (on : ChanNo) (ack : Bool)
    (plot : PlotId) : State :=
  s.niSend c (.unicast (.cell dst)) none (.credit (BitVec.ofNat 13 n) season on ack plot)

/-- Where the freed slots of a queue go: the producer of a unicast channel, or the upstream neighbour
in a multicast span, with whether no farther destination of the span has its queue enabled (R206, R207, R533). -/
def State.upstream (s : State) (c : CellId) (qn : QueueNo) : Option (CellId × CellId × ChanNo × Bool × Bool) :=
  (s.producer c qn).map fun (d, on) =>
    let o := (s.cell d).chan on
    if o.destKind = 2 then
      let i := (s.feeds d o).idxOf c
      (if i = 0 then d else stepDir d o.dir (i - 1), d, on, true,
        ((s.feeds d o).drop (i + 1)).all fun x => !((s.cell x).queue qn).en)
    else (d, d, on, false, true)

/-- A queue as it owes credits: one of a locked-out cell drops the flits that it holds, so that no sender stays held on
them (R260; log entry 13). -/
def Cell.owing (v : Cell) (qn : QueueNo) : Queue :=
  let q := v.queue qn
  if v.lockedOut then { q.emptied with freed := q.freed + q.held } else q

/-- Credits that a queue in a span passes upstream, short of its end: one for each pair of one from downstream and one
freed slot, and those from downstream unchanged where its cell is locked out (R207, R260). -/
def Cell.passes (v : Cell) (q : Queue) : Nat := if v.lockedOut then q.down else min q.down q.freed

/-- The freed slots of a queue are sent as one credit packet (R206, R207); a queue that retains its
credits sends none (R224, R230). The sender's own queue in a span passes them to the channel. -/
def State.returnCredits (s : State) (c : CellId) (qn : QueueNo) : State :=
  let v := s.cell c
  let q := v.owing qn
  match s.upstream c qn with
  | none => s
  | some (up, d, on, multi, last) =>
    let n := if multi && !last then v.passes q else q.freed
    if q.retained || q.dryHeld || n = 0 then s
    else
      let q' := { q with freed := q.freed - n, down := if multi && !last then q.down - n else q.down }
      let s := s.setCell c (v.setQueue qn q')
      if multi && c = d then
        s.modCell d fun v => v.setChan on { v.chan on with credits := (v.chan on).credits + n }
      else s.sendCredit c up n q.season on false (s.cell d).owner

/-- CREDIT_RETURN (R206). -/
def execCreditReturn (c : CellId) (q : QueueNo) (s : State) : Out := .next (s.returnCredits c q)

/-- Flits move from the ring into the buffer while it has room; an uncorrectable word faults the plot
(R167, R178). -/
def State.refill (s : State) (c : CellId) (qn : QueueNo) : Nat → State
  | 0 => s
  | fuel + 1 =>
    let q := (s.cell c).queue qn
    if 16 ≤ q.buf.length || q.ringLen = 0 then s
    else match s.ringPop c qn with
      | (s, some f) =>
        (s.modCell c fun v => v.setQueue qn { v.queue qn with buf := (v.queue qn).buf ++ [f] }).refill c qn fuel
      | (s, none) =>
        s.fault 6 c.toNat (leBytes 8 (s.hub (fieldOf c)).uelog.toNat) 0 (s.plotOfCell c)

/-- One flit of a stream reaches its queue (R197, R199, R212, R223). -/
def State.flitArrives (s : State) (c src : CellId) (qn : QueueNo) (on : ChanNo) (splot : PlotId) (f : SFlit) : State :=
  let q := (s.cell c).queue qn
  if f.cls = 4 then
    let s := (s.returnCredits c qn).sendCredit c src 0 q.season on true splot
    -- from the acknowledgement on, credits owed to a channel of a scanned plot are retained (R224)
    if ((s.plot splot).scanning || (s.plot splot).scanCut) && (s.cell c).owner != splot then
      s.modCell c fun v => v.setQueue qn { v.queue qn with retained := true }
    else s
  else if 5 ≤ f.cls.toNat || !q.en || f.season ≠ q.season then s.staleFlit c
  else if q.refillDue then (s.refill c qn 1).storeFlit c qn f
  else s.storeFlit c qn f

/-- Flits of a list that the queue would store. -/
def storable (q : Queue) (l : List SFlit) : Nat :=
  (l.filter fun f => decide (f.cls.toNat < 4) && q.en && f.season == q.season).length

/-- The credits of stream flits dropped at a locked-out cell: to the sender of a unicast, and to the neighbour upstream at
the end of a span; a marker took none. They carry the flits' own season (R207, R260; log entry 13). -/
def State.creditsBack (s : State) (c src : CellId) (qn : QueueNo) (on : ChanNo) (splot : PlotId) (flits : List SFlit) :
    State :=
  let n := (flits.filter fun f => decide (f.cls.toNat < 4)).length
  let season := (flits.head?.map (·.season)).getD 0
  if n = 0 then s
  else if ((s.cell src).chan on).destKind = 2 then
    match s.upstream c qn with
    | some (up, d, on', true, true) =>
      if c = d then s.modCell d fun v => v.setChan on' { v.chan on' with credits := (v.chan on').credits + n }
      else s.sendCredit c up n season on' false splot
    | _ => s
  else s.sendCredit c src n season on false splot

/-- STREAM: a stream packet reaches a queue (R199, R211, R212, R260). While the queue lacks room for
its flits, the packet waits in the mesh. -/
def execStream (c src : CellId) (qn : QueueNo) (dplot : PlotId) (on : ChanNo) (splot : PlotId)
    (flits : List SFlit) (s : State) : Out :=
  let v := s.cell c
  let q := v.queue qn
  let body := Body.stream qn dplot on splot flits
  let t (p : Packet) : Bool := p.src == .cell src && p.body == body && (isFor p (.cell c) || (p.ejected && p.pos == c))
  let gone := s.arrived t
  if s.notYet t then .next s
  else if v.lockedOut then .next ((gone.fenceDrops splot flits.length).creditsBack c src qn on splot flits)
  else if s.isHole c then .next (gone.fenceDrops splot flits.length)
  else if q.capacity < q.held + storable q flits then .next s
  else .next (flits.foldl (fun s f => s.flitArrives c src qn on splot f) gone)

/-- CREDIT: a credit packet reaches a channel (R206, R213), an upstream queue of a multicast span
(R207), or acknowledges a marker (R223). -/
def execCredit (c : CellId) (count : BitVec 13) (season : Season) (on : ChanNo) (ack : Bool) (plot : PlotId)
    (src : CellId) (qn : QueueNo) (s : State) : Out :=
  s.takes (fun p => p.src == .cell src && p.body == .credit count season on ack plot && isFor p (.cell c)) fun s =>
  let v := s.cell c
  let o := v.chan on
  let pass (s : State) : State :=
    match s.upstream c qn with
    | some (up, d, on', _, _) =>
      if c = d then s.modCell d fun v => v.setChan on' { v.chan on' with credits := (v.chan on').credits + count.toNat }
      else s.sendCredit c up count.toNat season on' false plot
    | none => s
  if ack then .next (s.setCell c (v.setChan on { o with markers := o.markers - 1 }))
  else if season ≠ v.season then .next s
  else match s.producer src qn with
    | some (d, _) =>
      if ((s.cell d).chan on).destKind = 2 then
        -- a span: the credit has come from the neighbour downstream
        if v.lockedOut || !(v.queue qn).en then .next (pass s)
        else
          let q := v.queue qn
          let s := s.setCell c (v.setQueue qn { q with down := q.down + count.toNat })
          .next (if c = d then s.returnCredits c qn else s)
      else .next (s.setCell c (v.setChan on { o with credits := o.credits + count.toNat }))
    | none => .next (s.setCell c (v.setChan on { o with credits := o.credits + count.toNat }))

/-- SPILL_REFILL (R178). -/
def execSpillRefill (c : CellId) (q : QueueNo) (s : State) : Out := .next (s.refill c q 16)

end Sys2Proof.Machine
end

