-- ==== Sys2Proof/Machine/Sync.lean ====
section
/-! DEFINITION. The latch and gate units of the field hubs (09): operations on latches, arrivals and
completions of gates, gate faults, tally boundaries and the trigger of threshing steps. -/

namespace Sys2Proof.Machine

def Hub.latch (h : Hub) (i : Nat) : Latch := Store.get {} h.latches i
def Hub.setLatch (h : Hub) (i : Nat) (x : Latch) : Hub := { h with latches := Store.set {} h.latches i x }
def Hub.gate (h : Hub) (i : Nat) : Gate := Store.get {} h.gates i
def Hub.setGate (h : Hub) (i : Nat) (x : Gate) : Hub := { h with gates := Store.set {} h.gates i x }

def State.gate (s : State) (g : GateId) : Gate := (s.hub (gateField g)).gate (gateIndex g)
def State.setGate (s : State) (g : GateId) (x : Gate) : State :=
  s.modHub (gateField g) fun h => h.setGate (gateIndex g) x

/-- The latch or gate of an ID of a field. -/
def latchOf (f : FieldNo) (i : Nat) : LatchId := BitVec.ofNat 17 (f.toNat * 2048 + i)
def gateOf (f : FieldNo) (i : Nat) : GateId := BitVec.ofNat 12 (f.toNat * 64 + i)

/-! ### Latches (R266, R267) -/

/-- An answer of a latch unit to a cell. -/
def State.latchAnswer (s : State) (l : LatchId) (c : CellId) (op : LatchOp) (old : Bool) (ctag : BitVec 3) : State :=
  s.hubSend (latchField l) 8 (.cell c) (.latchOp op l old false none ctag)

/-- SET of a latch (R266): the waiters are deregistered and woken in order of registration. -/
def State.latchSet (s : State) (l : LatchId) : State :=
  let f := latchField l
  let i := latchIndex l
  let h := s.hub f
  let x := h.latch i
  if x.val then s
  else
    let ws := h.waiters.filter fun w => w.latch.toNat == i
    let h := { h.setLatch i { x with val := true } with waiters := h.waiters.filter fun w => w.latch.toNat != i }
    ws.foldl (fun s w => s.latchAnswer l w.cell .wake false 0) (s.setHub f h)

/-- CLR of a latch (R266). -/
def State.latchClr (s : State) (l : LatchId) : State :=
  s.modHub (latchField l) fun h =>
    h.setLatch (latchIndex l) { h.latch (latchIndex l) with val := false }

/-- An operation other than SET on an entry latch is counted (R274). -/
def State.misuse (s : State) (f : FieldNo) : State := s.modHub f fun h => { h with misuse := satAdd h.misuse 1 }

/-- An arrival that matches no enabled slot is counted (R274). -/
def State.stranger (s : State) (f : FieldNo) : State :=
  s.modHub f fun h => { h with stranger := satAdd h.stranger 1 }

/-- A latch operation is counted (R463). -/
def State.countLatch (s : State) (l : LatchId) : State := s.count (hubCtr (latchField l) 11) 1

/-- The hub serves: it is powered, not dark, and the latch or gate ID is valid. -/
def State.hubServes (s : State) (f : FieldNo) : Bool := f.toNat < 48 && !(s.hub f).dark

/-! ### Gates (R272 to R280) -/

/-- Fields of a gate's registers. -/
def Gate.entry (g : Gate) : Nat := bits g.latch 26 16
def Gate.doneq (g : Gate) : Nat := bits g.latch 8 0
def Gate.owner (g : Gate) : PlotId := BitVec.ofNat 7 (bits g.ctrl 25 19)
def Gate.slot (g : Gate) (i : Nat) : Word := Store.get 0 g.slots i
def bindKind (b : Word) : Nat := bits b 31 30
def bindCell (b : Word) : CellId := BitVec.ofNat 19 (bits b 18 0)
def bindGate (b : Word) : GateId := BitVec.ofNat 12 (bits b 11 0)
def bindMill (b : Word) : MillNo := BitVec.ofNat 5 (bits b 28 24)
def bindWafer (b : Word) : WaferId := BitVec.ofNat 12 (bits b 23 12)

/-- FH_GATE_FAULT. -/
def Gate.faultReg (g : Gate) : Word :=
  BitVec.ofNat 32 (g.late.toNat * 2 ^ 24 + g.cause.toNat * 2 ^ 16 + g.fround.toNat * 2 ^ 8 +
    (if g.fparent then 128 else 0) + g.fslot.toNat)

def GateState.code : GateState → Nat
  | .disabled => 0
  | .opened => 1
  | .up => 2
  | .faulted => 3

/-- FH_GATE_STATE. -/
def Gate.stateReg (g : Gate) : Word :=
  BitVec.ofNat 32 (popcount' 128 g.nxt * 2 ^ 24 + popcount' 128 g.arr * 2 ^ 16 + g.cur.toNat * 16 + g.state.code)
where
  popcount' (n : Nat) (x : BitVec 128) : Nat := ((List.range n).filter fun i => x.getLsbD i).length

/-- Microseconds that the timeout of a gate has counted: none while EN is 0, and as a fault left them (R279, R283). -/
def Gate.counted (x : Gate) (tick : Nat) : Nat :=
  if !x.timeout.msb then 0
  else match x.since with
    | some t => (tick - t) / 100
    | none => x.count

/-- The slots of a gate whose mask bit is 1. -/
def Gate.enabledSlots (g : Gate) : List Nat := (List.range 128).filter fun i => g.mask.getLsbD i

/-- The plots that a gate fault names: the owner, or for a job-owned gate every plot that owns a cell
bound in the mask (R280). -/
def State.gatePlots (s : State) (g : Gate) : List PlotId :=
  if g.owner.toNat < 96 then [g.owner]
  else
    let cells := g.enabledSlots.filterMap fun i =>
      if bindKind (g.slot i) = 1 then some (bindCell (g.slot i)) else none
    s.plotsWith fun p => cells.any fun c => p.covers c

/-- A gate fault (R280): causes 2 OVERRUN, 3 ROUND, 4 TIMEOUT. -/
def State.gateFault (s : State) (g : GateId) (cause : BitVec 3) (parent : Bool) (slot : Nat) : State :=
  let x := s.gate g
  let x := { x with state := .faulted, count := x.counted s.tick, cause := cause, fround := x.cur, fparent := parent,
                    fslot := if parent then 0 else BitVec.ofNat 7 slot, since := none }
  (s.setGate g x).fault 3 g.toNat (leBytes 4 x.faultReg.toNat ++ leBytes 16 x.arr.toNat) 0 (s.gatePlots x)

/-- A gate operation to a binding of kind GATE or MILL (R276): to another gate unit, or to the mill
that the binding names. -/
def State.gateSend (s : State) (g : GateId) (b : Word) (complete : Bool) (round : BitVec 2) : State :=
  match bindKind b with
  | 2 => s.unitSend (gateField g) 9 (gateField (bindGate b)) 9 (.gateOp complete (bindGate b) round g none)
  | 3 => s.unitSend (gateField g) 9 (millField (bindMill b)) (millUnit (bindMill b))
      (.gateOp complete (bindGate b) round g (some (bindWafer b)))
  | _ => s

/-- A tally boundary arises: it names the tick 100 ticks later, or merges into one that waits (R284). -/
def State.boundary (s : State) : State :=
  match s.tally.due with
  | some _ => { s with tally := { s.tally with skip := satAdd s.tally.skip 1 } }
  | none => { s with tally := { s.tally with due := some (s.tick + 100) } }

/-- A threshing status record (R365). -/
def thrRecord (step status cause attempts : Nat) (loc : Option ThrFail) (refused losses nv of_ fl tick : Nat) : List Byte :=
  let (i, w, m, l) := match loc with
    | some x => (x.input.toNat, x.wafer.toNat, x.mill.toNat, x.level.toNat)
    | none => (0, 0, 0, 0)
  leBytes 4 step ++ leBytes 1 status ++ leBytes 1 cause ++ leBytes 1 attempts ++ leBytes 1 i ++ leBytes 2 w ++
    leBytes 1 m ++ leBytes 1 l ++ leBytes 4 refused ++ leBytes 4 losses ++
    leBytes 4 (min nv 65535 + min of_ 255 * 2 ^ 16 + min fl 255 * 2 ^ 24) ++ leBytes 8 tick

/-- The THRESH notice of a group (R365, R413). -/
def State.thrNotice (s : State) (group : Nat) (rec_ : List Byte) : State :=
  s.notice 3 48 (padBytes (leBytes 1 group) 16 ++ rec_)

/-- ML_THR_FAULT records the first failure while the log is armed. -/
def Mill.thrLog (m : Mill) (f : ThrFail) (tensor offset : Nat) : Mill :=
  if m.thrFault.msb then m
  else { m with thrFault := BitVec.ofNat 64 (2 ^ 63 + f.cause.toNat * 2 ^ 59 + f.input.toNat * 2 ^ 55 +
    f.level.toNat * 2 ^ 51 + tensor * 2 ^ 30 + offset) }

/-- The engine's state between steps: FAULTED while a group is (R347). -/
def Mill.thrRest (v : Mill) : ThrState := if v.thrGroups.any (·.faulted) then .faulted else .idle

/-- A completion of a trigger gate counts for a group; a qualifying one starts a wait, or is a TRIGOVF
failure where one waits already (R347). -/
def State.trigger (s : State) (m : MillNo) (g : GateId) : State :=
  let v := s.mill m
  let hit (x : ThrGroup) : Bool := x.trigger == g && !x.faulted
  let due (x : ThrGroup) : Bool := hit x && (x.count + 1) % x.stride == 0
  let excess := v.thrGroups.filter fun x => due x && x.waiting
  let fail : ThrFail := ⟨9, s.wafer, m, 0, 0⟩
  let next (x : ThrGroup) : ThrGroup :=
    if due x then
      (if x.waiting then { x with count := x.count + 1, faulted := true, waiting := false }
       else { x with count := x.count + 1, waiting := true })
    else if hit x then { x with count := x.count + 1 }
    else x
  let v := { v with thrGroups := v.thrGroups.map next }
  let v := if excess.isEmpty then v
    else { v.thrLog fail 0 0 with thrState := if v.run.isNone then v.thrRest else v.thrState }
  excess.foldl (fun s x => s.thrNotice x.id (thrRecord x.steps 2 9 0 (some fail) 0 0 0 0 0 s.tick)) (s.setMill m v)

/-- A gate has completed: the tally boundary of R276 step 5, and the steps that it triggers (R347). -/
def State.gateCompleted (s : State) (g : GateId) : State :=
  let s := s.count (hubCtr (gateField g) 12) 1
  let s := if bits s.tally.cfg 63 62 = 1 && bits s.tally.cfg 43 32 == g.toNat then s.boundary else s
  (s.mills.filter fun e => e.2.thrGroups.any fun x => x.trigger == g).foldl
    (fun s e => s.trigger (BitVec.ofNat 5 e.1) g) s

/-- Completion of the current round (R276). -/
def State.gateComplete (s : State) (g : GateId) : State :=
  let f := gateField g
  let x := s.gate g
  let r := x.cur
  let x' := { x with cur := r + 1, arr := x.nxt, nxt := 0, state := .opened, first := x.nfirst, nfirst := 0, count := 0,
                     since := if x.nxt = 0 then none else some s.tick }
  let s := s.setGate g x'
  let s := s.latchSet (latchOf f (4 * x.doneq + r.toNat))
  let s := s.latchClr (latchOf f (4 * x.doneq + (r + 2).toNat))
  let s := (List.range 128).foldl (fun s i => s.gateSend g (x.slot i) true r) s
  let s := if x.ctrl.getLsbD 30 then
      (List.range 128).foldl (fun s i =>
        if bindKind (x.slot i) = 1 then
          s.hubSend f 9 (.cell (bindCell (x.slot i))) (.event (BitVec.ofNat 4 (bits x.ctrl 29 26)))
        else s) s
    else s
  s.gateCompleted g

/-- The completion test of R275, made again after each completion (R276). -/
def State.gateTest (s : State) (g : GateId) : Nat → State
  | 0 => s
  | fuel + 1 =>
    let x := s.gate g
    if x.state = .opened && x.arr == x.mask then
      if bindKind x.parent = 0 then (s.gateComplete g).gateTest g fuel
      else (s.setGate g { x with state := .up }).gateSend g x.parent false x.cur
    else s

/-- An arrival from a slot of a gate that is OPEN or UP (R275). -/
def State.gateArrival (s : State) (g : GateId) (i : Nat) : State :=
  let x := s.gate g
  if !x.arr.getLsbD i then
    let x := { x with
      arr := x.arr ||| BitVec.ofNat 128 (2 ^ i)
      first := if x.arr = 0 then s.tick64 else x.first
      since := if x.since.isNone then some s.tick else x.since }
    (s.setGate g x).gateTest g 2
  else if !x.nxt.getLsbD i then
    s.setGate g { x with nxt := x.nxt ||| BitVec.ofNat 128 (2 ^ i),
                         nfirst := if x.nxt = 0 then s.tick64 else x.nfirst }
  else s.gateFault g 2 false i

/-- An arrival at a gate, from the enabled slot that passes a test, with the round of an ARRIVE (R274,
R277, R280). -/
def State.arrival (s : State) (g : GateId) (round : Option (BitVec 2)) (t : Word → Bool) : State :=
  let x := s.gate g
  match x.enabledSlots.find? fun i => t (x.slot i) with
  | none => s.stranger (gateField g)
  | some i =>
    match x.state with
    | .disabled => s.stranger (gateField g)
    | .faulted => s.setGate g { x with late := satAdd x.late 1 }
    | _ =>
      if round.any fun r => r != x.cur then s.gateFault g 3 false i else s.gateArrival g i

/-! ### LATCH_OP at a latch unit (R263 to R268, R274) -/

/-- The sender of an operation as an endpoint test. -/
def isFrom (p : Packet) : OpSource → Bool
  | .cell c => p.src == .cell c
  | .hub f u => match p.src with
    | .hub f' u' _ => f == f' && u == u'
    | _ => false
  | .remote _ => match p.src with
    | .hub _ _ _ => true
    | _ => false

/-- A LATCH_OP of an operation and latch from a source, bound for the latch unit. -/
def latchReq (op : LatchOp) (l : LatchId) (src : OpSource) (p : Packet) : Bool :=
  isFor p (.hub (latchField l) 8 0) && isFrom p src && match p.body with
    | .latchOp o l' _ _ _ _ => o == op && l' == l
    | _ => false

/-- LATCH_OP SET (R266); on an entry latch, the arrival of a cell (R274). -/
def execLatchOpSet (l : LatchId) (src : OpSource) (s : State) : Out :=
  let f := latchField l
  if !s.hubServes f then .next s
  else s.takes (latchReq .set l src) fun s =>
    let s := s.countLatch l
    match ((s.hub f).latch (latchIndex l)).entry with
    | some g => match src with
      | .cell c => .next (s.arrival (gateOf f g.toNat) none fun b => bindKind b == 1 && bindCell b == c)
      | _ => .next (s.stranger f)
    | none => .next (s.latchSet l)

/-- LATCH_OP CLR (R266, R274). -/
def execLatchOpClr (l : LatchId) (src : OpSource) (s : State) : Out :=
  let f := latchField l
  if !s.hubServes f then .next s
  else s.takes (latchReq .clr l src) fun s =>
    let s := s.countLatch l
    if ((s.hub f).latch (latchIndex l)).entry.isSome then .next (s.misuse f) else .next (s.latchClr l)

/-- LATCH_OP CLAIM (R264, R266, R274). -/
def execLatchOpClaim (l : LatchId) (c : CellId) (ctag : BitVec 3) (s : State) : Out :=
  let f := latchField l
  if !s.hubServes f then .next s
  else s.takes (latchReq .claim l (.cell c)) fun s =>
    let s := s.countLatch l
    let x := (s.hub f).latch (latchIndex l)
    if x.entry.isSome then .next ((s.misuse f).latchAnswer l c .claimresp false ctag)
    else .next ((s.latchClr l).latchAnswer l c .claimresp x.val ctag)

/-- LATCH_OP WAITREG (R45, R267, R268, R274). -/
def execWaitreg (l : LatchId) (c : CellId) (deadline : Bool) (s : State) : Out :=
  let f := latchField l
  if !s.hubServes f then .next s
  else s.takes (latchReq .waitreg l (.cell c)) fun s =>
    let s := s.countLatch l
    let h := s.hub f
    let x := h.latch (latchIndex l)
    if x.entry.isSome then .next ((s.misuse f).latchAnswer l c .wake false 0)
    else if x.val then .next (s.latchAnswer l c .wake false 0)
    else if 8192 ≤ h.waiters.length then
      .next ((s.setHub f { h with fullcnt := satAdd h.fullcnt 1 }).latchAnswer l c .waitfull false 0)
    else
      let w : Waiter := ⟨BitVec.ofNat 11 (latchIndex l), c, deadline⟩
      .next (s.setHub f { h with waiters := h.waiters.filter (fun w => w.cell != c) ++ [w] })

/-- LATCH_OP WAITDEREG (R263). -/
def execWaitdereg (l : LatchId) (c : CellId) (s : State) : Out :=
  let f := latchField l
  if !s.hubServes f then .next s
  else s.takes (latchReq .waitdereg l (.cell c)) fun s =>
    let s := s.countLatch l
    .next (s.modHub f fun h =>
      { h with waiters := h.waiters.filter fun w => !(w.cell == c && w.latch.toNat == latchIndex l) })

/-! ### GATE_OP at a gate unit (R274 to R277) -/

/-- A GATE_OP bound for a gate. -/
def gateReq (complete : Bool) (g : GateId) (round : BitVec 2) (sender : Option GateId) (p : Packet) : Bool :=
  isFor p (.hub (gateField g) 9 0) && match p.body with
    | .gateOp k g' r x _ => k == complete && g' == g && r == round && (sender.all fun y => y == x)
    | _ => false

/-- ARRIVE (R274, R275, R277). -/
def execArrive (g : GateId) (src : ArriveSource) (round : BitVec 2) (s : State) : Out :=
  if !s.hubServes (gateField g) then .next s
  else match src with
    | .gate x =>
      s.takes (gateReq false g round (some x)) fun s => .next (s.arrival g (some round) fun b =>
        bindKind b == 2 && bindGate b == x)
    | .mill w x =>
      s.takes (gateReq false g round (some x)) fun s => .next (s.arrival g (some round) fun b =>
        bindKind b == 3 && bindWafer b == w && bindGate b == x)

/-- COMPLETE from the parent; at a gate that is not UP it is a ROUND fault (R276, R277). -/
def execComplete (g : GateId) (round : BitVec 2) (s : State) : Out :=
  if !s.hubServes (gateField g) then .next s
  else s.takes (gateReq true g round none) fun s =>
    let x := s.gate g
    match x.state with
    | .up => if round = x.cur then .next ((s.gateComplete g).gateTest g 2) else .next (s.gateFault g 3 true 0)
    -- a gate that has faulted records nothing further (R273)
    | .faulted => .next s
    | _ => .next (s.gateFault g 3 true 0)

/-- GATE_TIMEOUT: the count of a gate has reached its PERIOD (R279, R280). -/
def execGateTimeout (g : GateId) (s : State) : Out :=
  let x := s.gate g
  match x.since with
  | some t =>
    if !s.hubServes (gateField g) || !x.timeout.msb || s.tick < t + bits x.timeout 15 0 * 100 then .next s
    else match x.state with
      | .opened => .next (s.gateFault g 4 false ((x.enabledSlots.find? fun i => !x.arr.getLsbD i).getD 0))
      | .up => .next (s.gateFault g 4 true 0)
      | _ => .next s
  | none => .next s

/-- The marks of a gate's latches. -/
def Hub.markGate (h : Hub) (i : Nat) (x : Gate) (on : Bool) : Hub :=
  let m := if on then some (BitVec.ofNat 6 i) else none
  let h := h.setLatch x.entry { h.latch x.entry with entry := m }
  (List.range 4).foldl (fun h k =>
    h.setLatch (4 * x.doneq + k) { h.latch (4 * x.doneq + k) with done := m }) h

/-- The configuration check of R273. -/
def Hub.gateCheck (h : Hub) (i : Nat) (x : Gate) : Bool :=
  let serves (k : Nat) : Bool :=
    let l := h.latch k
    (l.entry.any fun g => g.toNat != i) || (l.done.any fun g => g.toNat != i)
  x.mask != 0 && x.enabledSlots.all (fun k => bindKind (x.slot k) != 0) && x.entry / 4 != x.doneq &&
    !serves x.entry && (List.range 4).all fun k => !serves (4 * x.doneq + k)

/-- A gate with EN written to 1 (R273). -/
def Hub.enableGate (h : Hub) (i : Nat) : Hub :=
  let x := h.gate i
  let x := { x with ctrl := x.ctrl ||| 0x80000000 }
  if h.gateCheck i x then
    (h.setGate i { x with state := .opened, cur := 0, arr := 0, nxt := 0, nfirst := 0, since := none, count := 0 }).markGate i x true
  else h.setGate i { x with state := .disabled, cause := 1 }

/-- A gate with EN written to 0. -/
def Hub.disableGate (h : Hub) (i : Nat) : Hub :=
  let x := h.gate i
  let h := if x.state = .disabled then h else h.markGate i x false
  h.setGate i { x with ctrl := x.ctrl &&& 0x7FFFFFFF, state := .disabled, since := none }

/-- GATE_ENABLE: the ward writes EN to 1 while the gate is DISABLED (R272, R273). -/
def execGateEnable (g : GateId) (s : State) : Out :=
  if !s.hubServes (gateField g) || (s.gate g).state ≠ .disabled then .next s
  else .next (s.modHub (gateField g) fun h => h.enableGate (gateIndex g))

/-- GATE_DISABLE (R273). -/
def execGateDisable (g : GateId) (s : State) : Out :=
  if !s.hubServes (gateField g) then .next s
  else .next (s.modHub (gateField g) fun h => h.disableGate (gateIndex g))

/-! ### Tally boundaries (R284, R463) -/

/-- TALLY_PERIOD: in mode PERIOD, PERIOD ticks have passed (R284). -/
def execTallyPeriod (s : State) : Out :=
  let p := bits s.tally.cfg 31 0
  if bits s.tally.cfg 63 62 = 2 && s.tally.since + p ≤ s.tick then
    .next ({ s with tally := { s.tally with since := s.tally.since + p } }).boundary
  else .next s

end Sys2Proof.Machine
end

