-- ==== Sys2Proof/Machine/CellSync.lean ====
section
/-! DEFINITION. Sleeping, waking and signalling of a cell (02, 09): the event and sync instructions and
the packets that answer them. -/

namespace Sys2Proof.Machine

/-- A LATCH_OP from a cell to a latch's hub (R263, R264). -/
def State.latchPacket (s : State) (c : CellId) (op : LatchOp) (l : LatchId) (deadline : Bool) (ctag : BitVec 3) : State :=
  s.cellToHub c (latchField l) 8 (.latchOp op l false deadline none ctag)

/-- The cell goes to sleep, once every earlier instruction has completed (R44). -/
def sleepAct (c : CellId) (w : Wait) (s : State) (v : Cell) : Act :=
  if v.idle then .done (s.setCell c { v with run := .sleeping, wait := some w }) else .hold

/-- WAITE on a flag, without or with a deadline (R44, R46). -/
def waitFlagAct (c : CellId) (k : FlagNo) (w : Wait) (s : State) (v : Cell) : Act :=
  if v.evflags.getLsbD k.toNat then
    let v := { v with evflags := v.evflags &&& ~~~(BitVec.ofNat 16 (2 ^ k.toNat)) }
    .done (s.setCell c (match w.result with
      | some d => v.setS d 1
      | none => v))
  else sleepAct c w s v

/-- WAITE on a latch: the cell registers with the latch's hub, which answers at once for a latch that
is set (R45, R49). -/
def waitLatchAct (c : CellId) (r : SReg) (w : LatchId → Wait) (s : State) (v : Cell) : Act :=
  match latchReg (v.s r) with
  | none => .trap 9 (v.s r)
  | some l =>
    match sleepAct c (w l) s v with
    | .done t => .done (t.latchPacket c .waitreg l (w l).deadline.isSome 0)
    | a => a

/-- WAITE on a flag. -/
def execWaiteFlag (c : CellId) (k : FlagNo) (s : State) : Out :=
  .next (s.issue c (.waiteFlag c k) fun s v _ _ => waitFlagAct c k { on := .flag k } s v)

/-- WAITE on a latch. -/
def execWaiteLatch (c : CellId) (l : SReg) (s : State) : Out :=
  .next (s.issue c (.waiteLatch c l) fun s v _ _ => waitLatchAct c l (fun l => { on := .latch l }) s v)

/-- WAITE.D on a flag (R46). -/
def execWaiteDFlag (c : CellId) (k : FlagNo) (p : PairNo) (d : SReg) (s : State) : Out :=
  .next (s.issue c (.waiteDFlag c k p d) fun s v _ _ =>
    waitFlagAct c k { on := .flag k, deadline := some (v.pair p), result := some d } s v)

/-- WAITE.D on a latch (R46). -/
def execWaiteDLatch (c : CellId) (l : SReg) (p : PairNo) (d : SReg) (s : State) : Out :=
  .next (s.issue c (.waiteDLatch c l p d) fun s v _ _ =>
    waitLatchAct c l (fun l => { on := .latch l, deadline := some (v.pair p), result := some d }) s v)

/-- WAITT (02, Sleeping and waking). -/
def execWaitt (c : CellId) (p : PairNo) (s : State) : Out :=
  .next (s.issue c (.waitt c p) fun s v _ _ =>
    if (v.pair p).toNat ≤ s.tick then .done s else sleepAct c { on := .tick, deadline := some (v.pair p) } s v)

/-- The deadline of a sleeping cell has been reached (R47). -/
def State.deadlineMet (s : State) (w : Wait) : Bool :=
  match w.deadline with
  | some d => decide (d.toNat ≤ s.tick)
  | none => false

/-- WAITT_DEADLINE (R47). -/
def execWaittDeadline (c : CellId) (s : State) : Out :=
  let v := s.cell c
  match v.run, v.wait with
  | .sleeping, some w =>
    if w.on = .tick && s.deadlineMet w then .next ((s.progress v.owner).wakeCell c true) else .next s
  | _, _ => .next s

/-- WAITE_D_DEADLINE: result 0, and a WAITDEREG for a latch (R46, R47, R263). -/
def execWaiteDDeadline (c : CellId) (s : State) : Out :=
  let v := s.cell c
  match v.run, v.wait with
  | .sleeping, some w =>
    if !s.deadlineMet w then .next s
    else
      let t := (s.progress v.owner).wakeCell c false
      match w.on with
      | .tick => .next s
      | .flag _ => .next t
      | .latch l => .next (t.latchPacket c .waitdereg l false 0)
  | _, _ => .next s

/-- SETL and CLRL (R49, R84, R269). -/
def postLatch (c : CellId) (op : LatchOp) (r : SReg) (s : State) (v : Cell) : Act :=
  match latchReg (v.s r) with
  | none => .trap 9 (v.s r)
  | some l => if s.bayHeld v then .hold else .done (s.latchPacket c op l false 0)

/-- SETL. -/
def execSetl (c : CellId) (l : SReg) (s : State) : Out :=
  .next (s.issue c (.setl c l) fun s v _ _ => postLatch c .set l s v)

/-- CLRL. -/
def execClrl (c : CellId) (l : SReg) (s : State) : Out :=
  .next (s.issue c (.clrl c l) fun s v _ _ => postLatch c .clr l s v)

/-- CLAIM (R49, R264). -/
def execClaim (c : CellId) (d l : SReg) (s : State) : Out :=
  .next (s.issue c (.claim c d l) fun s v _ _ =>
    match latchReg (v.s l) with
    | none => .trap 9 (v.s l)
    | some x =>
      match v.freeCtag with
      | none => .hold
      | some t =>
        if s.bayHeld v then .hold
        else .done ((s.setCell c { v with claims := v.claims ++ [(t, d)] }).latchPacket c .claim x false t))

/-- SENDE (R48, R49, R84). -/
def execSende (c : CellId) (t : SReg) (k : FlagNo) (s : State) : Out :=
  .next (s.issue c (.sende c t k) fun s v _ _ =>
    let x := v.s t
    let px := bits x 9 0
    let py := bits x 18 10
    if bits x 31 19 ≠ 0 || bits v.plot 18 9 ≤ px || bits v.plot 27 19 ≤ py then .trap 9 x
    else if s.bayHeld v then .hold
    else
      let d := s.placeOf c v.owner px py
      if d = c then .done (s.cellEvent c k) else .done (s.cellToCell c d (.event k)))

/-! ### Packets that reach a cell -/

/-- The source of the packet that is taken next among those that pass a test. -/
def State.sourceOf (s : State) (t : Packet → Bool) : Option Endpoint := (frontOf t [] s.net).map (·.src)

/-- EVENT: a flag is set, unless the cell is locked out or a hole (R48, R260). -/
def execEvent (c : CellId) (k : FlagNo) (s : State) : Out :=
  let t (p : Packet) : Bool := isFor p (.cell c) && p.body == .event k
  let gone := s.arrived t
  if s.notYet t then .next s
  else if (s.cell c).lockedOut || s.isHole c then
    match s.sourceOf t with
    | some (.cell d) =>
      let p := (s.cell d).owner
      .next (if p.toNat < 96 && (s.plot p).state != .empty then
        gone.modPlot p fun q => { q with fenceDrop := satAdd q.fenceDrop 1 } else gone)
    | _ => .next gone
  else .next ((gone.cellEvent c k).settle c)

/-- A LATCH_OP answer of an operation for a cell and latch. -/
def latchAnswer (op : LatchOp) (l : LatchId) (c : CellId) (p : Packet) : Bool :=
  isFor p (.cell c) && match p.body with
    | .latchOp o l' _ _ _ _ => o == op && l' == l
    | _ => false

/-- WAKE: the wake wire of a cell that sleeps on the latch fires; any other WAKE is discarded (R267). -/
def execWake (c : CellId) (l : LatchId) (s : State) : Out :=
  s.takes (latchAnswer .wake l c) fun s =>
  let v := s.cell c
  match v.run, v.wait with
  | .sleeping, some w =>
    if w.on = .latch l && !v.lockedOut && !s.isHole c then .next ((s.progress v.owner).wakeCell c true) else .next s
  | _, _ => .next s

/-- CLAIMRESP: the old value is written to the CLAIM's destination (R264). -/
def execClaimresp (c : CellId) (ctag : BitVec 3) (old : Bool) (s : State) : Out :=
  s.takes (fun p => isFor p (.cell c) && match p.body with
    | .latchOp .claimresp _ o _ _ t => o == old && t == ctag
    | _ => false) fun s =>
  let v := s.cell c
  match v.claims.find? fun x => x.1 == ctag with
  | some (_, d) =>
    .next (s.setCell c ({ v with claims := v.claims.filter fun x => x.1 != ctag }.setS d (if old then 1 else 0)))
  | none => .next s

/-- WAITFULL: the cell stays asleep, its registration refused (R268). -/
def execWaitfull (c : CellId) (l : LatchId) (s : State) : Out :=
  s.takes (latchAnswer .waitfull l c) fun s =>
  let v := s.cell c
  match v.run, v.wait with
  | .sleeping, some w =>
    if w.on = .latch l then .next (s.setCell c { v with wait := some { w with refused := some s.tick } }) else .next s
  | _, _ => .next s

/-- WAITREG_RETRY: the refused registration is sent again at the next tick (R268). -/
def execWaitregRetry (c : CellId) (s : State) : Out :=
  let v := s.cell c
  match v.run, v.wait with
  | .sleeping, some w =>
    match w.on with
    | .latch l =>
      if w.refused.any fun t => t < s.tick then
        .next ((s.setCell c { v with wait := some { w with refused := none } }).latchPacket c .waitreg l
          w.deadline.isSome 0)
      else .next s
    | _ => .next s
  | _, _ => .next s

end Sys2Proof.Machine
end

