-- ==== Sys2Proof/Machine/CellSystem.lean ====
section
/-! DEFINITION. System and wain-issue instructions of a cell, with its CSRs (R54, R60, R96, R97; 02,
Cell CSRs). -/

namespace Sys2Proof.Machine

/-! ### CSRs -/

/-- CL_STATUS. -/
def Cell.status (v : Cell) : Word :=
  let act := bitmap 4 fun n => (v.loop (BitVec.ofNat 2 n)).active
  BitVec.ofNat 32 ((if v.arith.isSome then 512 else 0) + (if v.intrap then 256 else 0) + act * 16 + v.rstack.length)

/-- The value of a CSR by its byte offset: for a 64-bit register its low half, and its high half at
offset + 4; none for an offset that is not listed. -/
def State.csr (s : State) (v : Cell) (off : Nat) : Option Word :=
  match off with
  | 0x000 => some v.status
  | 0x004 => some v.self
  | 0x008 => some v.plot
  | 0x010 => some v.cause
  | 0x014 => some (v.epc.setWidth 32)
  | 0x018 => some v.info
  | 0x020 => some (v.raw.extractLsb' 0 32)
  | 0x024 => some (v.raw.extractLsb' 32 32)
  | 0x030 => some (v.aflags.setWidth 32)
  | 0x034 => some (v.aftrap.setWidth 32)
  | 0x038 => some v.blcount
  | 0x040 => some (v.evflags.setWidth 32)
  | 0x044 => some (v.evlost.setWidth 32)
  | 0x048 => some (v.vmask.setWidth 32)
  | 0x050 => some (BitVec.ofNat 32 ((if v.bkptEn then 2 ^ 31 else 0) + v.bkptAddr.toNat))
  | 0x058 => some s.libver
  | 0x060 => some (s.tick64.extractLsb' 0 32)
  | 0x064 => some (s.tick64.extractLsb' 32 32)
  | _ => none

/-- A read clears CL_BLCOUNT and CL_EVLOST, and the low half of a 64-bit register captures its high
half (R6, R10). -/
def State.csrRead (s : State) (v : Cell) (off : Nat) : Cell :=
  match off with
  | 0x020 => { v with csrSnap := (s.csr v 0x024).map fun h => (0x020, h) }
  | 0x060 => { v with csrSnap := (s.csr v 0x064).map fun h => (0x060, h) }
  | 0x038 => { v with blcount := 0, csrSnap := none }
  | 0x044 => { v with evlost := 0, csrSnap := none }
  | _ => { v with csrSnap := none }

/-- The value that a read returns: the snapshot for a high half whose low half was the cell's previous
access (R10). -/
def State.csrValue (s : State) (v : Cell) (off : Nat) : Option Word :=
  match v.csrSnap with
  | some (lo, h) => if off = lo + 4 then some h else s.csr v off
  | none => s.csr v off

/-- A write of a CSR, by the access of its fields: RO fields keep their values, W1C bits clear (R97). -/
def Cell.csrWrite (v : Cell) (off : Nat) (x : Word) : Cell :=
  let v := { v with csrSnap := none }
  match off with
  | 0x014 => { v with epc := x.setWidth 13 }
  | 0x030 => { v with aflags := v.aflags &&& ~~~(x.setWidth 6) }
  | 0x034 => { v with aftrap := x.setWidth 6 }
  | 0x040 => { v with evflags := x.setWidth 16 }
  | 0x048 => { v with vmask := x.setWidth 16 }
  | 0x050 => { v with bkptEn := x.msb, bkptAddr := x.setWidth 13 }
  | _ => v

/-- CSRR (R97). -/
def execCsrr (c : CellId) (d : SReg) (off : BitVec 16) (s : State) : Out :=
  .next (s.issue c (.csrr c d off) fun s v p _ =>
    match s.csrValue v off.toNat with
    | none => .trap 10 0
    | some x => .done (s.setCell c ((s.csrRead v off.toNat).push (
        { unit := .scalar, addr := p, sdst := some (d, x) }))))

/-- CSRW (R97). -/
def execCsrw (c : CellId) (r : SReg) (off : BitVec 16) (s : State) : Out :=
  .next (s.issue c (.csrw c r off) fun s v _ _ =>
    match s.csr v off.toNat with
    | none => .trap 10 0
    | some _ => .done (s.setCell c (v.csrWrite off.toNat (v.s r))))

/-! ### Traps, returns and HALT -/

/-- TRET (R54, R56). -/
def execTret (c : CellId) (s : State) : Out :=
  .next (s.issue c (.tret c) fun s v _ _ =>
    if v.intrap then .leave (s.setCell c { v with intrap := false }) v.epc else .trap 2 0)

/-- TRET.SKIP (R54, R56): past the trapping instruction's words. -/
def execTretSkip (c : CellId) (s : State) : Out :=
  .next (s.issue c (.tretSkip c) fun s v _ _ =>
    if v.intrap then .leave (s.setCell c { v with intrap := false }) (v.epc + BitVec.ofNat 13 (bits v.raw 43 42))
    else .trap 2 0)

/-- TRAP: SWTRAP with its code (R97). -/
def execTrap (c : CellId) (code : BitVec 6) (s : State) : Out :=
  .next (s.issue c (.trap c code) fun _ _ _ _ => .trap 13 (code.setWidth 32))

/-- A RUNNING plot of which every cell is HALTED enters DONE (R195). -/
def State.plotHalted (s : State) (p : PlotId) : State :=
  let q := s.plot p
  if q.state = .running && q.cells.all fun c => (s.cell c).run == .halted then
    (s.setPlot p { q with state := .done }).plotEvent p 1
  else s

/-- HALT (R60, R189): held until earlier instructions have completed; the library's report-and-halt
routine faults the plot (R37; log entry 17), and the last HALT of a plot makes it DONE. -/
def execHalt (c : CellId) (s : State) : Out :=
  .next (s.issue c (.halt c) fun s v a _ =>
    if !v.idle then .hold
    else if v.intrap && 0x1C00 ≤ a.toNat then
      .done ((s.setCell c { v with run := .halted, reported := true }).cellTrapFault c v.cause.toNat false v.epc)
    else .done ((s.setCell c { v with run := .halted }).plotHalted v.owner))

/-! ### Wain issue (R96) -/

/-- WN_STATUS.STATE. -/
def WainState.code : WainState → Nat
  | .idle => 0
  | .running => 1
  | .waitmap => 2
  | .faulted => 3
  | .stopped => 4
  | .error => 5

/-- WN_STATUS. -/
def Wain.status (w : Wain) : Word :=
  BitVec.ofNat 32 (w.state.code * 2 ^ 29 + w.err.toNat * 2 ^ 25 + w.chains.length * 2 ^ 20 + w.dcount.toNat)

/-- A wain accepts a chain (R286); one that a run-dry stops holds it (R310). -/
def Wain.accept (w : Wain) (addr : DWord) : Wain :=
  if w.state = .idle then
    { w with state := if w.dryReq then .stopped else .running, chains := w.chains ++ [addr], descAddr := addr, progress := 0, desc := none,
             packets := [], issued := 0 }
  else { w with chains := w.chains ++ [addr] }

/-- A LOFT address of the wain's own plot (R289). -/
def ownLoft (px py a : Nat) : DWord := BitVec.ofNat 64 (127 * 2 ^ 53 + px * 2 ^ 43 + py * 2 ^ 34 + a)

/-- WGO (R96). -/
def execWgo (c : CellId) (w : BitVec 3) (r : SReg) (s : State) : Out :=
  .next (s.issue c (.wgo c w r) fun s v _ _ =>
    let k := wainKey (.hub (fieldOf c) w)
    let x := s.wain k
    let a := v.s r
    if x.owner ≠ v.owner || 96 ≤ v.owner.toNat then .trap 9 (w.setWidth 32)
    else if 0x1FFFFF < a.toNat then .trap 5 a
    else if a.toNat % 64 ≠ 0 then .trap 6 a
    else if !x.accepts then .hold
    else .done ((s.rouse (fieldOf c)).setWain k (x.accept (ownLoft v.px v.py a.toNat))))

/-- WSTAT (R96). -/
def execWstat (c : CellId) (w : BitVec 3) (d : SReg) (s : State) : Out :=
  .next (s.issue c (.wstat c w d) fun s v p _ =>
    let x := s.wain (wainKey (.hub (fieldOf c) w))
    if x.owner ≠ v.owner || 96 ≤ v.owner.toNat then .trap 9 (w.setWidth 32)
    else .done (s.setCell c (v.push { unit := .scalar, addr := p, sdst := some (d, x.status) })))

end Sys2Proof.Machine
end

