-- ==== Sys2Proof/Machine/Granary.lean ====
section
/-! DEFINITION. The granary: stacks, their errors, the map and its copies (R297 to R302). -/

namespace Sys2Proof.Machine

/-- Stack and offset of a physical address (R297). -/
def physStack (a : Nat) : Nat := a / 2 ^ 38 % 16
def physOffset (a : Nat) : Nat := a % 2 ^ 38
/-- The offset is backed; it lies in the ward area (R297). -/
def backed (a : Nat) : Bool := physOffset a < 0x3000000000
def inWardArea (a : Nat) : Bool := 0x2FFC000000 ≤ physOffset a

/-- A corrected error of a stack is counted (R298). -/
def State.stackCorrected (s : State) (k : Nat) : State :=
  s.setStack k { s.stack k with cecnt := satAdd (s.stack k).cecnt 1 }

/-- An uncorrectable error of a stack: COUNT counts it, and the log records it where armed (R298). -/
def State.stackUncorrectable (s : State) (k unit source : Nat) : State :=
  let x := s.stack k
  let n := min (bits x.uelog 59 48 + 1) 4095
  let log := if x.uelog.msb then putBits x.uelog 59 48 n
    else BitVec.ofNat 64 (2 ^ 63 + source * 2 ^ 60 + n * 2 ^ 48 + unit * 64)
  s.setStack k { x with uelog := log }

/-- The 64 B units of `n` bytes from `a`. -/
def granUnits (a n : Nat) : List Nat :=
  if n = 0 then [] else (List.range ((a + n - 1) / 64 - a / 64 + 1)).map fun i => a / 64 + i

/-- The errors of units met by a reader; the answer says whether one is uncorrectable (R298). -/
def State.checkUnits (s : State) (source : Nat) : List Nat → State × Bool
  | [] => (s, false)
  | u :: l =>
    match Store.get 0 s.granErr u with
    | 0 => s.checkUnits source l
    | 1 => (s.stackCorrected (physStack (u * 64))).checkUnits source l
    | _ =>
      let (s, _) := (s.stackUncorrectable (physStack (u * 64)) u source).checkUnits source l
      (s, true)

/-- `n` bytes at a physical address, with whether a unit is uncorrectable. -/
def State.granRead (s : State) (a n source : Nat) : State × List Byte × Bool :=
  let (s, bad) := s.checkUnits source (granUnits a n)
  (s, s.granary.readBytes a n, bad)

/-- Units of a write: a whole unit's error is replaced; a partial write is merged (R298). -/
def State.mergeUnits (s : State) (a n : Nat) : List Nat → State
  | [] => s
  | u :: l =>
    let whole := decide (a ≤ u * 64) && decide (u * 64 + 64 ≤ a + n)
    let s := if whole then { s with granErr := Store.erase s.granErr u }
      else match Store.get 0 s.granErr u with
        | 0 => s
        | 1 => { s.stackCorrected (physStack (u * 64)) with granErr := Store.erase s.granErr u }
        | _ => s.stackUncorrectable (physStack (u * 64)) u 2
    s.mergeUnits a n l

/-- Bytes written at a physical address (R298). -/
def State.granWrite (s : State) (a : Nat) (l : List Byte) : State :=
  let s := s.mergeUnits a l.length (granUnits a l.length)
  { s with granary := s.granary.writeBytes a l }

/-! ### The map (R300, R301) -/

/-- Stacks whose copy a requester of a field may read, nearest first, the lower number on a tie. -/
def State.copiesFor (s : State) (f : FieldNo) : List Nat :=
  let dist (k : Nat) : Nat :=
    let g := stackField k
    (fxOf f - fxOf g) + (fxOf g - fxOf f) + (fyOf f - fyOf g) + (fyOf g - fyOf f)
  let act := (List.range 16).filter fun k => (s.stack k).state == .active
  (List.range 16).flatMap fun d => act.filter fun k => dist k == d

/-- Where the entry of a page stands in the table of copies, and its physical address in a stack's ward area (R297; log
entry 62). -/
def copyKey (k page : Nat) : Nat := k * 2 ^ 21 + page
def copyAddr (k page : Nat) : Nat := k * 2 ^ 38 + 0x2FFC000000 + page * 8

/-- The entry of a page from the first copy that can be read: errors that are corrected are counted, and the copies that
cannot be read are logged; none where every copy has failed (R298, R301). -/
def State.mapRead (s : State) (page : Nat) : List Nat → State × Option DWord
  | [] => (s, none)
  | k :: l =>
    let (t, bad) := s.checkUnits 1 [copyAddr k page / 64]
    if bad then t.mapRead page l else (t, some (Store.get 0 s.gmap (copyKey k page)))

/-- An entry is valid, permits writes, and gives a physical address. -/
def entryValid (e : DWord) : Bool := e.msb
def entryWrite (e : DWord) : Bool := e.getLsbD 62
def entryPhys (e : DWord) (a : Nat) : Nat := bits e 41 21 * 2 ^ 21 + a % 2 ^ 21
/-- The page of a granary address. -/
def pageOf (a : Nat) : Nat := a / 2 ^ 21 % 2 ^ 21

/-- What a granary access of the ward, a mill or a viewport meets. -/
inductive GranPlace where
  | phys (a : Nat)
  | invalid
  | readOnly
  | noStack
  | mapError
  deriving DecidableEq, Repr

/-- The place of an address by its page's entry (R299, R300). -/
def State.placeBy (s : State) (e : DWord) (a : Nat) (write : Bool) : GranPlace :=
  if !entryValid e then .invalid
  else if write && !entryWrite e then .readOnly
  else if (s.stack (physStack (entryPhys e a))).state != .active then .noStack
  else .phys (entryPhys e a)

/-- The entry of a page in a cache. -/
def cached (l : List (BitVec 21 × DWord)) (page : Nat) : Option (BitVec 21 × DWord) := l.find? fun e => e.1.toNat == page

/-- An entry used last stands first; 32 are kept (R301). -/
def cacheUse (l : List (BitVec 21 × DWord)) (e : BitVec 21 × DWord) : List (BitVec 21 × DWord) :=
  (e :: l.filter fun x => x.1 != e.1).take 32

/-- A granary address through a cache of map entries and, on a miss, through the nearest copy of the map; the cache
after it (R301). -/
def State.translateIn (s : State) (f : FieldNo) (l : List (BitVec 21 × DWord)) (a : Nat) (write : Bool) :
    State × List (BitVec 21 × DWord) × GranPlace :=
  match cached l (pageOf a) with
  | some x => (s, cacheUse l x, s.placeBy x.2 a write)
  | none =>
    match s.copiesFor f with
    | [] => (s, l, .noStack)
    | copies =>
      match s.mapRead (pageOf a) copies with
      | (t, none) => (t, l, .mapError)
      | (t, some e) => (t, if entryValid e then cacheUse l (BitVec.ofNat 21 (pageOf a), e) else l, t.placeBy e a write)

/-- A granary address as the hinge translates it, for viewports and for the ward's own accesses (R301). -/
def State.hingeTranslate (s : State) (a : Nat) (write : Bool) : State × GranPlace :=
  let (s, l, x) := s.translateIn s.hingeField s.hingeCache a write
  ({ s with hingeCache := l }, x)

/-- The entry of a page as the ward reads it: that of the copy nearest to the hinge. -/
def State.mapEntry (s : State) (page : Nat) : DWord :=
  match s.copiesFor s.hingeField with
  | k :: _ => Store.get 0 s.gmap (copyKey k page)
  | [] => 0

/-- Entries from a page on are written into a stack's copy of the map (R298, R301). -/
def State.writeCopy (s : State) (first : Nat) (es : List DWord) (k : Nat) : State :=
  let s := s.mergeUnits (copyAddr k first) (8 * es.length) (granUnits (copyAddr k first) (8 * es.length))
  { s with gmap := es.zipIdx.foldl (fun (m : Store DWord) (e : DWord × Nat) => Store.set 0 m (copyKey k (first + e.2)) e.1) s.gmap }

/-- Entries from a page on are written into every copy that can be reached (R301). -/
def State.writeMap (s : State) (first : Nat) (es : List DWord) : State :=
  (s.copiesFor s.hingeField).foldl (fun s k => s.writeCopy first es k) s

/-- The pages that `n` bytes at a granary address lie in, with the run in each. -/
def pageRuns : Nat → Nat → Nat → List (Nat × Nat)
  | 0, _, _ => []
  | fuel + 1, a, n =>
    if n = 0 then []
    else
      let k := min n (2 ^ 21 - a % 2 ^ 21)
      (a, k) :: pageRuns fuel (a + k) (n - k)

/-- `n` bytes at a granary address through the map, as the ward reads them (R301): none where one cannot
be read. -/
def State.wardReadRuns (s : State) : List (Nat × Nat) → State × Option (List Byte)
  | [] => (s, some [])
  | (a, n) :: l =>
    match s.hingeTranslate a false with
    | (s, .phys p) =>
      let (s, bytes, bad) := s.granRead p n 4
      if bad then (s, none)
      else match s.wardReadRuns l with
        | (s, some rest) => (s, some (bytes ++ rest))
        | (s, none) => (s, none)
    | (s, _) => (s, none)

/-- Fields 0 and 8 are both dark: the ward reaches no stack (R26). -/
def State.wardBlind (s : State) : Bool := (s.hub 0).dark && (s.hub 8).dark

/-- The ward's own read of granary bytes through the map. -/
def State.wardRead (s : State) (a n : Nat) : State × Option (List Byte) :=
  if s.wardBlind then (s, none) else s.wardReadRuns (pageRuns (n / 2 ^ 21 + 2) a n)

/-- The ward's own write of granary bytes through the map; the flag says that every byte was written. -/
def State.wardWriteRuns (s : State) (l : List Byte) : List (Nat × Nat) → State × Bool
  | [] => (s, true)
  | (a, n) :: rs =>
    match s.hingeTranslate a true with
    | (s, .phys p) => (s.granWrite p (l.take n)).wardWriteRuns (l.drop n) rs
    | (s, _) =>
      let (s, _) := s.wardWriteRuns (l.drop n) rs
      (s, false)

def State.wardWrite (s : State) (a : Nat) (l : List Byte) : State × Bool :=
  if s.wardBlind then (s, false) else s.wardWriteRuns l (pageRuns (l.length / 2 ^ 21 + 2) a l.length)

/-! ### Host memory (R402, R403) -/

/-- The key of a byte of host memory behind a port. -/
def hostKey (p : PortNo) (a : Nat) : Nat := p.toNat * 2 ^ 64 + a % 2 ^ 64

/-- A window takes a request of `n` bytes at an offset: it is present, writable for a write, its port's
link is up with Bus Master Enable 1, and the request ends inside it (R402, R403). -/
def State.windowOk (s : State) (w : BitVec 6) (off n : Nat) (write : Bool) : Option Window :=
  match Store.find? s.windows w.toNat with
  | none => none
  | some x =>
    let p := s.port x.port
    if (write && !x.write) || !p.linkUp || !p.bme || x.len < off + n then none else some x

/-- Bytes written to a host window. -/
def State.windowWrite (s : State) (x : Window) (off : Nat) (l : List Byte) : State :=
  { s with hostMem := s.hostMem.writeBytes (hostKey x.port (x.base.toNat + off)) l }

/-- Bytes read from a host window. -/
def State.windowRead (s : State) (x : Window) (off n : Nat) : List Byte :=
  s.hostMem.readBytes (hostKey x.port (x.base.toNat + off)) n

end Sys2Proof.Machine
end

