-- ==== Sys2Proof/Machine/WainOps.lean ====
section
/-! DEFINITION. Wains: descriptors and their layouts, address resolution, errors, faults, and the
requests that they send and answers that they take (R285 to R310). -/

namespace Sys2Proof.Machine

/-! ### Descriptors (R287, R288) -/

/-- `n` bytes at an offset of a descriptor, as a number. -/
def dfield (d : BitVec 512) (off n : Nat) : Nat := bits d (8 * (off + n) - 1) (8 * off)
def dCtrl (d : BitVec 512) (hi lo : Nat) : Nat := bits d hi lo
def dSrc (d : BitVec 512) : DWord := BitVec.ofNat 64 (dfield d 8 8)
def dDst (d : BitVec 512) : DWord := BitVec.ofNat 64 (dfield d 16 8)
def dNext (d : BitVec 512) : DWord := BitVec.ofNat 64 (dfield d 24 8)
def dSstride (d : BitVec 512) : Nat := dfield d 32 4
def dDstride (d : BitVec 512) : Nat := dfield d 36 4
def dRow (d : BitVec 512) : Nat := dfield d 40 2
def dSkewn (d : BitVec 512) : Nat := dfield d 42 2
def dLatch (d : BitVec 512) : Nat := dfield d 44 4
def dFlagcell (d : BitVec 512) : Nat := dfield d 48 4
def dRank (d : BitVec 512) : Nat := dfield d 52 4
def dScalesrc (d : BitVec 512) : DWord := BitVec.ofNat 64 (dfield d 56 8)
def dLayout (d : BitVec 512) : Nat := dCtrl d 63 61
def dSlot (d : BitVec 512) : Nat := dCtrl d 60 58
def dScales (d : BitVec 512) : Bool := d.getLsbD 57
def dBsz (d : BitVec 512) : Nat := dCtrl d 56 55
def dKw (d : BitVec 512) : Nat := dCtrl d 54 53
def dLast (d : BitVec 512) : Bool := d.getLsbD 52
def dNlatch (d : BitVec 512) : Bool := d.getLsbD 51
def dNflag (d : BitVec 512) : Bool := d.getLsbD 50
def dRlatch (d : BitVec 512) : Bool := d.getLsbD 49
def dFlag (d : BitVec 512) : FlagNo := BitVec.ofNat 4 (dCtrl d 47 44)
def dSlice (d : BitVec 512) : Nat := dCtrl d 39 32
def dLen (d : BitVec 512) : Nat := dCtrl d 31 0

/-- Element size in bytes of a slot code of 1 to 5. -/
def slotBytes (c : Nat) : Nat := 2 ^ (c - 1)
/-- Size in bits of a slot code. -/
def slotBits (c : Nat) : Nat := if c = 0 then 4 else 8 * slotBytes c
/-- The wain writes scale codes after the plane. -/
def dCodes (d : BitVec 512) : Bool := dLayout d == 3 && dScales d

/-- The space of an address, and its offset (R289). -/
def space (a : DWord) : Nat := bits a 63 60
def spaceLow (a : DWord) : Nat :=
  match space a with
  | 0 => bits a 20 0
  | 2 => bits a 47 0
  | _ => bits a 41 0

/-- A reserved bit of an address is not 0 (R289). -/
def rsvdAddr (a : DWord) : Bool :=
  match space a with
  | 0 => bits a 33 21 != 0
  | 1 => bits a 59 42 != 0
  | 2 => bits a 59 54 != 0
  | 3 => bits a 59 42 != 0
  | _ => true

/-- The completion fields and NEXT break R292; `w` and `h` are the shape of the owning plot, 0 for a wain
that no plot owns. -/
def completionBad (d : BitVec 512) (w h : Nat) : Bool :=
  let n := dNext d
  (!dLast d && (n.toNat % 64 != 0 || 2 ≤ space n || rsvdAddr n)) ||
  (dRlatch d && space (dDst d) != 3) ||
  (dNlatch d && (2 ^ 17 ≤ dLatch d || 48 ≤ dLatch d / 2048 % 64)) ||
  (dNflag d && (2 ^ 19 ≤ dFlagcell d || decide (w ≤ dFlagcell d % 1024) || decide (h ≤ dFlagcell d / 1024 % 512)))

/-- A descriptor is malformed (R292). -/
def malformed (d : BitVec 512) (w h : Nat) : Bool :=
  let len := dLen d
  if len = 0 then completionBad d w h
  else
    let lay := dLayout d
    let sl := dSlot d
    let row := dRow d
    let z := slotBytes sl
    completionBad d w h || 5 ≤ lay || 6 ≤ sl || (dCodes d && dKw d == 3) ||
    rsvdAddr (dSrc d) || rsvdAddr (dDst d) || (dCodes d && rsvdAddr (dScalesrc d)) ||
    d.getLsbD 48 || dCtrl d 43 40 != 0 ||
    space (dSrc d) == 3 || (dCodes d && space (dScalesrc d) == 3) ||
    (space (dDst d) == 3 && 2 ^ 21 ≤ dRank d) ||
    ((lay == 1 || lay == 2) && (row == 0 || len % row != 0)) ||
    (lay == 2 && (sl == 0 || sl == 5 || row % z != 0)) ||
    (lay == 3 && (row == 0 || dSkewn d == 0 || len != dSkewn d * row ||
      !(row * 8 == 8 * slotBits sl || row * 8 == 16 * slotBits sl) || (dScales d && dBsz d == 0))) ||
    (lay == 4 && (!(sl == 4 || sl == 5) || dSkewn d == 0 || len != dSkewn d * 16 * z))

/-- Bytes that a descriptor writes: LEN, and the scale codes that LEN does not count (R291). -/
def dTotal (d : BitVec 512) : Nat := dLen d + (if dCodes d && dLen d != 0 then dSkewn d else 0)

/-- Destination of byte `k`, as a distance from DST (R290, R291). -/
def dstOff (d : BitVec 512) (k : Nat) : Nat :=
  match dLayout d with
  | 1 => k / dRow d * dDstride d + k % dRow d
  | 2 =>
    let run := dLen d / dRow d * slotBytes (dSlot d)
    k / run * dDstride d + k % run
  | 3 =>
    if k < dLen d then k
    else (spaceLow (dDst d) + dLen d + 63) / 64 * 64 - spaceLow (dDst d) + (k - dLen d)
  | _ => k

/-- A source byte: whether it is a scale code, its distance from SRC or SCALESRC, and for a four-bit slot
the nibble read and the nibble written. -/
structure SrcByte where
  code : Bool
  off  : Nat
  nib  : Option (Bool × Bool)
  deriving DecidableEq, Repr

/-- Sources of byte `k` (R290, R291): one byte, or two nibbles. -/
def srcOf (d : BitVec 512) (k : Nat) : List SrcByte :=
  let row := dRow d
  let z := slotBytes (dSlot d)
  match dLayout d with
  | 1 => [⟨false, k / row * dSstride d + k % row, none⟩]
  | 2 =>
    let run := dLen d / row * z
    [⟨false, k % run / z * dSstride d + k / run * z + k % z, none⟩]
  | 3 =>
    let m := dSkewn d
    if k < dLen d then
      let t := k / row
      let b := k % row
      let from_ (i : Nat) : Nat := (t + m * 16 - i) % m * dSstride d + b
      if dSlot d = 0 then [⟨false, from_ (2 * b), some (false, false)⟩, ⟨false, from_ (2 * b + 1), some (true, true)⟩]
      else [⟨false, from_ (b / z), none⟩]
    else
      [⟨true, (k - dLen d) * dDstride d + dSlice d * 2 ^ (3 + dKw d) / (8 * 2 ^ dBsz d), none⟩]
  | 4 =>
    let l := k / (16 * z)
    let rest := k % (16 * z)
    [⟨false, (l + dSkewn d * 16 - rest / z) % dSkewn d * (16 * z) + rest, none⟩]
  | _ => [⟨false, k, none⟩]

/-- The length of the packet that starts at byte `k`: consecutive destination bytes, no 256 B boundary
crossed, at most `lim` (R293). -/
def packetLen (d : BitVec 512) (k lim : Nat) : Nat → Nat → Nat
  | 0, n => n
  | fuel + 1, n =>
    let a := spaceLow (dDst d) + dstOff d (k + n)
    if n = 0 then packetLen d k lim fuel 1
    else if n < lim && k + n < dTotal d && dstOff d (k + n) == dstOff d (k + n - 1) + 1 && a % 256 != 0 then
      packetLen d k lim fuel (n + 1)
    else n

/-- A run of source bytes, before translation. -/
structure RawPiece where
  code : Bool
  off  : Nat
  n    : Nat
  at_  : Nat
  nib  : Option (Bool × Bool)
  deriving DecidableEq, Repr

/-- Runs of consecutive source bytes; a run ends where the page of the source or of the source codes ends (R301). -/
def mergeRuns (base codes : Nat) : List RawPiece → List RawPiece
  | [] => []
  | p :: l =>
    match mergeRuns base codes l with
    | [] => [p]
    | q :: rest =>
      if p.nib.isNone && q.nib.isNone && p.code == q.code && p.off + p.n == q.off && p.at_ + p.n == q.at_ &&
          ((if q.code then codes else base) + q.off) % 2 ^ 21 != 0 then
        { p with n := p.n + q.n } :: rest
      else p :: q :: rest

/-- The source runs of a packet of `n` bytes at `k`. -/
def rawPieces (d : BitVec 512) (k n : Nat) : List RawPiece :=
  mergeRuns (spaceLow (dSrc d)) (spaceLow (dScalesrc d)) ((List.range n).flatMap fun i =>
    (srcOf d (k + i)).map fun x => ⟨x.code, x.off, 1, i, x.nib⟩)

/-! ### Resolution of addresses (R289, R301, R303) -/

/-- What an address comes to. -/
inductive Resolved where
  | ok (t : Target) (a : Nat) (page : Option (BitVec 21))
  | err (code : Nat)
  | miss (a : Nat)
  | fault (a : Nat) (prot : Bool)
  deriving DecidableEq, Repr

/-- The cell of a LOFT address for a wain of a field and owner: none outside its plot, or where the plot
is EMPTY or its lofts went to the granary (R289, R306). -/
def State.loftTarget (s : State) (f : FieldNo) (owner : PlotId) (a : DWord) : Option CellId :=
  let p : PlotId := if bits a 59 53 = 127 then owner else BitVec.ofNat 7 (bits a 59 53)
  let q := s.plot p
  let px := bits a 52 43
  let py := bits a 42 34
  let gone := q.state == .scanned && (match q.scan with
    | some (.granary _ _) => true
    | _ => false)
  if 96 ≤ p.toNat || q.state = .empty || gone || q.width.toNat ≤ px || q.height.toNat ≤ py then none
  else
    let o := Store.get 0 (s.niOfHub f).origins p.toNat
    some (mkCell (lxOf o + px) (lyOf o + py))

/-- The home mill of a hub (R340): the nearest mill that the licence enables, the lower number on a
tie. -/
def State.homeMill (s : State) (f : FieldNo) : MillNo :=
  let dist (m : MillNo) : Nat :=
    let g := millField m
    let dx := (fxOf f - fxOf g) + (fxOf g - fxOf f)
    let dy := (fyOf f - fyOf g) + (fyOf g - fyOf f)
    (if dx = 0 then 0 else 78 * (dx - 1) + 1) + 64 * dy
  let ms := ((List.range 32).map (BitVec.ofNat 5)).filter fun m => (s.mill m).licensed
  match ms with
  | [] => 0
  | m :: l => l.foldl (fun a b => if dist b < dist a then b else a) m

/-- The mill that a wain's remote requests go to (R340). -/
def State.wainMill (s : State) : WainId → MillNo
  | .hub f _ => s.homeMill f
  | .mill m _ => m

/-- `n` bytes at an offset of an address, for a wain. -/
def State.resolve (s : State) (k : Nat) (a : DWord) (off n : Nat) (write : Bool) (rank : Nat) : Resolved :=
  let w := s.wain k
  let id := wainOfKey k
  let x := spaceLow a + off
  match space a with
  | 0 =>
    match s.loftTarget (wainField id) w.owner a with
    | none => .err 6
    | some c => if 2 ^ 21 < x + n then .err 6 else .ok (.cell c) x none
  | 1 =>
    if 2 ^ 42 < x + n then .err 6
    else match w.cache.find? fun e => e.1.toNat == pageOf x with
      | none => .miss x
      | some (pg, e) =>
        if write && !entryWrite e then .fault x true
        else .ok (.stack (physStack (entryPhys e x))) (entryPhys e x) (some pg)
  | 2 =>
    let win := BitVec.ofNat 6 (bits a 53 48)
    if (s.windowOk win x n write).any fun w => !w.closing then .ok (.host win) x none else .err 9
  | 3 => if 2 ^ 42 < x + n then .err 6 else .ok (.remote (s.wainMill id) (BitVec.ofNat 21 rank)) x none
  | _ => .err 6

/-! ### Errors and stops (R306, R308) -/

/-- The ranges of a wain are released (R170). -/
def State.releaseRanges (s : State) (k : Nat) : State :=
  let w := s.wain k
  (s.modCells w.ranges fun v => v.release (.wain k)).setWain k { w with ranges := [], registered := false }

/-- The work of a wain's descriptor is dropped. -/
def Wain.drop (w : Wain) : Wain :=
  { w with desc := none, packets := [], issued := 0, partDst := none, part := [], partPages := [], miss := none,
           faulting := none }

/-- WAIN_ERROR: a chain stops without resumption, and the owning plot faults (R306, R446). -/
def State.wainError (s : State) (k code : Nat) : State :=
  let s := s.releaseRanges k
  let w := { (s.wain k).drop with state := .error, err := BitVec.ofNat 4 code, chains := [] }
  let id := wainOfKey k
  (s.setWain k w).fault 4 ((wainField id).toNat * 64 + (wainUnit id).toNat)
    (leBytes 4 w.status.toNat ++ leBytes 8 w.descAddr.toNat ++ leBytes 4 w.progress.toNat) 0
    (if w.owner.toNat < 96 then [w.owner] else [])

/-- Reads and writes of a wain that wait for an answer. -/
def Wain.outstanding (w : Wain) : Nat :=
  (w.packets.map fun p => p.reads.length + (if p.sent && !p.done then 1 else 0)).sum
def Wain.readsOut (w : Wain) : Nat := (w.packets.map fun p => p.reads.length).sum

/-- Every issued packet is complete. -/
def Wain.quiet (w : Wain) : Bool := w.packets.all (·.done)

/-- The leading run of complete packets counts as progress (R293). -/
def Wain.advance (w : Wain) : Wain :=
  let lead := w.packets.takeWhile (·.done)
  { w with
    packets := w.packets.drop lead.length
    progress := w.progress + BitVec.ofNat 32 ((lead.map fun p => p.data.length).sum) }

/-- A wain that a scan-out stops enters STOPPED at a packet boundary, one without a chain at once; one with a fault to
record, or one in FAULTED or ERROR, does not (R308). -/
def Wain.settleStop (w : Wain) : Wain :=
  if w.stopReq && w.quiet && w.faulting.isNone && (w.state == .running || w.state == .waitmap || w.state == .idle) then
    { w with state := .stopped, miss := none, partDst := none, part := [], partPages := [] }
  else w

/-! ### Requests (R293, R339) -/

/-- A tag that a wain has free; 255 is that of its posted latch sets. -/
def Wain.freeTag (w : Wain) : Option Byte :=
  let used := w.packets.flatMap fun p => p.reads.map (·.1) ++ (if p.sent && !p.done then [p.tag] else [])
  ((List.range 255).find? fun t => !(used.any fun x => x.toNat == t)).map (BitVec.ofNat 8)

/-- The endpoint of a target, as a wain addresses it. -/
def State.targetEnd (s : State) : Target → Endpoint
  | .cell c => .cell c
  | .stack k => .hub (stackField k) (stackUnit k) 0
  | .host _ => .hub s.hingeField 20 0
  | .remote m _ => .hub (millField m) (millUnit m) 0

/-- An address in the space of a target's endpoint: a host window stands above its offset (R289; log entry 71). -/
def Target.meshAddr (t : Target) (a : Nat) : MeshAddr :=
  match t with
  | .host w => BitVec.ofNat 54 (w.toNat * 2 ^ 48 + a)
  | _ => BitVec.ofNat 54 a

/-- A request of a wain to an endpoint: inside its own hub it takes no link. -/
def State.wainSend (s : State) (k : Nat) (e : Endpoint) (body : Body) : State :=
  let id := wainOfKey k
  match e with
  | .hub f u _ => s.unitSend (wainField id) (wainUnit id) f u body
  | .cell _ => s.hubSend (wainField id) (wainUnit id) e body

/-- The envelope of a remote request (R339). -/
def envelope (addr rank : Nat) (latch : Option LatchId) : List Byte :=
  padBytes (leBytes 8 addr ++ leBytes 4 rank ++
    leBytes 4 (match latch with
      | some l => 2 ^ 31 + l.toNat
      | none => 0)) 32

/-- The write of a packet whose data is complete. -/
def State.sendWrite (s : State) (k : Nat) (p : WPacket) (tag : Byte) : State :=
  let n := BitVec.ofNat 8 (p.data.length - 1)
  match p.tgt with
  | .remote _ r =>
    s.wainSend k (s.targetEnd p.tgt) (.writeReq 0 (BitVec.ofNat 8 (p.data.length + 31)) false tag
      (envelope p.addr r.toNat none ++ p.data))
  | t => s.wainSend k (s.targetEnd t) (.writeReq (t.meshAddr p.addr) n false tag p.data)

/-- The reads of one packet that may leave: at most 16 outstanding for the wain. -/
def State.sendReads (s : State) (k i : Nat) : Nat → State
  | 0 => s
  | fuel + 1 =>
    let w := s.wain k
    match w.packets[i]?, w.freeTag with
    | some p, some t =>
      match p.todo with
      | [] => s
      | x :: l =>
        if 16 ≤ w.readsOut then s
        else
          let p := { p with todo := l, reads := p.reads ++ [(t, x)] }
          let s := s.setWain k { w with packets := w.packets.set i p }
          (s.wainSend k (s.targetEnd x.tgt) (.readReq (x.tgt.meshAddr x.addr) (BitVec.ofNat 8 (x.n - 1)) t)).sendReads k i fuel
    | _, _ => s

/-- Reads and writes of the packets of a wain are sent as far as they may. -/
def State.pump (s : State) (k : Nat) : State :=
  (List.range (s.wain k).packets.length).foldl (fun s i =>
    let s := s.sendReads k i 600
    let w := s.wain k
    match w.packets[i]?, w.freeTag with
    | some p, some t =>
      if p.todo.isEmpty && p.reads.isEmpty && !p.sent then
        (s.setWain k { w with packets := w.packets.set i { p with sent := true, tag := t } }).sendWrite k p t
      else s
    | _, _ => s) s

/-- Bytes read go into a packet's data (R291). -/
def WPacket.fill (p : WPacket) (x : Piece) (l : List Byte) : WPacket :=
  match x.nib with
  | none => { p with data := overlay p.data x.at_ (l.take x.n) }
  | some (hiR, hiW) =>
    let b := (l.head?.getD 0).toNat
    let v := if hiR then b / 16 else b % 16
    let old := ((p.data.drop x.at_).head?.getD 0).toNat
    { p with data := overlay p.data x.at_ [BitVec.ofNat 8 (if hiW then old % 16 + 16 * v else old / 16 * 16 + v)] }

/-- A read of a wain is answered: the packet that sent it takes the bytes. -/
def Wain.takeRead (w : Wain) (tag : Byte) (l : List Byte) : Wain :=
  { w with packets := w.packets.map fun p =>
    match p.reads.find? fun r => r.1 == tag with
    | some (_, x) => { (p.fill x l) with reads := p.reads.filter fun r => r.1 != tag }
    | none => p }

/-- A packet whose write waits for an answer under a tag. -/
def WPacket.awaits (p : WPacket) (tag : Byte) : Bool := p.sent && !p.done && p.tag == tag

/-- A write of a wain is answered: its packet is complete. -/
def Wain.takeAck (w : Wain) (tag : Byte) : Wain :=
  let ack (p : WPacket) : WPacket := if p.awaits tag then { p with done := true } else p
  { w with packets := w.packets.map ack }.advance.settleStop

/-- A wain waits for a write under a tag. -/
def Wain.awaitsAck (w : Wain) (tag : Byte) : Bool := w.packets.any fun p => p.awaits tag
/-- A wain waits for a read under a tag. -/
def Wain.awaitsRead (w : Wain) (tag : Byte) : Option Piece :=
  (w.packets.findSome? fun p => p.reads.find? fun r => r.1 == tag).map (·.2)

/-- The acknowledgement of a wain's write. -/
def State.wainAck (s : State) (k : Nat) (tag : Byte) : State :=
  let w := s.wain k
  if !w.awaitsAck tag then s
  else
    let n := ((w.packets.filter fun p => p.awaits tag).map fun p => p.data.length).sum
    let s := s.count (wainCtr k 0) n
    (s.setWain k (w.takeAck tag)).pump k

/-- The data of a wain's read. -/
def State.wainData (s : State) (k : Nat) (tag : Byte) (l : List Byte) : State :=
  if ((s.wain k).awaitsRead tag).isNone then s
  else (s.setWain k ((s.wain k).takeRead tag l)).pump k

/-- The error that a status gives a wain (R298, R306, R341). -/
def wainErrOf (t : Target) (status : BitVec 4) (data : Bool) : Nat :=
  match t with
  | .remote _ _ => 10
  | .host _ => match status.toNat with
    | 2 => 7
    | 1 => 8
    | 3 => 8
    | _ => 9
  | .stack _ => match status.toNat with
    | 3 => 3
    | 4 => if data then 4 else 6
    | 2 => 7
    | _ => 8
  | .cell _ => match status.toNat with
    | 4 => if data then 5 else 6
    | 2 => 7
    | _ => 8

/-- A response REFUSED is counted (R296). -/
def State.wainRefused (s : State) (k : Nat) : State :=
  (s.modWain k fun w => { w with refused := satAdd w.refused 1 }).count (wainCtr k 6) 1

/-- ERROR_RESP at a wain (R296, R298, R306). -/
def State.wainErrResp (s : State) (k : Nat) (tag : Byte) (status : BitVec 4) (data : Bool) : State :=
  let w := s.wain k
  match w.awaitsRead tag with
  | some x =>
    if status = 5 then (s.wainRefused k).wainData k tag (List.replicate x.n 0)
    else s.wainError k (wainErrOf x.tgt status data)
  | none =>
    if !w.awaitsAck tag then s
    else if status = 5 then (s.wainRefused k).wainAck k tag
    else
      let t := ((w.packets.filter fun p => p.awaits tag).map (·.tgt)).head?.getD (.host 0)
      s.wainError k (wainErrOf t status data)

end Sys2Proof.Machine
end

