-- ==== Sys2Proof/Machine/MillOps.lean ====
section
/-! DEFINITION. Mills: Chonel headers and packets, the rank and route tables, and the delivery of remote
operations (R319, R336 to R343). -/

namespace Sys2Proof.Machine

/-! ### Chonel headers (R340) -/

/-- A Chonel header as a slot's flit. -/
def encodeHdr (h : ChonelHdr) : Flit256 :=
  BitVec.ofNat 256 ((if h.pace then 2 ^ 192 else 0) + h.jobtag.toNat * 2 ^ 176 + h.arg.toNat * 2 ^ 168 +
    h.target.toNat * 2 ^ 151 + h.rtag.toNat * 2 ^ 131 + h.src.toNat * 2 ^ 112 + h.bytes.toNat * 2 ^ 104 +
    h.addr.toNat * 2 ^ 62 + h.endpoint.toNat * 2 ^ 44 + h.kind.toNat * 2 ^ 42 + h.dmill.toNat * 2 ^ 37 +
    h.smill.toNat * 2 ^ 32 + h.swafer.toNat * 2 ^ 20 + h.dwafer.toNat * 2 ^ 8 + h.len.toNat * 2 ^ 4 + h.ctype.toNat)

/-- Fields that a receiver reads from a header slot. -/
def flitCtype (f : Flit256) : Nat := bits f 3 0
def flitLen (f : Flit256) : Nat := bits f 7 4
def flitSwafer (f : Flit256) : WaferId := BitVec.ofNat 12 (bits f 31 20)
def flitSrc (f : Flit256) : CellId := BitVec.ofNat 19 (bits f 130 112)
def flitPace (f : Flit256) : Bool := f.getLsbD 192
def flitSubtype (f : Flit256) : Nat := bits f 170 168

/-- The link virtual channel of a packet type (R320). -/
def ctypeLvc (t : Nat) : BitVec 2 :=
  match t with
  | 0 => 1
  | 1 => 2
  | 2 => 2
  | 5 => 3
  | _ => 0

/-- A packet as slots: its header and payload slots of 32 B (R319). -/
def packetSlots (h : ChonelHdr) (payload : List Byte) : List Slot :=
  let lvc := ctypeLvc h.ctype.toNat
  ⟨lvc, true, encodeHdr h⟩ :: (List.range h.len.toNat).map fun i =>
    ⟨lvc, false, BitVec.ofNat 256 (leAt payload (32 * i) 32)⟩

/-- The wafer is throttled: the last interval of a field was charged to a reason other than SLOPE (R335,
R496). -/
def State.pacing (s : State) : Bool := s.hubs.any fun e => [1, 2, 4, 5, 6].contains e.2.power.reason

/-- A packet of a mill waits to be sent on its link; a link that is not UP loses it. -/
def State.millOut (s : State) (m : MillNo) (h : ChonelHdr) (payload : List Byte) : State :=
  let h := { h with pace := s.pacing }
  s.modMill m fun v => if v.link = 7 then { v with outq := v.outq ++ packetSlots h payload } else v

/-- The slots of a packet on an LVC leave a list: the header that matches and its payload. -/
def takeSlots (f : Flit256) (lvc : BitVec 2) (n : Nat) : List Slot → List Slot
  | [] => []
  | x :: l =>
    if x.head && x.flit == f then dropPayload lvc n l
    else x :: takeSlots f lvc n l
where
  dropPayload (lvc : BitVec 2) : Nat → List Slot → List Slot
    | 0, l => l
    | _, [] => []
    | n + 1, x :: l => if x.lvc == lvc && !x.head then dropPayload lvc n l else x :: dropPayload lvc (n + 1) l

/-- A packet is taken from a mill's accepted slots, which are freed (R321). -/
def Mill.take (v : Mill) (h : ChonelHdr) : Mill :=
  let lvc := ctypeLvc h.ctype.toNat
  let l := takeSlots (encodeHdr h) lvc h.len.toNat v.inq
  { v with
    inq := l
    freed := v.freed.set lvc.toNat (v.freed[lvc.toNat]?.getD 0 + (v.inq.length - l.length)) }

/-- The header of a packet from this wafer, with nothing else set. -/
def State.blankHdr (s : State) (m : MillNo) (ctype : Nat) (dw : WaferId) : ChonelHdr :=
  { pace := false, jobtag := s.jobtag, arg := 0, target := 0, rtag := 0, src := 0, bytes := 0, addr := 0,
    endpoint := 0, kind := 0, dmill := 0, smill := m, swafer := s.wafer, dwafer := dw, len := 0,
    ctype := BitVec.ofNat 4 ctype }

/-! ### Tables (R336 to R340) -/

def entryKind (e : Word) : Nat := bits e 31 30
def entryWafer (e : Word) : WaferId := BitVec.ofNat 12 (bits e 29 18)
def entryEndpoint (e : Word) : Nat := bits e 17 0

/-- Where a mill's copies of the rank and route tables stand (R23, R338). -/
def rankKey (m : MillNo) (r : Nat) : Nat := m.toNat * 2 ^ 21 + r
def routeKey (m : MillNo) (w : Nat) : Nat := m.toNat * 4096 + w

/-- The sending mill for a wafer and a source key, by a mill's route table: none where the route entry is not valid. -/
def State.routeMill (s : State) (m : MillNo) (w : WaferId) (key : Nat) : Option MillNo :=
  let e : Word := Store.get 0 s.routes (routeKey m w.toNat)
  if !e.msb then none
  else
    let i := key % (bits e 30 29 + 1)
    some (BitVec.ofNat 5 (bits e (5 * i + 4) (5 * i)))

/-- The source key of a requester, and its SRC with tap 0 (R340). -/
def sourceKey : Endpoint → Nat
  | .cell c => c.toNat
  | .hub f u _ => f.toNat * 64 + u.toNat
def sourceField : Endpoint → CellId
  | .cell c => c
  | .hub f u _ => BitVec.ofNat 19 ((f.toNat * 64 + u.toNat) * 128)

/-! ### Answers -/

/-- A packet from a mill to an endpoint of the mesh: inside its hub it takes no link. -/
def State.millSend (s : State) (m : MillNo) (e : Endpoint) (body : Body) : State :=
  match e with
  | .hub f u _ => s.unitSend (millField m) (millUnit m) f u body
  | .cell _ => s.hubSend (millField m) (millUnit m) e body

/-- A packet from one mill to another over the mesh (R340, R343; log entry 74). -/
def State.millForward (s : State) (m x : MillNo) (h : ChonelHdr) (src : Endpoint) (tag : Byte) (data : List Byte) : State :=
  s.unitSend (millField m) (millUnit m) (millField x) (millUnit x) (.forward h src tag data)

/-- RACK or RNAK for a received header: it leaves by the mill that the route table gives (R342, R343). -/
def State.answerRemote (s : State) (m : MillNo) (h : ChonelHdr) (status : Option Nat) : State :=
  let r := { s.blankHdr m (if status.isSome then 2 else 1) h.swafer with
    rtag := h.rtag
    dmill := h.smill
    arg := BitVec.ofNat 8 (status.getD 0) }
  match s.routeMill m h.swafer h.src.toNat with
  | some x => if x = m then s.millOut m r [] else s.millForward m x r (.hub (millField m) (millUnit m) 0) 0 []
  | none => s

/-- A mesh tag that a mill has free. -/
def Mill.freeTag (v : Mill) : Option Byte :=
  ((List.range 256).find? fun t => !(v.deliveries.any fun d => d.tag.toNat == t)).map (BitVec.ofNat 8)

/-- A delivery of a mill ends: with WRITE_ACK or an error, to the requester here or to the sending mill
(R342); operations held behind it no longer wait for it (R271). -/
def State.deliveryEnds (s : State) (m : MillNo) (tag : Byte) (status : Option (BitVec 4 × Bool)) : State :=
  let v := s.mill m
  match v.deliveries.find? fun d => d.tag == tag with
  | none => s
  | some d =>
    let s := s.setMill m { v with
      deliveries := v.deliveries.filter fun d => d.tag != tag
      heldOps := v.heldOps.map fun o => { o with waits := o.waits.filter fun t => t != tag } }
    match d.local_, status with
    | some (e, t), none => s.millSend m e (.writeAck t)
    | some (e, t), some (st, data) => s.millSend m e (.errorResp t st data)
    | none, none => s.answerRemote m d.hdr none
    | none, some (st, _) => s.answerRemote m d.hdr (some st.toNat)

/-- Operations held behind a write that is handed on wait for its tag; none where it was dropped or refused (R271). -/
def HeldOp.passed (o : HeldOp) (f : Flit256) (tag : Option Byte) : HeldOp :=
  if o.queued.contains f then { o with queued := o.queued.erase f, waits := o.waits ++ tag.toList } else o
def State.handedOn (s : State) (m : MillNo) (h : ChonelHdr) (tag : Option Byte) : State :=
  s.modMill m fun v => { v with heldOps := v.heldOps.map fun o => o.passed (encodeHdr h) tag }

/-- An error found before a remote write is handed to an endpoint. -/
def State.deliveryFails (s : State) (m : MillNo) (h : ChonelHdr) (local_ : Option (Endpoint × Byte)) (status : Nat) : State :=
  let s := s.handedOn m h none
  match local_ with
  | some (e, t) => s.millSend m e (.errorResp t (BitVec.ofNat 4 status) false)
  | none => s.answerRemote m h (some status)

/-- A remote write is handed to its destination endpoint (R342); none where the mill has no free tag. -/
def State.deliverWrite (s : State) (m : MillNo) (h : ChonelHdr) (bytes : List Byte)
    (local_ : Option (Endpoint × Byte)) : Option State :=
  match (s.mill m).freeTag with
  | none => none
  | some t =>
    let start (s : State) (e : Endpoint) (a : Nat) : State :=
      ((s.modMill m fun v => { v with deliveries := v.deliveries ++ [⟨t, h, local_⟩] }).handedOn m h (some t)).millSend m e
        (.writeReq (BitVec.ofNat 54 a) (BitVec.ofNat 8 (bytes.length - 1)) false t bytes)
    if h.kind = 1 then
      let c := mkCell (h.endpoint.toNat % 624) (h.endpoint.toNat / 624)
      if cellIdOk c then some (start s (.cell c) h.addr.toNat) else some (s.deliveryFails m h local_ 4)
    else if h.kind = 2 then
      let (s, l, x) := s.translateIn (millField m) (s.mill m).mapCache h.addr.toNat true
      let s := s.modMill m fun v => { v with mapCache := l }
      match x with
      | .phys p => some (start s (.hub (stackField (physStack p)) (stackUnit (physStack p)) 0) p)
      | .noStack => some (s.deliveryFails m h local_ 3)
      | _ => some (s.deliveryFails m h local_ 4)
    else some (s.deliveryFails m h local_ 4)

/-- An operation is held behind the earlier writes from its source: those handed on and not answered, and those that the
mill still holds, `early` (R271). -/
def State.holdOp (s : State) (m : MillNo) (wafer : WaferId) (src : CellId) (same : CellId → Bool) (f : FieldNo) (u : BitVec 6)
    (b : Body) (early : List Slot) : State :=
  s.modMill m fun v =>
    let waits := (v.deliveries.filter fun d => d.hdr.swafer == wafer && same d.hdr.src).map (·.tag)
    let queued := (early.filter fun x => x.head && flitCtype x.flit == 0 && flitSwafer x.flit == wafer && same (flitSrc x.flit)).map
      (·.flit)
    { v with heldOps := v.heldOps ++ [⟨wafer, src, u, f, b, waits, queued⟩] }

/-- The accepted slots that came before a packet. -/
def Mill.before (v : Mill) (h : ChonelHdr) : List Slot := v.inq.takeWhile fun x => !(x.head && x.flit == encodeHdr h)

/-- A tracking entry ends (R341). -/
def State.endTrack (s : State) (m : MillNo) (t : Track) (answer : Body) (failed : Bool) : State :=
  let s := s.modMill m fun v =>
    { v with
      tracks := v.tracks.filter fun x => x.index != t.index
      failedCnt := if failed then satAdd v.failedCnt 1 else v.failedCnt }
  let s := if failed then s.count (millCtr m 8) 1 else s
  s.millSend m t.src answer

/-- A tracking index that a mill has free. -/
def Mill.freeTrack (v : Mill) : Option Nat := (List.range 4096).find? fun i => !(v.tracks.any fun t => t.index == i)

/-- A remote request leaves on a mill's link, or is answered ROUTE where that link is not UP; none while no tracking entry is
free (R340, R341, R345). -/
def State.sendRemote (s : State) (m : MillNo) (h : ChonelHdr) (src : Endpoint) (tag : Byte) (data : List Byte) : Option State :=
  let v := s.mill m
  if v.link ≠ 7 then some (s.millSend m src (.errorResp tag 1 false))
  else if h.ctype = 3 then some (s.millOut m { h with smill := m } [])
  else v.freeTrack.map fun i =>
    let g := v.genAll
    let t : Track := ⟨i, g, src, tag, s.tick⟩
    let s := s.modMill m fun v => { v with tracks := v.tracks ++ [t] }
    (s.count (millCtr m 7) 1).millOut m { h with smill := m, rtag := BitVec.ofNat 20 (g.toNat * 4096 + i) } data

/-- A GATE_OP at a mill's unit, and a packet that another mill has forwarded to be sent on. -/
def gateAt (m : MillNo) (p : Packet) : Bool :=
  isFor p (.hub (millField m) (millUnit m) 0) && match p.body with
    | .gateOp .. => true
    | _ => false
def forwardAt (w : WaferId) (m : MillNo) (p : Packet) : Bool :=
  isFor p (.hub (millField m) (millUnit m) 0) && match p.body with
    | .forward h _ _ _ => h.dwafer != w
    | _ => false

/-- A mill takes from the mesh the next packet that is to leave on its link: gate operations first (R242, R276, R340,
R343). -/
def State.millTakes (s : State) (m : MillNo) : State :=
  match (frontOf (gateAt m) [] s.net).or (frontOf (forwardAt s.wafer m) [] s.net) with
  | none => s
  | some p =>
    let gone := { s with net := s.net.erase p }
    match p.body with
    | .gateOp complete g round sender wafer =>
      if s.millsOut.contains m then gone.modHub (millField m) fun h => { h with dropcnt := satAdd h.dropcnt 1 }
      else
        let h := { gone.blankHdr m 4 (wafer.getD s.wafer) with
          arg := BitVec.ofNat 8 ((if complete then 1 else 0) + 2 * round.toNat)
          target := g.setWidth 17
          src := sender.setWidth 19 }
        gone.millOut m h []
    | .forward h src tag data =>
      if s.millsOut.contains m then gone.millSend m src (.errorResp tag 2 false)
      else if h.ctype = 1 || h.ctype = 2 then gone.millOut m { h with smill := m } []
      else (gone.sendRemote m h src tag data).getD s
    | _ => s

end Sys2Proof.Machine
end

