-- ==== Sys2Proof/Machine/Remote.lean ====
section
/-! DEFINITION. Remote traffic of a mill: requests, their answers and timeouts, and the packets that
arrive on its link (R271, R339 to R343). -/

namespace Sys2Proof.Machine

/-- The rank entry of a request, with the home mill's cache of 256 (R337). -/
def State.rankEntry (s : State) (m : MillNo) (r : Rank) : State × Word :=
  let e : Word := Store.get 0 s.ranks (rankKey m r.toNat)
  (s.modMill m fun v => { v with rankCache := ((r, e) :: v.rankCache.filter fun x => x.1 != r).take 256 }, e)

/-- The WRITE_REQ that a remote request came as. -/
def isRemoteReq (m : MillNo) (r : RemoteReq) (p : Packet) : Bool :=
  sameUnit p.src r.src && isFor p (.hub (millField m) (millUnit m) 0) && match p.body with
    | .writeReq a _ _ t d => a == 0 && t == r.tag && d == envelope r.addr.toNat r.rank.toNat r.latch ++ r.data
    | _ => false

/-- REMOTE_REQUEST (R339, R340, R341, R345). Data without a free tracking entry waits (R341). -/
def execRemoteRequest (m : MillNo) (r : RemoteReq) (s : State) : Out :=
  if s.notYet (isRemoteReq m r) then .next s
  else
    let gone := s.arrived (isRemoteReq m r)
    let err (s : State) (st : BitVec 4) : State := s.millSend m r.src (.errorResp r.tag st false)
    let n := r.data.length
    if s.millsOut.contains m then .next (err gone 2)
    else if r.latch.isNone && (n = 0 || 224 < n || 256 < r.addr.toNat % 256 + n) then .next (err gone 4)
    else
      let (gone, e) := gone.rankEntry m r.rank
      if entryKind e = 0 || entryKind e = 3 then .next (err gone 4)
      else
        let w := entryWafer e
        let src := sourceField r.src
        let h := match r.latch with
          | some l => { gone.blankHdr m 3 w with src := src, target := l }
          | none => { gone.blankHdr m 0 w with
              src := src
              bytes := BitVec.ofNat 8 (n - 1)
              addr := r.addr
              endpoint := BitVec.ofNat 18 (entryEndpoint e)
              kind := BitVec.ofNat 2 (entryKind e)
              len := BitVec.ofNat 4 (flitsOf n) }
        if w = s.wafer then
          match r.latch with
          | some l =>
            .next (gone.holdOp m w src (· == src) (latchField l) 8 (.latchOp .set l false false (some w) 0) [])
          | none => match gone.deliverWrite m h r.data (some (r.src, r.tag)) with
            | some t => .next t
            | none => .next s
        else match gone.routeMill m w (sourceKey r.src) with
          | none => .next (err gone 1)
          | some x =>
            if x = m then match gone.sendRemote m h r.src r.tag r.data with
              | some t => .next t
              | none => .next s
            else .next (gone.millForward m x h r.src r.tag r.data)

/-- REMOTE_TIMEOUT (R341). -/
def execRemoteTimeout (m : MillNo) (index : BitVec 12) (s : State) : Out :=
  let v := s.mill m
  match v.tracks.find? fun t => t.index == index.toNat with
  | none => .next s
  | some t =>
    if t.since + v.rtimeout.toNat * 100000 ≤ s.tick then .next (s.endTrack m t (.errorResp t.tag 1 false) true)
    else .next s

/-- A received packet is dropped for its job tag or for its wafer; none where it is for this wafer
(R342). -/
def State.foreign (s : State) (m : MillNo) (h : ChonelHdr) : Option State :=
  if h.jobtag ≠ s.jobtag then some (s.modMill m fun v => { v with dropJob := satAdd v.dropJob 1 })
  else if h.dwafer ≠ s.wafer then
    let s := s.modMill m fun v => { v with dropBad := satAdd v.dropBad 1 }
    some (if h.ctype = 0 then s.answerRemote m h (some 1) else s)
  else none

/-- A mill holds space for the answer to one more write (R322; log entry 72). -/
def Mill.answerRoom (v : Mill) : Bool :=
  let n := (v.outq.filter fun x => x.lvc == 2).length + (v.deliveries.filter fun d => d.local_.isNone).length
  n == 0 || n ≤ Config.answerSpace

/-- WRITE (R322, R342). -/
def execWrite (m : MillNo) (h : ChonelHdr) (bytes : List Byte) (s : State) : Out :=
  if !(s.mill m).answerRoom then .next s
  else
    let gone := s.modMill m fun v => v.take h
    match gone.foreign m h with
    | some t => .next (t.handedOn m h none)
    | none =>
      match gone.deliverWrite m h (bytes.take (h.bytes.toNat + 1)) none with
      | some t => .next t
      | none => .next s

/-- An answer that another mill has forwarded to a mill (R343). -/
def forwarded (m : MillNo) (h : ChonelHdr) (p : Packet) : Bool :=
  isFor p (.hub (millField m) (millUnit m) 0) && match p.body with
    | .forward h' _ _ _ => h' == h
    | _ => false

/-- RACK and RNAK, from the link or from another mill: the tracking entry ends, or the answer is late; one for another mill
of this wafer goes on to it over the mesh (R341, R343). -/
def State.remoteAnswer (s : State) (m : MillNo) (h : ChonelHdr) (answer : Track → Body) (failed : Bool) : State :=
  if s.notYet (forwarded m h) then s
  else
    let s := if s.net.any (forwarded m h) then s.arrived (forwarded m h) else s.modMill m fun v => v.take h
    if h.dmill ≠ m then s.millForward m h.dmill h (.hub (millField m) (millUnit m) 0) 0 []
    else
      let v := s.mill m
      match v.tracks.find? fun t => t.index == h.rtag.toNat % 4096 && t.gen.toNat == h.rtag.toNat / 4096 with
      | some t => s.endTrack m t (answer t) failed
      | none => s.setMill m { v with late := satAdd v.late 1 }

/-- RACK. -/
def execRack (m : MillNo) (h : ChonelHdr) (s : State) : Out :=
  .next (s.remoteAnswer m h (fun t => .writeAck t.tag) false)

/-- RNAK: REFUSED is not a failure of the entry (ML_REMOTE.FAILED). -/
def execRnak (m : MillNo) (h : ChonelHdr) (s : State) : Out :=
  let st : BitVec 4 := h.arg.setWidth 4
  .next (s.remoteAnswer m h (fun t => .errorResp t.tag st false) (st != 5))

/-- LATCH: the set is held behind earlier writes of its source (R271, R342). -/
def execLatch (m : MillNo) (h : ChonelHdr) (s : State) : Out :=
  let early := (s.mill m).before h
  let s := s.modMill m fun v => v.take h
  match s.foreign m h with
  | some t => .next t
  | none =>
    if latchIdOk h.target then
      .next (s.holdOp m h.swafer h.src (· == h.src) (latchField h.target) 8
        (.latchOp .set h.target false false (some h.swafer) 0) early)
    else .next s

/-- The SRC of a hub's wains, for the hub of a gate (R249, R271). -/
def ofHub (g : GateId) (src : CellId) : Bool := bits src 18 13 == (gateField g).toNat

/-- GATE: an ARRIVE or COMPLETE is held in the same way, with the hub of the sending gate as its source (R271, R342; log
entry 74). -/
def execGate (m : MillNo) (h : ChonelHdr) (s : State) : Out :=
  let early := (s.mill m).before h
  let s := s.modMill m fun v => v.take h
  match s.foreign m h with
  | some t => .next t
  | none =>
    let g : GateId := h.target.setWidth 12
    let sender : GateId := h.src.setWidth 12
    if gateIdOk g then
      .next (s.holdOp m h.swafer h.src (ofHub sender) (gateField g) 9
        (.gateOp (h.arg.getLsbD 0) g (BitVec.ofNat 2 (h.arg.toNat / 2)) sender (some h.swafer)) early)
    else .next s

/-- REMOTE_LATCH_HANDOFF: the first held operation whose earlier writes are acknowledged goes to its unit
(R271). -/
def execRemoteLatchHandoff (m : MillNo) (s : State) : Out :=
  let v := s.mill m
  match v.heldOps.find? fun o => o.waits.isEmpty && o.queued.isEmpty with
  | none => .next s
  | some o =>
    .next ((s.setMill m { v with heldOps := v.heldOps.erase o }).unitSend (millField m) (millUnit m) o.field o.unit o.body)

end Sys2Proof.Machine
end

