-- ==== Sys2Proof/Machine/WainSteps.lean ====
section
/-! DEFINITION. The steps of wains: fetching descriptors, registering ranges, issuing packets, page
faults, completion (R286 to R305), and the scrubs of loft and granary (R166, R168, R298). -/

namespace Sys2Proof.Machine

/-- The shape of a wain's owning plot, 0 for a wain that no plot owns. -/
def State.ownerShape (s : State) (w : Wain) : Nat × Nat :=
  if w.owner.toNat < 96 then ((s.plot w.owner).width.toNat, (s.plot w.owner).height.toNat) else (0, 0)

/-- The descriptor is taken, unless it is malformed (R292). -/
def State.takeDescriptor (s : State) (k : Nat) (bytes : List Byte) : State :=
  let w := s.wain k
  let d := BitVec.ofNat 512 (leNat bytes)
  let (pw, ph) := s.ownerShape w
  let s := s.setWain k { w with progress := 0, issued := 0, packets := [], registered := false, ranges := [] }
  if malformed d pw ph then s.wainError k 2
  else s.modWain k fun w => { w with desc := some d, err := 0 }

/-- A page fault is met: WN_FAULT's value waits until earlier packets are complete (R303). -/
def faultWord (write prot dfetch : Bool) (a : Nat) : DWord :=
  BitVec.ofNat 64 ((if write then 2 ^ 63 else 0) + (if prot then 2 ^ 62 else 0) + (if dfetch then 2 ^ 61 else 0) + a)

/-- A translation that used a cached entry makes it the one used last (R301). -/
def Wain.touch (w : Wain) (page : Option (BitVec 21)) : Wain :=
  match page.bind fun g => cached w.cache g.toNat with
  | some e => { w with cache := cacheUse w.cache e }
  | none => w

/-- DESCRIPTOR_FETCH (R287, R289, R292, R303). -/
def execDescriptorFetch (id : WainId) (s : State) : Out :=
  let k := wainKey id
  let w := s.wain k
  if w.state ≠ .running || w.chains.isEmpty || w.desc.isSome || w.miss.isSome || w.faulting.isSome then .next s
  else if w.stopReq then .next (s.setWain k w.settleStop)
  else
    let a := w.descAddr
    match s.resolve k a 0 64 false 0 with
    | .err code => .next (s.wainError k code)
    | .miss x => .next (s.setWain k { w with state := .waitmap, miss := some (BitVec.ofNat 42 x, false, true) })
    | .fault x p => .next (s.setWain k { w with faulting := some (faultWord false p true x) })
    | .ok t x pg =>
      let s := s.setWain k (w.touch pg)
      match t with
      | .cell c =>
        if (s.cell c).lockedOut || s.isHole c then .next (s.wainError k 7)
        else if s.refusedRange c x 64 then .next (((s.countRefused c).wainRefused k).takeDescriptor k (List.replicate 64 0))
        else
          let (s, bytes, bad) := s.loftRead c x 64 2
          .next (if bad then s.wainError k 5 else s.takeDescriptor k bytes)
      | .stack n =>
        if (s.stack n).state ≠ .active then .next (s.wainError k 3)
        else
          let (s, bytes, bad) := s.granRead x 64 0
          .next (if bad then s.wainError k 4 else s.takeDescriptor k bytes)
      | _ => .next (s.wainError k 6)

/-- The lowest byte and one past the highest byte of a descriptor in the space of an address. -/
def spanOf (offs : List Nat) : Option (Nat × Nat) :=
  match offs with
  | [] => none
  | x :: l => some (l.foldl min x, l.foldl max x + 1)

/-- The bytes that a descriptor reads in one cell are one range, from the lowest to the highest (R170). -/
def joinReads : List (CellId × Nat × Nat × Bool) → List (CellId × Nat × Nat × Bool)
  | [(c, a, n, w), (d, b, m, x)] =>
    if c = d then [(c, min a b, max (a + n) (b + m) - min a b, w)] else [(c, a, n, w), (d, b, m, x)]
  | l => l

/-- The loft ranges of a descriptor: cell, start, length, and whether it is written (R170). -/
def State.descRanges (s : State) (k : Nat) (d : BitVec 512) : List (CellId × Nat × Nat × Bool) :=
  let f := wainField (wainOfKey k)
  let owner := (s.wain k).owner
  let range (a : DWord) (write : Bool) (offs : List Nat) : List (CellId × Nat × Nat × Bool) :=
    if space a = 0 then
      match s.loftTarget f owner a, spanOf offs with
      | some c, some (lo, hi) => [(c, spaceLow a + lo, hi - lo, write)]
      | _, _ => []
    else []
  let ks := List.range (dTotal d)
  let srcs := ks.flatMap fun i => srcOf d i
  let reads := range (dSrc d) false ((srcs.filter fun x => !x.code).map (·.off)) ++
    (if dCodes d then range (dScalesrc d) false ((srcs.filter fun x => x.code).map (·.off)) else [])
  range (dDst d) true (ks.map (dstOff d)) ++ joinReads reads

/-- WAIN_RANGE_REGISTER (R170, R172, R174): each cell has a free entry, and no load of it waits for the
range. A wain that finds none waits. -/
def execWainRangeRegister (id : WainId) (s : State) : Out :=
  let k := wainKey id
  let w := s.wain k
  match w.desc with
  | none => .next s
  | some d =>
    if w.registered || w.faulting.isSome || !(w.state == .running || w.state == .waitmap) then .next s
    else
      let rs := s.descRanges k d
      let room := rs.all fun r => (s.cell r.1).board.length + (rs.filter fun x => x.1 == r.1).length ≤ 8
      if !room then .next (s.setWain k { w with state := .waitmap })
      else
        let s := rs.foldl (fun s r => s.modCell r.1 fun v =>
          { v with board := v.board ++ [sbEntry r.2.1 r.2.2.1 r.2.2.2 (.wain k)] }) s
        .next (s.modWain k fun w => { w with state := .running, registered := true, ranges := (rs.map (·.1)).dedup })

/-- An access to bytes of a wain's range, by an instruction that issued before the range was registered, is unfinished
(R172). -/
def Cell.earlierOpen (v : Cell) (k : Nat) : Bool :=
  let mine := v.board.filter fun e => e.owner == .wain k
  (v.board.takeWhile fun e => e.owner != .wain k).any fun e =>
    (match e.owner with
      | .wain _ => false
      | _ => true) && mine.any fun m => rangesMeet (e.start, e.stop) (m.start, m.stop)

/-- A destination or source of a packet that is being formed lies in a host window that is going or gone (R307). -/
def State.windowLeft (s : State) (w : Wain) : Bool :=
  let gone : Target → Bool
    | .host x => (Store.find? s.windows x.toNat).all (·.closing)
    | _ => false
  (w.partDst.any fun x => gone x.1) || w.part.any fun x => gone x.tgt

/-- The pieces of a packet are translated in order, from those already translated on (R293, R301). -/
def State.formPieces (s : State) (k : Nat) (d : BitVec 512) : List RawPiece → Wain → Wain × Option Resolved
  | [], w => (w, none)
  | p :: l, w =>
    match s.resolve k (if p.code then dScalesrc d else dSrc d) p.off p.n false 0 with
    | .ok t a pg =>
      let w := w.touch pg
      s.formPieces k d l { w with part := w.part ++ [⟨t, a, p.n, p.at_, p.nib⟩], partPages := w.partPages ++ pg.toList }
    | r => (w, some r)

/-- A wain meets what a translation gives instead of an address. -/
def State.wainMeets (s : State) (k : Nat) (w : Wain) (write : Bool) : Resolved → State
  | .miss x => s.setWain k { w with state := .waitmap, miss := some (BitVec.ofNat 42 x, write, false) }
  | .fault x p => s.setWain k { w with faulting := some (faultWord write p false x) }
  | .err code => (s.setWain k w).wainError k code
  | .ok _ _ _ => s.setWain k w

/-- WAIN_PACKET_ISSUE (R172, R293, R303, R307, R308). -/
def execWainPacketIssue (id : WainId) (s : State) : Out :=
  let k := wainKey id
  let w := s.wain k
  match w.desc with
  | none => .next s
  | some d =>
    if w.state ≠ .running || !w.registered || w.miss.isSome || w.faulting.isSome || dTotal d ≤ w.issued then .next s
    else if w.stopReq then .next (s.setWain k w.settleStop)
    else if w.issued = 0 && w.ranges.any (fun c => (s.cell c).earlierOpen k) then .next s
    else if s.windowLeft w then .next (s.wainError k 9)
    else
      let lim := if space (dDst d) = 3 then 224 else 256
      let n := packetLen d w.issued lim 257 0
      let dst := match w.partDst with
        | some (t, a) => Resolved.ok t a none
        | none => s.resolve k (dDst d) (dstOff d w.issued) n true (dRank d)
      match dst with
      | .ok t a pg =>
        let w := w.touch pg
        let w := { w with partDst := some (t, a), partPages := w.partPages ++ pg.toList }
        match s.formPieces k d ((rawPieces d w.issued n).drop w.part.length) w with
        | (w, some r) => .next (s.wainMeets k w false r)
        | (w, none) =>
          let p : WPacket := { tgt := t, addr := a, data := List.replicate n 0, todo := w.part, reads := [], pages := w.partPages }
          let w := { w with packets := w.packets ++ [p], issued := w.issued + n, partDst := none, part := [], partPages := [] }
          .next (((s.setWain k w).count (wainCtr k 2) 1).pump k)
      | r => .next (s.wainMeets k w true r)

/-- MAP_ENTRY_READ (R301): the entry is cached, or the translation faults (R303). -/
def execMapEntryRead (id : WainId) (s : State) : Out :=
  let k := wainKey id
  let w := s.wain k
  match w.miss with
  | none => .next s
  | some (a, write, dfetch) =>
    let x := a.toNat
    match s.copiesFor (wainField id) with
    | [] => .next (s.wainError k 3)
    | copies =>
      match s.mapRead (pageOf x) copies with
      | (s, none) => .next (s.wainError k 4)
      | (s, some e) =>
        let w := { w with miss := none, state := .running }
        if !entryValid e then .next (s.setWain k { w with faulting := some (faultWord write false dfetch x) })
        else
          .next (s.setWain k { w with
            cache := cacheUse w.cache (BitVec.ofNat 21 (pageOf x), e) })

/-- The page fault record (R303). -/
def pageRecord (seq : Word) (id : WainId) (w : Wain) (f : DWord) : List Byte :=
  let b5 := match id with
    | .hub f _ => f.toNat
    | .mill m _ => (millField m).toNat + 64
  let b6 := match id with
    | .hub _ i => i.toNat
    | .mill m i => 2 * (m.toNat % 2) + i.toNat
  leBytes 4 seq.toNat ++ leBytes 1 w.owner.toNat ++ leBytes 1 b5 ++ leBytes 1 b6 ++
    leBytes 1 ((if f.msb then 1 else 0) + (if f.getLsbD 62 then 2 else 0) + (if f.getLsbD 61 then 4 else 0)) ++
    leBytes 8 (bits f 41 0) ++ leBytes 8 w.descAddr.toNat ++ leBytes 4 w.progress.toNat ++ leBytes 4 0

/-- WAIN_FAULTED: once earlier packets are complete, the fault is recorded and posted (R303). -/
def execWainFaulted (id : WainId) (s : State) : Out :=
  let k := wainKey id
  let w := s.wain k
  match w.faulting with
  | none => .next s
  | some f =>
    if !w.quiet then .next s
    else
      let seq := s.pageSeq
      let w := { w with state := .faulted, err := 1, fault := f, faulting := none, faultSeq := some seq, stopReq := false,
                        partDst := none, part := [], partPages := [] }
      let rec_ := pageRecord seq id w f
      let s := (s.setWain k w).count (wainCtr k 3) 1
      .next (({ s with pageSeq := seq + 1, pageFaults := s.pageFaults ++ [(seq, k, rec_)] }).notice 2 32 (padBytes rec_ 48))

/-- The chain of a wain ends: the next one starts, or the wain is IDLE (R286). -/
def Wain.endChain (w : Wain) : Wain :=
  match w.chains.drop 1 with
  | [] => { w with chains := [], state := .idle }
  | a :: l => { w with chains := a :: l, descAddr := a, state := .running, progress := 0 }

/-- The completion signals of a descriptor (R294 steps 2 and 3). -/
def State.wainSignals (s : State) (id : WainId) (d : BitVec 512) : State :=
  let k := wainKey id
  let l : LatchId := BitVec.ofNat 17 (dLatch d)
  let s := if dNlatch d then
      if dRlatch d then
        let m := s.wainMill id
        s.unitSend (wainField id) (wainUnit id) (millField m) (millUnit m)
          (.writeReq 0 31 true 255 (envelope 0 (dRank d) (some l)))
      else s.unitSend (wainField id) (wainUnit id) (latchField l) 8 (.latchOp .set l false false none 0)
    else s
  if dNflag d then
    let o := Store.get 0 (s.niOfHub (wainField id)).origins (s.wain k).owner.toNat
    s.hubSend (wainField id) (wainUnit id)
      (.cell (mkCell (lxOf o + dFlagcell d % 1024) (lyOf o + dFlagcell d / 1024 % 512))) (.event (dFlag d))
  else s

/-- DESCRIPTOR_COMPLETE (R294, R310). -/
def execDescriptorComplete (id : WainId) (s : State) : Out :=
  let k := wainKey id
  let w := s.wain k
  match w.desc with
  | none => .next s
  | some d =>
    if !(w.state == .running || w.state == .waitmap) || w.faulting.isSome || w.miss.isSome || !w.quiet ||
        (dLen d != 0 && (!w.registered || w.issued < dTotal d)) then .next s
    else
      let s := (s.releaseRanges k).wainSignals id d
      let s := s.count (wainCtr k 1) 1
      let w := { (s.wain k).drop with dcount := (s.wain k).dcount + 1 }
      let w := if dLast d then w.endChain else { w with state := .running, descAddr := dNext d, progress := 0 }
      let w := if w.dryReq && !w.chains.isEmpty then { w with state := .stopped } else w.settleStop
      let s := s.setWain k w
      .next (if w.owner.toNat < 96 then s.progress w.owner else s)

/-! ### Scrubs (R166, R168, R184, R298) -/

/-- CORRECTED_WRITE_BACK: a corrected word of a cell is written back (R166). -/
def execCorrectedWriteBack (c : CellId) (s : State) : Out :=
  match s.scrubs.find? fun w => w / 2 ^ 17 == c.toNat with
  | none => .next s
  | some w =>
    let s := { s with scrubs := s.scrubs.filter (· != w) }
    .next (if Store.get 0 s.loftErr w = 1 then { s with loftErr := Store.erase s.loftErr w } else s)

/-- LOFT_PATROL_SCRUB: one word is read; an error is corrected or logged (R166, R167, R168). -/
def execLoftPatrolScrub (c : CellId) (word : BitVec 17) (s : State) : Out :=
  if bits (s.hub (fieldOf c)).loftCtrl 3 1 = 0 then .next s
  else .next (s.checkWords c 7 [c.toNat * 2 ^ 17 + word.toNat]).1

/-- GRANARY_PATROL_SCRUB of one 64 B unit (R298). -/
def execGranaryPatrolScrub (k : StackNo) (unit : BitVec 32) (s : State) : Out :=
  if (s.stack k.toNat).state ≠ .active then .next s
  else
    let u := k.toNat * 2 ^ 32 + unit.toNat
    let (t, _) := s.checkUnits 3 [u]
    .next (if Store.get 0 s.granErr u = 1 then { t with granErr := Store.erase t.granErr u } else t)

end Sys2Proof.Machine
end

