-- ==== Sys2Proof/Machine/Winnow.lean ====
section
/-! DEFINITION. The arithmetic of threshing: HF96 elements and their residues (R350 to R352), the
winnower's operations and programs (R360 to R362), and casts to the return ranges (R364). -/

namespace Sys2Proof.Machine

/-! ### HF96 (R350, R351) -/

/-- The residue of an element, from 0 to 8,190. -/
def residue (v : BitVec 96) : BitVec 13 := BitVec.ofNat 13 (v.toInt % 8191).toNat

/-- An HF96 conversion of a binary32 element at exponent E: none for an OVERFLOW failure, and whether a
non-zero value became 0. -/
def toHF96 (e : Int) (x : Nat) : Option (BitVec 96) × Bool :=
  match decodeF .b32 x with
  | .fin neg mag exp =>
    let (r, _) := atQuantum mag exp e
    if 2 ^ 83 ≤ r then (none, false)
    else (some (BitVec.ofInt 96 (if neg then -(r : Int) else r)), mag != 0 && r == 0)
  | _ => (none, false)

/-- A verified sum as binary32 (R360). -/
def ofHF96 (e : Int) (v : BitVec 96) : Nat := (roundFin .b32 (v.toInt < 0) v.toInt.natAbs e).1

/-- The checksum of a contribution (R352). -/
def hfChecksum (l : List (BitVec 96)) : DWord := l.foldl (fun x v => x + BitVec.ofInt 64 v.toInt) 0

/-! ### The winnower (R361, R362) -/

/-- An exact quotient, with a bit that stands for what follows it. -/
def divF : FVal → FVal → FVal × AFlags
  | .nan _, _ => (.nan false, 0)
  | _, .nan _ => (.nan false, 0)
  | .inf _, .inf _ => (.nan false, flagNV)
  | .inf a, .fin b _ _ => (.inf (a != b), 0)
  | .fin a _ _, .inf b => (.fin (a != b) 0 0, 0)
  | .fin a m e, .fin b m' e' =>
    if m' = 0 then (if m = 0 then (.nan false, flagNV) else (.inf (a != b), 0))
    else
      let n := m * 2 ^ 64
      (.fin (a != b) (2 * (n / m') + (if n % m' = 0 then 0 else 1)) (e - e' - 65), 0)

/-- An exact square root, in the same way. -/
def sqrtF : FVal → FVal × AFlags
  | .nan _ => (.nan false, 0)
  | .inf neg => if neg then (.nan false, flagNV) else (.inf false, 0)
  | .fin neg m e =>
    if m = 0 then (.fin neg 0 0, 0)
    else if neg then (.nan false, flagNV)
    else
      let k : Nat := 64 + (e % 2).toNat
      let n := m * 2 ^ k
      let r := n.sqrt
      (.fin false (2 * r + (if r * r = n then 0 else 1)) ((e - k) / 2 - 1), 0)

/-- DIV. -/
def divC (a b : Nat) : Nat × AFlags :=
  let (x, y, fi) := read2 .b32 a b
  let (v, fv) := divF x y
  let (r, fr) := roundF .b32 v
  (r, fi ||| fv ||| fr)

/-- SQRT. -/
def sqrtC (a : Nat) : Nat × AFlags :=
  let (v, fv) := sqrtF (decodeF .b32 a)
  let (r, fr) := roundF .b32 v
  (r, inputFlags .b32 a ||| fv ||| fr)

/-- POWT: a constant to a positive power, rounded once. -/
def powC (a t : Nat) : Nat × AFlags :=
  let v := match decodeF .b32 a with
    | .nan x => .nan x
    | .inf neg => .inf (neg && t % 2 == 1)
    | .fin neg m e => .fin (neg && t % 2 == 1) (m ^ t) (e * t)
  let (r, fr) := roundF .b32 v
  (r, inputFlags .b32 a ||| fr)

/-- The winnower at one element: registers, streams to store, the OUT value, and NV, OF and FL events. -/
structure Winnower where
  regs : Store Nat := []
  outs : Store Nat := []
  out  : Nat := 0
  nv   : Nat := 0
  of_  : Nat := 0
  fl   : Nat := 0
  deriving DecidableEq, Repr

def Winnower.reg (x : Winnower) (i : Nat) : Nat := Store.get 0 x.regs i

/-- A result and its events. -/
def Winnower.put (x : Winnower) (d : Nat) (r : Nat × AFlags) : Winnower :=
  let one (b : Nat) : Nat := if r.2.getLsbD b then 1 else 0
  { x with regs := Store.set 0 x.regs d r.1, nv := x.nv + one 0, of_ := x.of_ + one 1, fl := x.fl + one 4 }

/-- One winnower instruction on G, the streams and the constants; `t` counts the steps that reached
winnowing. -/
def Winnower.step (g : Nat) (stream const : Nat → Nat) (t : Nat) (x : Winnower) (i : Word) : Winnower :=
  let f (hi lo : Nat) : Nat := i.toNat / 2 ^ lo % 2 ^ (hi + 1 - lo)
  let d := f 25 22
  let a := x.reg (f 21 18)
  let b := x.reg (f 17 14)
  let c := x.reg (f 13 10)
  let k := f 9 5
  match f 31 26 with
  | 0x01 => x.put d (g, 0)
  | 0x02 => x.put d (stream k, 0)
  | 0x03 => { x with outs := Store.insert x.outs k a }
  | 0x04 => x.put d (const k, 0)
  | 0x05 => x.put d (powC (const k) t)
  | 0x06 => x.put d (addC .b32 a b)
  | 0x07 => x.put d (subC .b32 a b)
  | 0x08 => x.put d (mulC .b32 a b)
  | 0x09 => x.put d (fmaC false .b32 a b c)
  | 0x0A => x.put d (divC a b)
  | 0x0B => x.put d (sqrtC a)
  | 0x0C => x.put d (minMaxC false .b32 a b)
  | 0x0D => x.put d (minMaxC true .b32 a b)
  | 0x0E => x.put d (a % 2 ^ 31, 0)
  | 0x0F => x.put d ((a + 2 ^ 31) % 2 ^ 32, 0)
  | 0x10 =>
    let (m, fl) := cmpC .lt .b32 b a
    x.put d (if m = 0 then x.reg d else c, fl)
  | 0x11 => { x with out := a }
  | _ => x

/-- A program is valid (R362). -/
def progOk (l : List Word) : Bool :=
  let op (w : Word) : Nat := w.toNat / 2 ^ 26
  let k (w : Word) : Nat := w.toNat / 2 ^ 5 % 32
  let stores := (l.filter fun w => op w == 3).map k
  1 ≤ l.length && l.length ≤ 64 &&
    (l.all fun w => op w ≤ 0x11 && w.toNat % 32 == 0 && (!(op w == 2 || op w == 3) || k w ≤ 4)) &&
    stores.Nodup && (l.filter fun w => op w == 0x11).length == 1

/-! ### Casts (R364) -/

/-- Binary32 values cast without blocks: the element codes (R116). -/
def castElems (t : ElemType) (l : List Word) : List Nat := l.map fun x => (cvtC .binary32 t x.toNat).1

/-- Elements of a block. -/
def blockLen : BlockSize → Nat
  | .b16 => 16
  | .b32 => 32
  | .b64 => 64

/-- The blocks of a list. -/
def blocksOf (n : Nat) : Nat → List Word → List (List Word)
  | 0, _ => []
  | fuel + 1, l => if l.isEmpty then [] else l.take n :: blocksOf n fuel (l.drop n)

/-- One block cast with its scale code: element codes, scale code, block losses (R121). -/
def castBlock (t : ElemType) (l : List Word) : List Nat × Nat × Nat :=
  let xs := l.map fun (x : Word) => decodeF .b32 x.toNat
  let code := blockScale t xs
  let rs := xs.map (blockElem t code)
  (rs.map (·.1), code, (rs.filter fun r => r.2.2).length)

/-- The bytes of a list of element codes of a type of whole bytes. -/
def elemBytes (t : ElemType) (l : List Nat) : List Byte := l.flatMap (leBytes (elemBits t / 8))

/-- A return range's bytes by address, and its block losses. -/
def castRange (t : ElemType) (block : Option BlockSize) (addr : Nat) (l : List Word) : List (Nat × List Byte) × Nat :=
  match block with
  | none => ([(addr, elemBytes t (castElems t l))], 0)
  | some b =>
    let bs := (blocksOf (blockLen b) l.length l).map (castBlock t)
    let es := elemBytes t (bs.flatMap (·.1))
    ([(addr, es), ((addr + es.length + 63) / 64 * 64, bs.map fun x => BitVec.ofNat 8 x.2.1)], (bs.map (·.2.2)).sum)

/-- The bytes from an address to the end of what a return record reaches: the cast elements and their codes (R346). -/
def castBytes (t : ElemType) (block : Option BlockSize) (a n : Nat) : Nat :=
  let e := n * (elemBits t / 8)
  match block with
  | none => e
  | some b => (a + e + 63) / 64 * 64 - a + n / blockLen b

/-- CRC-32C of bytes (R364; the polynomial, reflected, with all ones in and out, is log entry 23). -/
def crc32c (l : List Byte) : Word :=
  let bit (c : Nat) : Nat := (c / 2) ^^^ (c % 2 * 0x82F63B78)
  let byte (c : Nat) (b : Byte) : Nat := bit (bit (bit (bit (bit (bit (bit (bit (c ^^^ b.toNat))))))))
  ~~~(BitVec.ofNat 32 (l.foldl byte 0xFFFFFFFF))

end Sys2Proof.Machine
end

