-- ==== Sys2Proof/Machine/Thresh.lean ====
section
/-! DEFINITION. Threshing and winnowing: steps, the harvest, the sums of a node, failures and reruns,
the return and the status record (R347 to R366). -/

namespace Sys2Proof.Machine

/-! ### The running step -/

/-- The group of a mill's running step. -/
def Mill.runGroup (v : Mill) : Option (ThrRun × ThrGroup) :=
  v.run.bind fun r => (v.thrGroups.find? fun g => g.id == r.group).map fun g => (r, g)

/-- This wafer is the owner of a tensor of the group. -/
def ThrGroup.isRoot (g : ThrGroup) : Bool := g.tensors.any (·.root)

/-- Elements of the tensors before one, in record order: its place in the retention buffer. -/
def ThrGroup.base (g : ThrGroup) (i : Nat) : Nat := ((g.tensors.take i).map (·.count)).sum

def State.setRun (s : State) (m : MillNo) (r : ThrRun) : State := s.modMill m fun v => { v with run := some r }

/-- The level of this wafer's node for a tensor: 0 at the root, and elsewhere a distance that no record of this wafer's
schedule gives (R354; log entry 29). -/
def State.thrLevel (s : State) (t : ThrTensor) : BitVec 4 :=
  if t.root then 0 else if Config.treeLevel s.wafer t.id = 0 then 1 else Config.treeLevel s.wafer t.id

/-- A tree of one wafer; the size of any other rests on the schedules of other wafers (R354). -/
def ThrGroup.alone (g : ThrGroup) : Bool := g.tensors.all fun t => t.root && t.children.isEmpty

/-! ### Memory of a mill wain -/

/-- A mill wain meets a page that it cannot use: a page fault (R303). -/
def State.millFaulting (s : State) (k a : Nat) (write prot : Bool) : State :=
  s.modWain k fun w =>
    if w.faulting.isSome || w.faultSeq.isSome || w.state == .error then w
    else { w with faulting := some (faultWord write prot false a) }

/-- An error of a mill wain, once. -/
def State.millError (s : State) (k code : Nat) : State := if (s.wain k).state = .error then s else s.wainError k code

/-- The physical places of runs of granary bytes for a mill wain: none where a page fault or an error
stops it. -/
def State.millPlaces (s : State) (m : MillNo) (k : Nat) (write : Bool) : List (Nat × Nat) → State × Option (List (Nat × Nat))
  | [] => (s, some [])
  | (a, n) :: l =>
    let (s, c, x) := s.translateIn (millField m) (s.wain k).cache a write
    let s := s.modWain k fun w => { w with cache := c }
    match x with
    | .phys p =>
      match s.millPlaces m k write l with
      | (s, some ps) => (s, some ((p, n) :: ps))
      | (s, none) => (s, none)
    | .invalid => (s.millFaulting k a write false, none)
    | .readOnly => (s.millFaulting k a write true, none)
    | .noStack => (s.millError k 3, none)
    | .mapError => (s.millError k 4, none)

/-- A mill wain can move bytes for a step: no error ended it, and no FAULT_RESUME is awaited (R303, R358). -/
def Wain.moves (w : Wain) : Bool := w.faulting.isNone && w.state != .faulted && w.state != .error

/-- The physical places of runs for a mill wain that can move bytes. -/
def State.places (s : State) (m : MillNo) (k : Nat) (write : Bool) (runs : List (Nat × Nat)) : State × Option (List (Nat × Nat)) :=
  if (s.wain k).moves then s.millPlaces m k write runs else (s, none)

/-- A mill wain that works for no chain of the ward is idle when its step's work is done. -/
def Wain.rest (w : Wain) : Wain := if w.state = .running && w.chains.isEmpty then { w with state := .idle } else w

/-- The runs of `n` bytes at a granary address. -/
def runsAt (a n : Nat) : List (Nat × Nat) := pageRuns (n / 2 ^ 21 + 2) a n

/-- Bytes written at physical places. -/
def State.putPlaces (s : State) (bytes : List Byte) : List (Nat × Nat) → State
  | [] => s
  | (p, n) :: l => (s.granWrite p (bytes.take n)).putPlaces (bytes.drop n) l

/-- Bytes read at physical places; the flag says that a unit was uncorrectable. -/
def State.getPlaces (s : State) : List (Nat × Nat) → State × List Byte × Bool
  | [] => (s, [], false)
  | (p, n) :: l =>
    let (s, bytes, bad) := s.granRead p n 0
    let (s, rest, bad') := s.getPlaces l
    (s, bytes ++ rest, bad || bad')

/-- Bytes moved by a mill wain are counted. -/
def State.countMoved (s : State) (k n : Nat) : State := (s.count (wainCtr k 0) n).count (wainCtr k 2) ((n + 255) / 256)

/-- A range of `n` bytes in pieces that cross no 256 B boundary: address and length of each (R293). -/
def pieces256 : Nat → Nat → Nat → List (Nat × Nat)
  | 0, _, _ => []
  | fuel + 1, a, n =>
    if n = 0 then []
    else
      let x := min n (256 - a % 256)
      (a, x) :: pieces256 fuel (a + x) (n - x)

/-! ### Packets (R363) -/

/-- A failure's location in the payload of ABORT and STOP. -/
def failBytes (f : ThrFail) : List Byte :=
  padBytes (leBytes 2 f.cause.toNat ++ leBytes 2 f.wafer.toNat ++ leBytes 1 f.mill.toNat ++ leBytes 1 f.level.toNat ++
    leBytes 1 f.input.toNat) 32

/-- The elements of an UP packet as its payload. -/
def upPayload (res : Bool) : List (BitVec 96 × BitVec 13) → List Byte
  | [] => []
  | [x] => if res then leBytes 12 x.1.toNat ++ leBytes 12 0 ++ leBytes 8 x.2.toNat else leBytes 12 x.1.toNat
  | x :: y :: l =>
    (if res then leBytes 12 x.1.toNat ++ leBytes 12 y.1.toNat ++ leBytes 2 x.2.toNat ++ leBytes 6 y.2.toNat
     else leBytes 12 x.1.toNat ++ leBytes 12 y.1.toNat) ++ upPayload res l

/-- LEN of an UP packet of `n` elements. -/
def upLen (res : Bool) (n : Nat) : Nat := if res then (n + 1) / 2 else 3 * ((n + 7) / 8)

/-- The header of a THRESH packet of a node. -/
def State.thrHdr (s : State) (out : MillNo) (r : ThrRun) (sub : Nat) (t : ThrTensor) (dw : WaferId) (dm : MillNo)
    (len n off : Nat) : ChonelHdr :=
  { s.blankHdr out 5 dw with
    arg := BitVec.ofNat 8 (sub + r.attempt % 4 * 8 + (if r.residue then 32 else 0))
    target := BitVec.ofNat 17 (r.step % 2 ^ 16)
    rtag := BitVec.ofNat 20 (t.e % 512).toNat
    addr := BitVec.ofNat 42 (t.id.toNat * 2 ^ 30 + off)
    bytes := BitVec.ofNat 8 (n - 1)
    dmill := dm
    len := BitVec.ofNat 4 len }

/-- A link carries THRESH: it is UP and its partner reports THRESH or SWITCH. -/
def Mill.threshes (v : Mill) : Bool := v.link == 7 && v.partner.any fun p => p.thresh || p.switch

/-- A THRESH packet leaves on a link that carries THRESH, and on no other (R363). -/
def State.thrOut (s : State) (x : MillNo) (h : ChonelHdr) (payload : List Byte) : State :=
  if (s.mill x).threshes then s.millOut x h payload else s

/-- A packet to the parent of a tensor's node. -/
def State.thrUp (s : State) (r : ThrRun) (t : ThrTensor) (sub len n off : Nat) (payload : List Byte) : State :=
  s.thrOut t.upMill (s.thrHdr t.upMill r sub t t.parent t.parentMill len n off) payload

/-- A packet to each child of a tensor's node. -/
def State.thrDownTo (s : State) (r : ThrRun) (t : ThrTensor) (cs : List ThrChild) (sub len n off : Nat)
    (payload : List Byte) : State :=
  cs.foldl (fun s (c : ThrChild) => s.thrOut c.down (s.thrHdr c.down r sub t c.wafer c.mill len n off) payload) s

/-- The link to some child of a tensor does not carry THRESH (R363). -/
def State.childCut (s : State) (t : ThrTensor) : Bool := t.children.any fun c => !(s.mill c.down).threshes

/-- The children of a group, each once, with the tensor that names it first. -/
def ThrGroup.children (g : ThrGroup) : List (ThrTensor × ThrChild) :=
  (g.tensors.flatMap fun t => t.children.map fun c => (t, c)).foldl (fun l (x : ThrTensor × ThrChild) =>
    if l.any fun (y : ThrTensor × ThrChild) => y.2.wafer == x.2.wafer && y.2.mill == x.2.mill then l else l ++ [x]) []

/-- A packet to every child of the group. -/
def State.thrDownAll (s : State) (r : ThrRun) (g : ThrGroup) (sub len : Nat) (payload : List Byte) : State :=
  g.children.foldl (fun s (x : ThrTensor × ThrChild) => s.thrDownTo r x.1 [x.2] sub len 1 0 payload) s

/-! ### Failures and reruns (R357 to R359) -/

/-- A node discards its window and starts another attempt in residue mode; a harvest goes on (R349, R359). -/
def State.thrRestart (s : State) (m : MillNo) (r : ThrRun) (attempt : Nat) : State :=
  s.modMill m fun v => { v with
    thrState := if v.thrState = .harvest then .harvest else .up
    thrAttempt := BitVec.ofNat 2 attempt
    thrRerun := satAdd v.thrRerun 1
    run := some { r with attempt := attempt, residue := true, recv := [], checks := [], done := 0, summed := 0,
                         sums := [], failed := false, progress := s.tick } }

/-- A node ends its step as BAD: STOP goes down, and the status record follows. -/
def State.thrEnd (s : State) (m : MillNo) (r : ThrRun) (g : ThrGroup) (f : ThrFail) : State :=
  (s.thrDownAll r g 5 1 (failBytes f)).setRun m { r with bad := true }

/-- The root answers a failure with a rerun where it is a failed check and one is left, and otherwise with STOP (R357). -/
def State.thrAnswer (s : State) (m : MillNo) (r : ThrRun) (g : ThrGroup) (f : ThrFail) : State :=
  if (f.cause = 2 || f.cause = 3) && r.attempt < g.maxRerun then
    (s.thrDownAll { r with attempt := r.attempt + 1 } g 6 0 []).thrRestart m r (r.attempt + 1)
  else s.thrEnd m r g f

/-- A failure at a node, or one that it learns of (R357, R358): it goes up where the tensor's parent is elsewhere, once, and
the owner of a tensor answers it. A node that has failed ends on a lost link, or where no STOP follows within another
timeout (log entry 38). -/
def State.thrFail (s : State) (m : MillNo) (f : ThrFail) (tensor off : Nat) (own : Bool) : State :=
  match (s.mill m).runGroup with
  | none => s
  | some (r, g) =>
    if r.bad then s
    else if r.failed then (if own && (f.cause = 5 || f.cause = 6) then s.thrEnd m r g f else s)
    else
      let t := g.tensors[tensor]?
      let s := s.modMill m fun v => v.thrLog f ((t.map fun t => t.id.toNat).getD 0) off
      let r := { r with first := r.first.orElse fun _ => some f, progress := s.tick }
      let s := match t with
        | some t => if t.root then s else s.thrUp r t 2 1 1 0 (failBytes f)
        | none => s
      if g.isRoot then s.thrAnswer m r g f
      else if own && f.cause = 6 then s.thrEnd m r g f
      else s.setRun m { r with failed := true }

/-- A failure located at this node. -/
def State.thrFailHere (s : State) (m : MillNo) (cause input : Nat) (tensor off : Nat) : State :=
  match (s.mill m).runGroup with
  | none => s
  | some (_, g) =>
    let level := ((g.tensors[tensor]?).map s.thrLevel).getD 0
    s.thrFail m ⟨BitVec.ofNat 4 cause, s.wafer, m, level, BitVec.ofNat 4 input⟩ tensor off true

/-- A failure of a node as a whole: it names the first tensor that has a parent here, or the first. -/
def State.thrFailNode (s : State) (m : MillNo) (cause : Nat) : State :=
  match (s.mill m).runGroup with
  | none => s
  | some (_, g) => s.thrFailHere m cause 0 ((g.tensors.findIdx? fun (t : ThrTensor) => !t.root).getD 0) 0

/-- A link goes down: each node with a tree over it takes a LINK failure (R358). -/
def State.thrLinkLost (s : State) (link : MillNo) : State :=
  (List.range 32).foldl (fun s i =>
    let m : MillNo := BitVec.ofNat 5 i
    match (s.mill m).runGroup with
    | none => s
    | some (_, g) =>
      match g.tensors.findIdx? fun t => (!t.root && t.upMill == link) || t.children.any fun c => c.down == link with
      | some k => s.thrFailHere m 6 0 k 0
      | none => s) s

/-- A mill wain that ends in error is a WAIN failure of its node, and a harvest that it made is over (R358). -/
def State.thrWainEnds (s : State) (m : MillNo) : State :=
  let s := s.modMill m fun v =>
    { v with thrState := if v.thrState = .harvest && (s.wain (wainKey (.mill m 0))).state = .error then .up else v.thrState }
  s.thrFailNode m 7

/-- A mill wain of the engine is in ERROR. -/
def State.thrWainBad (s : State) (m : MillNo) : Bool :=
  (s.wain (wainKey (.mill m 0))).state == .error || (s.wain (wainKey (.mill m 1))).state == .error

/-- A WAIN failure where a mill wain is in ERROR. -/
def State.thrJudge (s : State) (m : MillNo) : State := if s.thrWainBad m then s.thrWainEnds m else s

/-- What becomes of a step when its mill wain has ended in error or runs again (R304, R358). -/
def State.thrWain (s : State) (k : Nat) : State :=
  match wainOfKey k with
  | .mill m _ => (if (s.mill m).run.isNone then s.modWain k Wain.rest else s).thrJudge m
  | _ => s

/-! ### Starting and harvesting (R347 to R349) -/

/-- The group of the lowest ID. -/
def lowestGroup : List ThrGroup → Option ThrGroup
  | [] => none
  | g :: l =>
    match lowestGroup l with
    | none => some g
    | some x => if x.id < g.id then some x else some g

/-- The cell of a segment, return range or status record: none where the loft cannot be reached, with the wain's error
(R306, R364). -/
def State.thrCell (s : State) (m : MillNo) (p : PlotId) (px py : Nat) : Except Nat CellId :=
  match s.loftTarget (millField m) p (BitVec.ofNat 64 (p.toNat * 2 ^ 53 + px * 2 ^ 43 + py * 2 ^ 34)) with
  | none => .error 6
  | some c => if (s.cell c).lockedOut || s.isHole c then .error 7 else .ok c

/-- Mill wain 0 registers a segment in use, where its cell has an entry free (R170, R174, R349; log entry 38). -/
def State.registerSeg (m : MillNo) (s : State) (sg : ThrSeg) : State :=
  match s.thrCell m sg.plot sg.px sg.py with
  | .error _ => s
  | .ok c =>
    let k := wainKey (.mill m 0)
    if 8 ≤ (s.cell c).board.length then s
    else (s.modCell c fun v => { v with board := v.board ++ [sbEntry sg.addr (4 * sg.count) false (.wain k)] }).modWain k fun w =>
      { w with registered := true, ranges := if w.ranges.contains c then w.ranges else w.ranges ++ [c] }

/-- A cell has an entry for a range of mill wain 0, and none of its own instructions still works on those bytes (R172,
R174). -/
def State.rangeClear (s : State) (m : MillNo) (n : Nat) (x : ThrSeg) : Bool :=
  match s.thrCell m x.plot x.px x.py with
  | .error _ => true
  | .ok c =>
    let v := s.cell c
    let e := sbEntry x.addr n false (.wain (wainKey (.mill m 0)))
    (v.board.length < 8 || v.board.any fun b => b.owner == e.owner) && !v.board.any fun b => (match b.owner with
      | .wain _ => false
      | _ => true) && rangesMeet (b.start, b.stop) (e.start, e.stop)

/-- THRESH_STEP_START: the waiting group of the lowest ID starts a step (R347, R348). -/
def execThreshStepStart (m : MillNo) (s : State) : Out :=
  let v := s.mill m
  if v.run.isSome then .next s
  else match lowestGroup (v.thrGroups.filter fun g => g.waiting && !g.faulted) with
    | none => .next s
    | some g =>
      let residue := match g.mode.toNat with
        | 1 => true
        | 2 => false
        | _ => g.alone || Config.autoResidue s.wafer g.id
      let r : ThrRun := { group := g.id, step := g.steps, residue := residue, progress := s.tick }
      let v := { v with
        thrGroups := v.thrGroups.map fun x => if x.id = g.id then { x with waiting := false, steps := x.steps + 1 } else x
        thrState := .harvest
        thrGroup := BitVec.ofNat 4 g.id
        thrAttempt := 0
        thrStep := BitVec.ofNat 16 g.steps
        run := some r }
      -- a mill wain in ERROR leaves it (R306)
      let fresh (w : Wain) : Wain := if w.state = .error then { w with state := .idle, err := 0 } else w
      let s := (s.setMill m v).modWain (wainKey (.mill m 0)) fun w =>
        let w := fresh w
        if w.moves then { w with state := .running } else w
      let s := s.modWain (wainKey (.mill m 1)) fresh
      .next ((g.tensors.flatMap (·.segs)).foldl (State.registerSeg m) s)

/-- What a harvest has taken: elements with residues, the first OVERFLOW, lost conversions, the error of
a read. -/
structure Harvest where
  elems : List (BitVec 96 × BitVec 13) := []
  ovf   : Option Nat := none
  lost  : Nat := 0
  err   : Option Nat := none
  deriving DecidableEq, Repr

/-- One element of a segment. -/
def State.harvestElem (s : State) (e : Int) (x : Harvest × Nat) (w : Nat) : Harvest × Nat :=
  let (h, n) := x
  match toHF96 e w with
  | (some v, lost) => ({ h with elems := h.elems ++ [(v, residue v)], lost := h.lost + (if lost then 1 else 0) }, n)
  | (none, _) =>
    let v := Config.overflowElem (s.drawn + n)
    ({ h with elems := h.elems ++ [(v, residue v)], ovf := h.ovf.orElse fun _ => some h.elems.length }, n + 1)

/-- Packets of a range that meet an unclaimed window count as refused for mill wain 0 (R181, R296). -/
def State.millRefused (s : State) (m : MillNo) (c : CellId) (ps : List (Nat × Nat)) : State :=
  (ps.filter fun p => s.refusedRange c p.1 p.2).foldl (fun s _ => s.wainRefused (wainKey (.mill m 0))) s

/-- One segment is read, converted and cleared (R349). -/
def State.harvestSeg (m : MillNo) (e : Int) (x : State × Harvest) (sg : ThrSeg) : State × Harvest :=
  let (s, h) := x
  match s.thrCell m sg.plot sg.px sg.py with
  | .error code => (s, { h with err := h.err.orElse fun _ => some code })
  | .ok c =>
    let ps := pieces256 (4 * sg.count + 1) sg.addr (4 * sg.count)
    let s := (s.millRefused m c ps).millRefused m c ps
    let (s, bytes, bad) := s.loftRead c sg.addr (4 * sg.count) 2
    let (h, drawn) := ((List.range sg.count).map fun i => leAt bytes (4 * i) 4).foldl (s.harvestElem e) (h, 0)
    let s := ({ s with drawn := s.drawn + drawn }).loftWrite c sg.addr (List.replicate (4 * sg.count) (some 0))
    (s, if bad then { h with err := h.err.orElse fun _ => some 5 } else h)

/-- A tensor's contribution enters its window (R353) with its checksum (R352). -/
def ThrRun.putOwn (r : ThrRun) (i : Nat) (l : List (BitVec 96 × BitVec 13)) : ThrRun :=
  { r with
    recv := Store.insert r.recv (16 * i) l
    checks := Store.insert r.checks (16 * i) (hfChecksum (l.map (·.1))) }

/-- The bytes of an element in the retention buffer. -/
def retainBytes (x : BitVec 96 × BitVec 13) : List Byte := leBytes 12 x.1.toNat ++ leBytes 4 x.2.toNat

/-- The tensors of a group are harvested in record order; the first OVERFLOW with its tensor is kept. -/
def State.harvestAll (s : State) (m : MillNo) (g : ThrGroup) : State × List Harvest :=
  g.tensors.foldl (fun (x : State × List Harvest) t =>
    let (s, h) := t.segs.foldl (State.harvestSeg m t.e) (x.1, {})
    (s, x.2 ++ [h])) (s, [])

/-- Contributions are read back from the retention buffer, through mill wain 1 (R359). -/
def State.reloadOwn (s : State) (m : MillNo) (r : ThrRun) (g : ThrGroup) : State × Option ThrRun :=
  let k := wainKey (.mill m 1)
  let total := g.base g.tensors.length
  match s.places m k false (runsAt g.retention (16 * total)) with
  | (s, none) => (s, none)
  | (s, some ps) =>
    let (s, bytes, bad) := s.getPlaces ps
    if bad then (s.millError k 4, none)
    else
      let elem (i : Nat) : BitVec 96 × BitVec 13 := (BitVec.ofNat 96 (leAt bytes (16 * i) 12), BitVec.ofNat 13 (leAt bytes (16 * i + 12) 4))
      let r := (List.range g.tensors.length).foldl (fun (r : ThrRun) i =>
        r.putOwn i ((List.range (((g.tensors[i]?).map (·.count)).getD 0)).map fun j => elem (g.base i + j))) r
      (s, some r)

/-! ### The sums of a node (R353 to R355) -/

/-- Sums of tensor `i` that wait go up in packets of 14 or 16 elements, the last one shorter. -/
def State.sendSums (s : State) (m : MillNo) (t : ThrTensor) (i : Nat) (last : Bool) : Nat → State
  | 0 => s
  | fuel + 1 =>
    match (s.mill m).run with
    | none => s
    | some r =>
      let l := Store.get [] r.sums i
      let n := min l.length (if r.residue then 14 else 16)
      if n = 0 || (!last && n < (if r.residue then 14 else 16)) then s
      else
        let off := r.summed - l.length
        let es := (l.take n).map fun v => (v, residue v)
        let s := s.thrUp r t 0 (upLen r.residue n) n off (upPayload r.residue es)
        let s := s.count (millCtr m 9) n
        (s.setRun m { r with sums := Store.insert r.sums i (l.drop n) }).sendSums m t i last fuel

/-- The inputs of a tensor: keys of its own contribution and of its children. -/
def ThrTensor.inputs (t : ThrTensor) (i : Nat) : List Nat := (List.range (t.children.length + 1)).map fun j => 16 * i + j

/-- The next elements that every input has delivered are added, one after the other; a failed adder check
stops (R354). -/
def addElems (res : Bool) : List (List (BitVec 96 × BitVec 13)) → Nat → List (BitVec 96) × Bool
  | _, 0 => ([], false)
  | ls, n + 1 =>
    let heads := ls.filterMap List.head?
    let v := (heads.map (·.1)).foldl (· + ·) 0
    let ok := (heads.map fun x => x.2.toNat).sum % 8191 == (residue v).toNat
    if res && !ok then ([], true)
    else
      let (l, bad) := addElems res (ls.map fun l => l.drop 1) n
      (v :: l, bad)

/-- The checksum stage of a tensor whose elements are all summed: the subtree's checksum, none where an
input's is missing. -/
def ThrRun.subtree (r : ThrRun) (t : ThrTensor) (i : Nat) : Option DWord :=
  if r.residue then some 0
  else
    let cs := (t.inputs i).map fun k => Store.find? r.checks k
    if cs.all Option.isSome then some ((cs.filterMap id).foldl (· + ·) 0) else none

/-- Sums of a tensor go to the sum buffer as binary32, through mill wain 1 (R353, R360); false where a page fault or an
error stops it. -/
def State.putSums (s : State) (m : MillNo) (t : ThrTensor) (off : Nat) (l : List (BitVec 96)) : State × Bool :=
  let k := wainKey (.mill m 1)
  match s.places m k true (runsAt (t.sum + 4 * off) (4 * l.length)) with
  | (s, none) => (s, false)
  | (s, some ps) =>
    let s := s.putPlaces (l.flatMap fun v => leBytes 4 (ofHF96 t.e v)) ps
    ((s.countMoved k (4 * l.length)).modWain k Wain.rest, true)

/-- Every tensor of the group is summed: the root reaches winnowing, once in a step, and any other node waits for the
values (R360, R361). -/
def State.thrSummed (s : State) (m : MillNo) (r : ThrRun) (g : ThrGroup) : State :=
  if g.isRoot then
    s.modMill m fun v => { v with
      thrState := .winnow
      run := some { r with reached := true }
      thrGroups := if r.reached then v.thrGroups
        else v.thrGroups.map fun x => if x.id = g.id then { x with winnowed := x.winnowed + 1 } else x }
  else s.modMill m fun v => { v with thrState := .down }

/-- A node works through its tensors as far as its inputs allow. -/
def State.thrAdvance (s : State) (m : MillNo) : Nat → State
  | 0 => s
  | fuel + 1 =>
    match (s.mill m).runGroup with
    | none => s
    | some (r, g) =>
      let i := r.done
      if (s.mill m).thrState ≠ .up || r.bad || r.failed then s
      else match g.tensors[i]? with
        | none => s.thrSummed m r g
        | some t =>
          if (Store.find? r.recv (16 * i)).isNone then s
          else if !t.root && !(s.mill t.upMill).threshes then s.thrFailHere m 6 0 i r.summed
          else
            let ls := (t.inputs i).map fun k => Store.get [] r.recv k
            let n := ls.foldl (fun n l => min n l.length) t.count
            let (vs, bad) := addElems r.residue ls n
            let early := t.root && r.residue
            -- the root writes an element once its adder check has passed
            let (s, put) := if early then s.putSums m t r.summed vs else (s, true)
            if !put then s.thrJudge m
            else
              let old := Store.get [] r.sums i
              let chi := Store.get (0 : DWord) r.checks (16 * i + 15) + hfChecksum vs
              let r := { r with
                recv := (t.inputs i).foldl (fun (x : Store (List (BitVec 96 × BitVec 13))) k =>
                  Store.insert x k ((Store.get [] x k).drop vs.length)) r.recv
                sums := if early then r.sums else Store.insert r.sums i (old ++ vs)
                checks := Store.insert r.checks (16 * i + 15) chi
                summed := r.summed + vs.length }
              let s := s.setRun m r
              let whole := r.summed == t.count
              let s := if t.root then s else s.sendSums m t i whole (t.count + 1)
              if bad then s.thrFailHere m 2 15 i r.summed
              else if !whole then s
              else match r.subtree t i with
                | none => s
                | some x =>
                  if t.root && !r.residue && x != chi then s.thrFailHere m 3 15 i 0
                  else
                    let (s, put) := if t.root && !r.residue then s.putSums m t 0 (old ++ vs) else (s, true)
                    if !put then s.thrJudge m
                    else
                      let s := if t.root then s else s.thrUp r t 1 1 1 0 (padBytes (leBytes 8 x.toNat) 32)
                      let s := match (s.mill m).run with
                        | some r => s.setRun m { r with done := r.done + 1, summed := 0 }
                        | none => s
                      s.thrAdvance m fuel

/-- As many rounds of R353 as a group has tensors. -/
def State.thrWork (s : State) (m : MillNo) : State :=
  match (s.mill m).runGroup with
  | some (_, g) => s.thrAdvance m (g.tensors.length + 1)
  | none => s

/-- The first element of the node's own contribution whose residue is wrong: tensor and element (R354). -/
def ThrRun.badOwn (r : ThrRun) (g : ThrGroup) : Option (Nat × Nat) :=
  (List.range g.tensors.length).findSome? fun i =>
    ((Store.get [] r.recv (16 * i)).findIdx? fun (x : BitVec 96 × BitVec 13) => x.2 != Sys2Proof.Machine.residue x.1).map fun n => (i, n)

/-- A node works on once its contribution is there: a rerun's is read back from the retention buffer (R359). A WAIN failure
and an OVERFLOW are failures of every attempt. -/
def State.thrResume (s : State) (m : MillNo) : State :=
  match (s.mill m).runGroup with
  | some (r, g) =>
    if (s.mill m).thrState = .harvest || r.bad || r.failed then s
    else if s.thrWainBad m then s.thrWainEnds m
    else match r.ovf with
      | some (i, off) => s.thrFailHere m 1 0 i off
      | none =>
        if (Store.find? r.recv 0).isSome then s.thrWork m
        else match s.reloadOwn m r g with
          | (s, some r) =>
            let s := (s.setRun m r).modWain (wainKey (.mill m 1)) Wain.rest
            match r.badOwn g with
            | some (i, off) => s.thrFailHere m 2 0 i off
            | none => s.thrWork m
          | (s, none) => s.thrJudge m
  | none => s

/-- The segments of a group are harvested to the retention buffer, the harvest latch is set, and the node works on (R349). -/
def State.thrHarvest (s : State) (m : MillNo) (r : ThrRun) (g : ThrGroup) : State :=
  let k := wainKey (.mill m 0)
  let total := 16 * g.base g.tensors.length
  match s.places m k true (runsAt g.retention total) with
  | (s, none) => s.thrJudge m
  | (s, some ps) =>
    let (s, hs) := s.harvestAll m g
    let s := (s.putPlaces (hs.flatMap fun h => h.elems.flatMap retainBytes) ps).countMoved k total
    let r := (hs.zipIdx).foldl (fun (r : ThrRun) x => r.putOwn x.2 x.1.elems)
      { r with progress := s.tick, ovf := hs.zipIdx.findSome? fun x => x.1.ovf.map fun n => (x.2, n) }
    let s := s.modMill m fun v => { v with
      run := some r
      thrState := .up
      thrLost := satAdd v.thrLost ((hs.map (·.lost)).sum) }
    let s := ((s.releaseRanges k).modWain k Wain.rest).latchSet g.harvest
    (match hs.findSome? Harvest.err with
      | some code => s.millError k code
      | none => s).thrResume m

/-- HARVEST_COMPLETE (R349), once no instruction of a cell works on a segment (R172); for a rerun, the contribution has been
read from the retention buffer (R359). -/
def execHarvestComplete (m : MillNo) (s : State) : Out :=
  match (s.mill m).runGroup with
  | none => .next s
  | some (r, g) =>
    if (s.mill m).thrState = .up then .next (s.thrResume m)
    else if (s.mill m).thrState ≠ .harvest then .next s
    else if (g.tensors.flatMap (·.segs)).all fun x => s.rangeClear m (4 * x.count) x then .next (s.thrHarvest m r g)
    else .next s

/-! ### Packets that arrive (R357, R359, R363, R364) -/

/-- Fields of a THRESH header. -/
def hdrTensor (h : ChonelHdr) : Nat := h.addr.toNat / 2 ^ 30
def hdrAttempt (h : ChonelHdr) : Nat := h.arg.toNat / 8 % 4
def hdrStep (h : ChonelHdr) : Nat := h.target.toNat % 2 ^ 16

/-- What a mill does with a THRESH packet: drop or pass it on, hold it, count it as stale, or take it for a
tensor of the running step. -/
inductive ThrTake where
  | gone (s : State)
  | hold
  | take (s : State) (r : ThrRun) (g : ThrGroup) (i : Nat) (t : ThrTensor)

/-- A THRESH packet that another mill of the wafer has forwarded leaves the mesh, and any other leaves the mill's accepted
slots (R353, R363). -/
def State.thrLeaves (s : State) (m : MillNo) (h : ChonelHdr) : State :=
  if s.net.any (forwarded m h) then s.arrived (forwarded m h) else s.modMill m fun v => v.take h

/-- A THRESH packet at a mill (R359, R363): `attempt` says which attempts of the running step it belongs
to. A packet of a step that this wafer has yet to start is held (R353), and so is one of an attempt that it has yet to
join, where `later` says so. -/
def State.thrTake (s : State) (m : MillNo) (h : ChonelHdr) (payload : List Byte) (attempt : Nat → Bool) (later : Bool) : ThrTake :=
  if s.notYet (forwarded m h) then .hold
  else
    let gone := s.thrLeaves m h
    match gone.foreign m h with
    | some t => .gone t
    | none =>
      if h.dmill ≠ m then .gone (gone.millForward m h.dmill h (.hub (millField m) (millUnit m) 0) 0 payload)
      else
        let v := s.mill m
        let stale := gone.modMill m fun v => { v with thrStale := satAdd v.thrStale 1 }
        match v.thrGroups.find? fun g => g.tensors.any fun t => t.id.toNat == hdrTensor h with
        | none => .gone stale
        | some g =>
          match v.run with
          | some r =>
            if r.group = g.id && hdrStep h == r.step % 2 ^ 16 then
              if later && r.attempt < hdrAttempt h && !r.bad then .hold
              else if !attempt r.attempt then .gone stale
              else match g.tensors.findIdx? fun t => t.id.toNat == hdrTensor h with
                | some i => match g.tensors[i]? with
                  | some t => .take (gone.setRun m { r with progress := s.tick }) { r with progress := s.tick } g i t
                  | none => .gone stale
                | none => .gone stale
            else if hdrStep h == g.steps % 2 ^ 16 && !g.faulted then .hold else .gone stale
          | none => if hdrStep h == g.steps % 2 ^ 16 && !g.faulted then .hold else .gone stale

/-- The input of a tensor that a packet comes from. -/
def ThrTensor.inputOf (t : ThrTensor) (h : ChonelHdr) : Option Nat :=
  (t.children.findIdx? fun c => c.wafer == h.swafer).map (· + 1)

/-- Elements of an input that wait to be summed, over all tensors. -/
def ThrRun.window (r : ThrRun) (j : Nat) : Nat := ((r.recv.filter fun e => e.1 % 16 == j).map fun e => e.2.length).sum

/-- A packet's E differs from the tensor record's (R356). -/
def ThrTensor.otherE (t : ThrTensor) (h : ChonelHdr) : Bool := h.rtag.toNat % 512 != (t.e % 512).toNat

/-- An EXP failure, located at the input that the packet comes from (R356). -/
def State.expFail (s : State) (m : MillNo) (h : ChonelHdr) (i : Nat) (t : ThrTensor) : State :=
  s.thrFailHere m 4 ((t.inputOf h).getD 0) i (h.addr.toNat % 2 ^ 30)

/-- UP (R353, R354, R356). -/
def execUp (m : MillNo) (h : ChonelHdr) (elems : List (BitVec 96 × BitVec 13)) (s : State) : Out :=
  match s.thrTake m h (upPayload (h.arg.getLsbD 5) elems) (fun a => a == hdrAttempt h) true with
  | .gone t => .next t
  | .hold => .next s
  | .take t r g i x =>
    if r.bad || r.failed || g.tensors.isEmpty then .next t
    else match x.inputOf h with
      | none => .next (t.modMill m fun v => { v with thrStale := satAdd v.thrStale 1 })
      | some j =>
        if 16384 < r.window j + elems.length then .next s
        else
          let t := t.count (millCtr m 10) elems.length
          if x.otherE h then .next (t.expFail m h i x)
          else match elems.findIdx? fun e => r.residue && e.2 != residue e.1 with
            | some n => .next (t.thrFailHere m 2 j i (h.addr.toNat % 2 ^ 30 + n))
            | none =>
              let key := 16 * i + j
              .next ((t.setRun m { r with recv := Store.insert r.recv key (Store.get [] r.recv key ++ elems) }).thrWork m)

/-- UPEND (R355, R356). -/
def execUpend (m : MillNo) (h : ChonelHdr) (checksum : DWord) (s : State) : Out :=
  match s.thrTake m h (padBytes (leBytes 8 checksum.toNat) 32) (fun a => a == hdrAttempt h) true with
  | .gone t => .next t
  | .hold => .next s
  | .take t r _ i x =>
    if r.bad || r.failed then .next t
    else match x.inputOf h with
      | none => .next (t.modMill m fun v => { v with thrStale := satAdd v.thrStale 1 })
      | some j =>
        if x.otherE h then .next (t.expFail m h i x)
        else .next ((t.setRun m { r with checks := Store.insert r.checks (16 * i + j) checksum }).thrWork m)

/-- ABORT (R356, R357). -/
def execAbort (m : MillNo) (h : ChonelHdr) (f : ThrFail) (s : State) : Out :=
  match s.thrTake m h (failBytes f) (fun a => a == hdrAttempt h) true with
  | .gone t => .next t
  | .hold => .next s
  | .take t _ _ i x => .next ((if x.otherE h then t.expFail m h i x else t.thrFail m f i 0 false).thrResume m)

/-- RERUN (R356, R359, R363). -/
def execRerun (m : MillNo) (h : ChonelHdr) (s : State) : Out :=
  match s.thrTake m h [] (fun a => a < hdrAttempt h) false with
  | .gone t => .next t
  | .hold => .next s
  | .take t r g i x =>
    if r.bad then .next t
    else if x.otherE h then .next (t.expFail m h i x)
    else
      let t := (t.thrDownAll { r with attempt := hdrAttempt h, residue := true } g 6 0 []).thrRestart m r (hdrAttempt h)
      match g.tensors.findIdx? t.childCut with
      | some k => .next (t.thrFailHere m 6 0 k 0)
      | none => .next (t.thrResume m)

/-- STOP (R356, R357): one with another E still ends the step. -/
def execStop (m : MillNo) (h : ChonelHdr) (f : ThrFail) (s : State) : Out :=
  match s.thrTake m h (failBytes f) (fun _ => true) false with
  | .gone t => .next t
  | .hold => .next s
  | .take t r g i x =>
    if r.bad then .next t
    else
      let t := if x.otherE h then t.expFail m h i x else t
      let f := if x.otherE h then ((t.mill m).run.bind (·.first)).getD f else f
      .next ((t.thrDownAll r g 5 1 (failBytes f)).setRun m { r with bad := true, first := r.first.orElse fun _ => some f })

/-- NODE_TIMEOUT (R358). -/
def execNodeTimeout (m : MillNo) (s : State) : Out :=
  match (s.mill m).runGroup with
  | none => .next s
  | some (r, g) => if r.progress + g.timeout * 100000 ≤ s.tick then .next (s.thrFailNode m 5) else .next s

/-! ### Winnowing and the return (R360, R361, R364) -/

/-- The bytes of a list of pieces. -/
def cutPieces (a : Nat) (bytes : List Byte) (p : Nat × Nat) : List Byte := (bytes.drop (p.1 - a)).take p.2

/-- One return record is cast and written by mill wain 0 (R364). -/
def State.thrReturnOne (m : MillNo) (t : ThrTensor) (vals : List Word) (s : State) (x : ThrSeg) : State :=
  let k := wainKey (.mill m 0)
  if !(s.wain k).moves then s
  else match s.thrCell m x.plot x.px x.py with
    | .error code => s.millError k code
    | .ok c =>
      let (parts, losses) := castRange t.cast t.block x.addr ((vals.drop x.first).take x.count)
      let ps := parts.flatMap fun (p : Nat × List Byte) =>
        (pieces256 (p.2.length + 1) p.1 p.2.length).map fun q => (q.1, cutPieces p.1 p.2 q)
      let cut := ps.map fun (p : Nat × List Byte) => (p.1, p.2.length)
      let refused := (cut.filter fun p => s.refusedRange c p.1 p.2).length
      let s := s.millRefused m c cut
      let s := ps.foldl (fun s (p : Nat × List Byte) => s.loftWrite c p.1 (p.2.map some)) s
      let s := s.countMoved k ((cut.map (·.2)).sum)
      match (s.mill m).run with
      | some r => s.setRun m { r with refused := r.refused + refused, losses := r.losses + losses }
      | none => s

/-- The return ranges of a tensor are free for mill wain 0 (R170, R172, R174). -/
def State.retsClear (s : State) (m : MillNo) (t : ThrTensor) : Bool :=
  t.rets.all fun x => s.rangeClear m (castBytes t.cast t.block x.addr x.count) x

/-- The values of a tensor are delivered here; a mill wain that fails is a WAIN failure (R358). -/
def State.thrReturn (s : State) (m : MillNo) (i : Nat) (t : ThrTensor) (vals : List Word) : State :=
  let s := t.rets.foldl (State.thrReturnOne m t vals) s
  if s.thrWainBad m then s.thrFailHere m 7 0 i 0
  else match (s.mill m).run with
    | some r => s.setRun m { r with ended := r.ended ++ [i], progress := s.tick }
    | none => s

/-- The bytes of binary32 values in element order. -/
def wordsBytes (l : List Word) : List Byte := l.flatMap fun x => leBytes 4 x.toNat

/-- DOWN packets of a tensor, each of up to 56 values, then DOWNEND. -/
def State.thrSendDown (s : State) (r : ThrRun) (t : ThrTensor) (vals : List Word) : State :=
  let s := (List.range ((vals.length + 55) / 56)).foldl (fun s i =>
    let l := (vals.drop (56 * i)).take 56
    s.thrDownTo r t t.children 3 ((l.length + 7) / 8) l.length (56 * i) (wordsBytes l)) s
  s.thrDownTo r t t.children 4 1 1 0 (padBytes (leBytes 4 (crc32c (wordsBytes vals)).toNat) 32)

/-- The words of a list of bytes. -/
def wordsIn (l : List Byte) (n : Nat) : List Nat := (List.range n).map fun i => leAt l (4 * i) 4

/-- A tensor is winnowed: the program runs on each element of the sum buffer, the streams that it stores are written back,
and its OUT values are the result; none where a page fault or an error stops mill wain 1 (R361). -/
def State.winnowOne (s : State) (m : MillNo) (t : ThrTensor) (count : Nat) :
    State × Option (List Word × Nat × Nat × Nat) :=
  let k := wainKey (.mill m 1)
  let n := t.count
  let used (i : Nat) (op : Nat) : Bool := t.prog.any fun w => bits w 31 26 == op && bits w 9 5 == i
  let named := (List.range 5).filter fun i => used i 2 || used i 3
  let addr (i : Nat) : Nat := (t.streams[i]?).getD 0
  match s.places m k false (runsAt t.sum (4 * n)) with
  | (s, none) => (s, none)
  | (s, some ps) =>
    let (s, places) := named.foldl (fun (x : State × Option (Store (List (Nat × Nat)))) i =>
      match x with
      | (s, none) => (s, none)
      | (s, some l) =>
        match s.places m k (used i 3) (runsAt (addr i) (4 * n)) with
        | (s, some p) => (s, some (Store.insert l i p))
        | (s, none) => (s, none)) (s, some [])
    match places with
    | none => (s, none)
    | some places =>
      let (s, sums, lost) := s.getPlaces ps
      let gs := wordsIn sums n
      let (s, streams, bad) := named.foldl (fun (x : State × Store (List Nat) × Bool) i =>
        let (s, l, bad) := x
        let (s, bytes, b) := s.getPlaces (Store.get [] places i)
        (s, Store.insert l i (wordsIn bytes n), bad || b)) (s, [], lost)
      if bad then (s.millError k 4, none)
      else
        let const (i : Nat) : Nat := ((t.consts[i]?).map BitVec.toNat).getD 0
        let one (e : Nat) : Winnower :=
          t.prog.foldl (Winnower.step ((gs[e]?).getD 0) (fun i => ((Store.get [] streams i)[e]?).getD 0) const count) {}
        let xs := (List.range n).map one
        let s := (named.filter fun i => used i 3).foldl (fun s i =>
          s.putPlaces (xs.flatMap fun x => leBytes 4 (Store.get 0 x.outs i)) (Store.get [] places i)) s
        ((s.countMoved k (4 * n)).modWain k Wain.rest,
          some (xs.map fun x => BitVec.ofNat 32 x.out, (xs.map (·.nv)).sum, (xs.map (·.of_)).sum, (xs.map (·.fl)).sum))

/-- The values of a winnowed tensor go down, and are delivered here; a child whose link does not carry THRESH is a LINK
failure (R363, R364). -/
def State.winnowed (s : State) (m : MillNo) (i : Nat) (t : ThrTensor) (r : ThrRun) (vals : List Word) : State :=
  let s := (s.setRun m r).thrSendDown r t vals
  (if s.childCut t then s.thrFailHere m 6 0 i 0 else s).thrReturn m i t vals

/-- The tensors of which this wafer is the owner are winnowed in record order. -/
def State.winnowAll (m : MillNo) (count : Nat) : List (ThrTensor × Nat) → State → State × Bool
  | [], s => (s, true)
  | (t, i) :: l, s =>
    match (s.mill m).run with
    | none => (s, true)
    | some r =>
      if !t.root || r.ended.contains i then State.winnowAll m count l s
      else if r.bad || r.failed || !s.retsClear m t then (s, false)
      else match s.winnowOne m t count with
        | (s, none) => (s, false)
        | (s, some (vals, nv, of_, fl)) =>
          State.winnowAll m count l (s.winnowed m i t { r with nv := r.nv + nv, of_ := r.of_ + of_, fl := r.fl + fl } vals)

/-- WINNOW (R360, R361, R364). -/
def execWinnow (m : MillNo) (s : State) : Out :=
  match (s.mill m).runGroup with
  | none => .next s
  | some (r, g) =>
    if (s.mill m).thrState ≠ .winnow || r.bad || r.failed then .next s
    else
      let (t, whole) := State.winnowAll m g.winnowed g.tensors.zipIdx s
      if whole then .next (t.modMill m fun v => { v with thrState := .down })
      else .next (t.thrJudge m)

/-- DOWN (R356, R363, R364). -/
def execDown (m : MillNo) (h : ChonelHdr) (elems : List Word) (s : State) : Out :=
  match s.thrTake m h (wordsBytes elems) (fun a => a == hdrAttempt h) true with
  | .gone t => .next t
  | .hold => .next s
  | .take t r _ i x =>
    if r.bad || x.root then .next t
    else if x.otherE h then .next (t.expFail m h i x)
    else
      let t := t.thrDownTo r x x.children 3 h.len.toNat elems.length (h.addr.toNat % 2 ^ 30) (wordsBytes elems)
      let t := t.setRun m { r with vals := Store.insert r.vals i (Store.get [] r.vals i ++ elems) }
      if t.childCut x then .next (t.thrFailHere m 6 0 i 0) else .next t

/-- DOWNEND (R356, R364), once no instruction of a cell works on a return range (R172): a wrong CRC is recorded, and what was
received is written. -/
def execDownend (m : MillNo) (h : ChonelHdr) (crc : Word) (s : State) : Out :=
  match s.thrTake m h (padBytes (leBytes 4 crc.toNat) 32) (fun a => a == hdrAttempt h) true with
  | .gone t => .next t
  | .hold => .next s
  | .take t r _ i x =>
    if r.bad || x.root then .next t
    else if x.otherE h then .next (t.expFail m h i x)
    else if !t.retsClear m x then .next s
    else
      let vals := Store.get [] r.vals i
      let t := t.thrDownTo r x x.children 4 1 1 0 (padBytes (leBytes 4 crc.toNat) 32)
      let f : ThrFail := ⟨10, t.wafer, m, t.thrLevel x, 0⟩
      let t := if crc = crc32c (wordsBytes vals) then t
        else (t.modMill m fun v => v.thrLog f x.id.toNat 0).setRun m { r with first := r.first.orElse fun _ => some f }
      .next ((if t.childCut x then t.thrFailHere m 6 0 i 0 else t).thrReturn m i x vals)

/-- A step may end: every return range is written, or STOP has come, and a harvest is over unless its wain cannot go on
(R349, R358, R365). -/
def State.thrOver (s : State) (m : MillNo) (r : ThrRun) (g : ThrGroup) : Bool :=
  (r.bad || (List.range g.tensors.length).all fun i => r.ended.contains i) &&
    ((s.mill m).thrState != .harvest || !(s.wain (wainKey (.mill m 0))).moves)

/-- THRESH_STATUS_RECORD (R365). -/
def execThreshStatusRecord (m : MillNo) (s : State) : Out :=
  match (s.mill m).runGroup with
  | none => .next s
  | some (r, g) =>
    if !s.thrOver m r g then .next s
    else
      let status := if r.bad || r.failed then 2 else if r.attempt ≠ 0 then 1 else 0
      let rec_ := thrRecord r.step status ((r.first.map fun f => f.cause.toNat).getD 0) r.attempt r.first r.refused r.losses
        r.nv r.of_ r.fl s.tick
      let s := match s.thrCell m g.plot g.px g.py with
        | .ok c => s.loftWrite c g.addr (rec_.map some)
        | .error _ => s
      let s := s.latchSet g.ret
      let k := wainKey (.mill m 0)
      let s := if (s.wain k).chains.isEmpty then (s.releaseRanges k).modWain k Wain.rest else s
      let s := s.modMill m fun v => { v with
        run := none
        thrState := v.thrRest
        thrBad := if status = 2 then satAdd v.thrBad 1 else v.thrBad }
      .next (if status = 0 then s else s.thrNotice g.id rec_)

/-- A compute reset ends the step of each node (R366), and resets its threshing state. -/
def State.thrAbandon (s : State) (m : MillNo) : State :=
  let s := match (s.mill m).runGroup with
    | none => s
    | some (r, g) =>
      let i := (g.tensors.findIdx? fun (t : ThrTensor) => !t.root).getD 0
      match g.tensors[i]? with
      | some (t : ThrTensor) =>
        let f : ThrFail := ⟨8, s.wafer, m, s.thrLevel t, 0⟩
        let s := if t.root then s else s.thrUp r t 2 1 1 0 (failBytes f)
        s.thrDownAll r g 5 1 (failBytes f)
      | none => s
  s.modMill m fun v => { v with
    thrGroups := [], thrState := .idle, thrGroup := 0, thrAttempt := 0, thrStep := 0, thrFault := 0, thrLost := 0,
    thrStale := 0, thrBad := 0, thrRerun := 0, run := none }

/-- Threshing holds a plot: a running or waiting step of a group that uses it (R366); the group. -/
def State.thrHolds (s : State) (p : PlotId) : Option Nat :=
  (s.mills.flatMap fun e => match e.2.runGroup with
    | some (_, g) =>
      if g.plot == p || g.tensors.any fun t => (t.segs ++ t.rets).any fun x => x.plot == p then [g.id] else []
    | none => []).head?

end Sys2Proof.Machine
end

