-- ==== Sys2Proof/Machine/LinkOps.lean ====
section
/-! DEFINITION. Chonel links: their states, training, loss and registers (R311 to R345). -/

namespace Sys2Proof.Machine

/-- ML_LINK. -/
def Mill.linkReg (v : Mill) : Word :=
  BitVec.ofNat 32 (v.link.toNat * 2 ^ 29 + v.reason.toNat * 2 ^ 25 + v.groups.toNat * 2 ^ 20 +
    (if v.peerPace then 2 ^ 17 else 0) + (if v.partner.any (·.switch) then 2 ^ 16 else 0) + v.downcnt.toNat)

/-- ML_ERRLOG records the first error while it is armed. -/
def State.linkError (s : State) (m : MillNo) (kind group lane : Nat) : State :=
  s.modMill m fun v =>
    if v.errlog.msb then v
    else { v with errlog := BitVec.ofNat 64 (2 ^ 63 + kind * 2 ^ 59 + group * 2 ^ 57 + lane * 2 ^ 52 + v.expect.toNat * 2 ^ 36 +
      s.tick % 2 ^ 36) }

/-- Nothing holds the mill DISABLED (R315). -/
def State.millEnabled (s : State) (m : MillNo) : Bool :=
  let v := s.mill m
  v.licensed && !(s.hub (millField m)).dark && !s.millsOut.contains m && v.cfg.getLsbD 0

/-- Buffers of a link that leaves UP (R325). -/
def Mill.discard (v : Mill) : Mill :=
  { v with
    seq := 0, unacked := [], resend := [], replays := none, nakAt := none, expect := 0, acked := 0xFFFF, nak := false,
    credits := [0, 0, 0, 0], freed := [0, 0, 0, 0], outq := [], dropLeft := [0, 0, 0, 0], groups := 0, regroup := 0,
    spareReq := none, idleSent := 0, idleGot := 0, timeReply := none }

/-- Tracking entries that use a link end with ROUTE (R341, R345). -/
def State.endTracks (s : State) (m : MillNo) : State :=
  (s.mill m).tracks.foldl (fun s t => s.endTrack m t (.errorResp t.tag 1 false) true) s

/-- The link leaves what it is in for DOWN (R325, R344, R345). -/
def State.linkDown (s : State) (m : MillNo) (reason : Nat) : State :=
  let v := s.mill m
  if v.link = 0 || v.link = 1 then s
  else
    let up := v.link == 7
    let s := if up then s.linkError m 3 0 0 else s
    let s := s.modMill m fun v => { v.discard with
      link := 1
      reason := BitVec.ofNat 4 reason
      since := s.tick
      downcnt := if up then satAdd v.downcnt 1 else v.downcnt
      downUntil := if reason = 5 && up then some (s.tick + 1000) else none }
    if up then
      let s := (s.endTracks m).thrLinkLost m
      s.notice 9 8 (padBytes (leBytes 4 m.toNat ++ leBytes 4 (s.mill m).linkReg.toNat) 48)
    else s

/-- The link leaves UP for IDENT on a mismatch (R325, R331). -/
def State.linkToIdent (s : State) (m : MillNo) : State :=
  let s := s.linkError m 4 0 0
  let s := s.modMill m fun v => { v.discard with
    link := 4
    reason := 4
    since := s.tick
    groups := v.groups
    downcnt := satAdd v.downcnt 1 }
  (s.endTracks m).thrLinkLost m

/-- Light reaches a receiver: probe mode ends (R314). -/
def Mill.sees (v : Mill) (tick : Nat) : Mill := { v with light := true, probe := false, lightAt := tick }

/-- A mill becomes DISABLED, its link going DOWN first (R315). -/
def State.millDisable (s : State) (m : MillNo) (reason : Nat) : State :=
  (s.linkDown m reason).modMill m fun v => { v with link := 0, light := false, probe := false }

/-- Receive slots by LVC that training takes from ML_CREDIT_CFG (R321). -/
def Mill.slotUnits (v : Mill) : List Nat :=
  let l := [bits v.creditCfg 7 0, bits v.creditCfg 15 8, bits v.creditCfg 23 16, bits v.creditCfg 31 24]
  if l.all (fun n => n != 0) && l.sum ≤ 96 then l else [0x04, 0x24, 0x14, 0x24]

/-- Training starts (R326): every lane is to be found again, and spares are free (R328). -/
def State.linkTrain (s : State) (m : MillNo) : State :=
  if !s.millEnabled m then s
  else s.modMill m fun v => { v.discard with
    link := 2, since := s.tick, locked := 0, aligned := 0, failed := 0, sp0 := none, sp1 := none, txSp0 := none,
    txSp1 := none, peerState := 0, laneMap := [], partner := none, identDue := false, times := 0, timeDue := false,
    downUntil := none, division := v.slotUnits }

/-- A mill leaves DISABLED for DOWN, and trains (R326, R455). -/
def State.millEnable (s : State) (m : MillNo) : State :=
  if s.millEnabled m then (s.modMill m fun v => { v with link := 1, since := s.tick }).linkTrain m else s

/-- Lanes 0 to 17 of a bitmap. -/
def allLanes : BitVec 18 := 0x3FFFF

/-- ALIGN ends when every lane's block is found and the partner's lane map is known (R326). -/
def Mill.alignDone (v : Mill) (tick : Nat) : Mill :=
  if v.link = 3 && v.aligned == allLanes && !v.laneMap.isEmpty then
    { v with link := 4, since := tick, groups := 0xF, identDue := true, partner := none }
  else v

/-- The identity of a partner breaks ML_LINK_CFG (R331). -/
def Mill.mismatch (v : Mill) (r : IdentRec) : Bool :=
  v.cfg.msb && r.loaded &&
    (r.mill.toNat != bits v.cfg 30 26 || (!r.switch && r.wafer.toNat != bits v.cfg 25 14))

/-- IDENT ends when records have been exchanged and the partner's is as expected. -/
def Mill.identDone (v : Mill) (tick : Nat) : Mill :=
  if v.link = 4 && !v.identDue && v.partner.any fun r => !v.mismatch r then
    { v with link := 5, since := tick, times := 0, timeAt := tick }
  else v

/-- TIME ends after 16 exchanges. -/
def Mill.timeDone (v : Mill) (tick : Nat) : Mill :=
  if v.link = 5 && 16 ≤ v.times then { v with link := 6, since := tick, idleSent := 0, idleGot := 0 } else v

/-- CREDIT ends after 64 IDLE frames each way: the sender holds the partner's slots (R321). -/
def Mill.creditDone (v : Mill) (tick : Nat) : Mill :=
  if v.link = 6 && 64 ≤ v.idleSent && 64 ≤ v.idleGot then
    { v with
      link := 7
      since := tick
      frameAt := tick
      ackAt := tick
      timeAt := tick
      credits := (v.partner.map fun r => r.slots.map BitVec.toNat).getD [0, 0, 0, 0] }
  else v

/-- This mill's identity record (R330). -/
def State.identRecord (s : State) (m : MillNo) : List Byte :=
  padBytes (leBytes 2 0x1FB3 ++ leBytes 2 0x4830 ++ leBytes 8 s.serial.toNat ++ leBytes 1 m.toNat ++ [1] ++
    leBytes 1 (1 + (if s.licence.full then 4 else 0)) ++ [0] ++
    leBytes 2 (s.wafer.toNat + (if s.jobLoaded then 2 ^ 15 else 0)) ++ leBytes 2 s.jobtag.toNat ++
    (s.mill m).division.flatMap fun n => leBytes 4 (n * 4096)) 64

/-- The wafer ID or job tag has changed: each link sends its record again (R330). -/
def State.identAgain (s : State) : State :=
  { s with mills := s.mills.map fun (e : Nat × Mill) => (e.1, ({ e.2 with identDue := e.2.identDue || 4 ≤ e.2.link.toNat } : Mill)) }

end Sys2Proof.Machine
end

