-- ==== Sys2Proof/Machine/Ward.lean ====
section
/-! DEFINITION. The ward's mailboxes: slots, the order of commands, the checks that come before each
command and the answer that ends it (R404 to R412, R423). -/

namespace Sys2Proof.Machine

/-! ### Status codes (R408) -/

def stOk : Nat := 0
def stOpcode : Nat := 1
def stLength : Nat := 2
def stField : Nat := 3
def stNotSteward : Nat := 4
def stState : Nat := 5
def stBusy : Nat := 6
def stUnreachable : Nat := 7
def stLicence : Nat := 8
def stCrc : Nat := 9
def stFormat : Nat := 10
def stEpoch : Nat := 11
def stPlace : Nat := 12
def stResident : Nat := 13
def stPlan : Nat := 14
def stSeason : Nat := 15
def stScan : Nat := 16
def stNotFound : Nat := 17
def stSecurity : Nat := 18
def stAborted : Nat := 19
def stImage : Nat := 20

/-- An answer: status, detail and response payload (R404). -/
structure Answer where
  status : Nat
  detail : Nat := 0
  resp   : List Byte := []
  deriving DecidableEq, Repr

/-- The answer OK. -/
def okWith (resp : List Byte) : Answer := ⟨stOk, 0, resp⟩
/-- A field of the payload is out of range: the detail is its byte offset. -/
def badField (off : Nat) : Answer := ⟨stField, off, []⟩
/-- A refusal with a detail. -/
def refuse (status detail : Nat) : Answer := ⟨status, detail, []⟩

/-! ### Slots (R404, R405) -/

def Port.slotBytes (p : Port) (n : SlotNo) (off len : Nat) : List Byte := p.mbox.readBytes (n.toNat * 4096 + off) len
def Port.putSlot (p : Port) (n : SlotNo) (off : Nat) (l : List Byte) : Port :=
  { p with mbox := p.mbox.writeBytes (n.toNat * 4096 + off) l }
/-- CTRL bits 1:0: 0 FREE, 1 POSTED, 2 ACCEPTED, 3 DONE. -/
def Port.slotState (p : Port) (n : SlotNo) : Nat := leNat (p.slotBytes n 0 1) % 4
def Port.setSlotState (p : Port) (n : SlotNo) (x : Nat) : Port := p.putSlot n 0 (leBytes 4 x)
def Port.opword (p : Port) (n : SlotNo) : Word := BitVec.ofNat 32 (leNat (p.slotBytes n 4 4))
def Port.reqLen (p : Port) (n : SlotNo) : Nat := leNat (p.slotBytes n 8 4)
def Port.payload (p : Port) (n : SlotNo) : List Byte := p.slotBytes n 0x40 (min (p.reqLen n) 4032)
def opcodeOf (w : Word) : Nat := bits w 7 0
def seqOf (w : Word) : Nat := bits w 31 16

/-- A port's slots are FREE with zero contents. -/
def Port.freeSlots (p : Port) : Port := { p with mbox := [] }

/-! ### The commands (R409) -/

/-- A row of the command table: code, mutating, class S, whether it needs the wafer (R412; MAP_QUERY reads
the ward's own map, log entry 19), request length where it is fixed or else its least, and the payload
bytes that it names (log entry 20). -/
structure OpInfo where
  code  : Nat
  mutating : Bool
  steward : Bool
  wafer : Bool
  len   : Nat
  fixed : Bool
  named : List (Nat × Nat)
  deriving DecidableEq, Repr

/-- The command table. -/
def opTable : List OpInfo :=
  [⟨0x01, false, false, false, 0, true, []⟩,
   ⟨0x02, false, false, false, 8, true, [(0, 8)]⟩,
   ⟨0x03, true, true, true, 0, true, []⟩,
   ⟨0x10, true, true, true, 16, false, [(0, 10)]⟩,
   ⟨0x11, true, true, true, 0, true, []⟩,
   ⟨0x12, true, true, true, 3, true, [(0, 3)]⟩,
   ⟨0x13, true, true, true, 2, true, [(0, 2)]⟩,
   ⟨0x14, true, true, true, 16, true, [(0, 3), (8, 8)]⟩,
   ⟨0x15, true, true, true, 16, true, [(0, 1), (8, 8)]⟩,
   ⟨0x16, true, true, true, 6, true, [(0, 1), (2, 4)]⟩,
   ⟨0x17, true, true, true, 1, true, [(0, 1)]⟩] ++
  [⟨0x20, true, true, true, 24, true, [(0, 2), (8, 16)]⟩,
   ⟨0x21, true, true, true, 1, true, [(0, 1)]⟩,
   ⟨0x22, true, false, true, 16, true, [(0, 2), (8, 8)]⟩,
   ⟨0x23, true, true, true, 8, false, [(0, 8)]⟩,
   ⟨0x24, true, true, true, 5, true, [(0, 5)]⟩,
   ⟨0x30, true, true, true, 5, true, [(0, 5)]⟩,
   ⟨0x31, false, true, true, 8, true, [(0, 8)]⟩,
   ⟨0x32, false, false, true, 11, true, [(0, 11)]⟩,
   ⟨0x33, true, true, true, 8, true, [(0, 8)]⟩] ++
  [⟨0x40, true, true, true, 12, true, [(0, 12)]⟩,
   ⟨0x41, false, false, true, 16, true, [(0, 16)]⟩,
   ⟨0x42, true, true, true, 0, true, []⟩,
   ⟨0x43, true, true, true, 0, true, []⟩,
   ⟨0x50, true, true, false, 12, true, [(0, 12)]⟩,
   ⟨0x51, true, true, false, 4, true, [(0, 1)]⟩,
   ⟨0x52, true, true, false, 0, true, []⟩,
   ⟨0x53, true, true, false, 448, true, [(0, 448)]⟩,
   ⟨0x54, false, false, false, 32, true, [(0, 32)]⟩] ++
  [⟨0x60, true, true, true, 8, true, [(0, 1), (4, 4)]⟩,
   ⟨0x61, true, true, true, 8, true, [(0, 1), (4, 4)]⟩,
   ⟨0x62, false, false, false, 4, true, [(0, 4)]⟩,
   ⟨0x63, true, true, false, 3, true, [(0, 3)]⟩,
   ⟨0x70, true, false, false, 4, true, [(0, 4)]⟩,
   ⟨0x71, true, true, false, 0, true, []⟩,
   ⟨0x72, false, false, false, 0, true, []⟩,
   ⟨0x78, true, true, true, 24, true, [(0, 5), (8, 16)]⟩,
   ⟨0x79, true, true, true, 4, true, [(0, 4)]⟩,
   ⟨0x7E, true, true, false, 0, true, []⟩,
   ⟨0x7F, true, true, true, 0, true, []⟩]

def opInfo (code : Nat) : Option OpInfo := opTable.find? fun o => o.code == code

/-! ### Answers (R407, R416) -/

/-- HG_STEWARD. -/
def Steward.reg (x : Steward) : Word := BitVec.ofNat 32 (x.gen.toNat * 16 + x.port.toNat * 8 + x.state.toNat)

/-- The port holds the stewardship, HELD or LAPSED (R419). -/
def State.isSteward (s : State) (p : PortNo) : Bool := s.steward.state != 0 && s.steward.port == p

/-- A command is complete: status, length and payload, then DONE, then the vector (R407); HG_MB_LASTSEQ
names it where it is mutating. -/
def State.complete (s : State) (p : PortNo) (n : SlotNo) (opword : Word) (live mutating : Bool) (a : Answer) : State :=
  let s := if live then
      s.modPort p fun x =>
        let resp := a.resp.take 4032
        ((((x.putSlot n 0x0C (leBytes 2 a.status ++ leBytes 2 a.detail)).putSlot n 0x10 (leBytes 4 resp.length)).putSlot n
          0x40 resp).setSlotState n 3).signal n.toNat
    else s
  if mutating then
    { s with lastSeq := BitVec.ofNat 32 (seqOf opword * 2 ^ 16 + p.toNat * 256 + opcodeOf opword) }
  else s

/-- What a command comes to when the ward starts it. -/
inductive Carried where
  | done (a : Answer)
  | wait (w : Waiting)
  /-- a query that a later event answers -/
  | later
  /-- the ward holds the command before it starts -/
  | hold

/-- The first mutating command of the mail, in order (R406). -/
def State.firstMutating (s : State) : Option (PortNo × SlotNo) :=
  s.mail.find? fun (x : PortNo × SlotNo) =>
    ((opInfo (opcodeOf ((s.port x.1).opword x.2))).map OpInfo.mutating).getD false

/-- Every POSTED slot is ACCEPTED, and one of an unknown opcode is answered (R406, R408; log entry 21). -/
def State.acceptAll (s : State) : State :=
  s.mail.foldl (fun s (x : PortNo × SlotNo) =>
    let w := (s.port x.1).opword x.2
    if (opInfo (opcodeOf w)).isNone then
      { s with mail := s.mail.erase x }.complete x.1 x.2 w true false (refuse stOpcode 0)
    else s.modPort x.1 fun q => q.setSlotState x.2 2) s

/-- The ward serves a command: from the end of stage 2, and the hinge ROM serves IDENTIFY and the firmware
commands where no image is valid (R421, R424); a restarted ward first ends the command that ran (R416). -/
def State.wardServes (s : State) (code : Nat) : Bool :=
  !(s.restarting && s.running.isSome) && (decide (2 ≤ s.boot.done) || (s.boot.err == 1 && [0x01, 0x50, 0x51, 0x52].contains code))

/-- The wafer is not ready: before stage 9, or stopped (R423, R493). -/
def State.notReady (s : State) : Bool := s.boot.done < 9 || s.power.stopped

/-- Fields 0 and 8 are both dark (R26). -/
def State.unreachable (s : State) : Bool := (s.hub 0).dark && (s.hub 8).dark

/-- The first payload byte that no field names and that is not 0. -/
def strayByte (o : OpInfo) (l : List Byte) : Option Nat :=
  (List.range o.len).find? fun i => (l[i]?.getD 0) != 0 && !(o.named.any fun r => r.1 ≤ i && i < r.1 + r.2)

/-- The checks that come before a command: length, steward, the wafer, reserved bytes (R11, R26, R406, R412,
R423, R424, R443; their order is log entry 20). -/
def State.generalCheck (s : State) (o : OpInfo) (p : PortNo) (len : Nat) (l : List Byte) : Option Answer :=
  if 4032 < len || (if o.fixed then len != o.len else len < o.len) then some (refuse stLength 0)
  else if o.steward && !s.isSteward p then
    some (refuse stNotSteward (if s.steward.state = 0 then 0xFFFF else s.steward.port.toNat))
  else if o.wafer && s.unreachable && s.boot.done < 9 && s.boot.err = 4 then some (refuse stUnreachable 0)
  else if o.wafer && s.notReady then some (refuse stState 0xFFFF)
  else if o.wafer && s.unreachable then some (refuse stUnreachable 0)
  else if o.wafer && s.dormant && o.code != 0x43 then some (refuse stState 0xFFFF)
  else (strayByte o l).map badField

/-- The ward carries out a command: it is one of the slot's row, no mutating command stands before it, and
the checks pass (R406). Anything else leaves the state. -/
def State.carry (s : State) (p : PortNo) (n : SlotNo) (code : Nat) (row : List Byte → Bool)
    (f : State → List Byte → State × Carried) : State :=
  let x := s.port p
  let w := x.opword n
  match opInfo code with
  | none => s
  | some o =>
    let l := x.payload n
    if !s.mail.contains (p, n) || opcodeOf w != code || !row l || !s.wardServes code ||
        (o.mutating && (s.running.isSome || s.firstMutating != some (p, n))) then s
    else
      let s := s.acceptAll
      let started := { s with mail := s.mail.erase (p, n) }
      match s.generalCheck o p (x.reqLen n) l with
      | some a => started.complete p n w true o.mutating a
      | none =>
        match f started l with
        | (t, .done a) => t.complete p n w true o.mutating a
        | (t, .wait k) => { t with running := some ⟨p, n, w, l, true, k⟩ }
        | (t, .later) => t
        | (_, .hold) => s

/-- The mutating command that runs in a slot, where it waits for what a test names. -/
def State.runningIn (s : State) (p : PortNo) (n : SlotNo) : Option Running :=
  s.running.bind fun r => if r.port = p ∧ r.slot = n then some r else none

/-- The running mutating command ends (R407, R415). -/
def State.finish (s : State) (a : Answer) : State :=
  match s.running with
  | none => s
  | some r => { s with running := none, restarting := false }.complete r.port r.slot r.opword r.live true a

/-- A bare answer, with the state unchanged. -/
def answered (s : State) (a : Answer) : State × Carried := (s, .done a)

/-! ### Targets of copies (R282, R465, R497) -/

/-- A 4 KiB-aligned GRANARY or HOST target (R289). -/
def targetOk (a : DWord) : Bool := a.toNat % 4096 == 0 && (space a == 1 || space a == 2) && !rsvdAddr a

/-- Bytes are written to a target by the ward; the flag says that all were. -/
def State.copyOut (s : State) (a : DWord) (l : List Byte) : State × Bool :=
  if space a = 1 then s.wardWrite (spaceLow a) l
  else
    match s.windowOk (BitVec.ofNat 6 (bits a 53 48)) (spaceLow a) l.length true with
    | some x => (s.windowWrite x (spaceLow a) l, true)
    | none => (s, false)

/-- Bytes read from a target by the ward: none where one cannot be read. -/
def State.copyIn (s : State) (a : DWord) (n : Nat) : State × Option (List Byte) :=
  if space a = 1 then s.wardRead (spaceLow a) n
  else
    match s.windowOk (BitVec.ofNat 6 (bits a 53 48)) (spaceLow a) n false with
    | some x => (s, some (s.windowRead x (spaceLow a) n))
    | none => (s, none)

end Sys2Proof.Machine
end

