-- ==== Sys2Proof/Machine/WardBasic.lean ====
section
/-! DEFINITION. Slots, stewardship and the ward commands that change one thing: identity, the map and the
ledger, windows, viewports, the granary map, latches, tally configuration, limits (R302 to R309, R399,
R402, R405, R409 to R419, R431 to R433, R483). -/

namespace Sys2Proof.Machine

/-! ### Settings (R509) -/

/-- A change of a ward setting goes to the running slot's settings area, and to both while a slot is TRIAL (R509; which
commands and registers change a setting is log entry 76). -/
def State.settingChanged (s : State) (id : Nat) (v : List Byte) : State :=
  let x := s.fw
  let both := x.a.state == 4 || x.b.state == 4
  let put (slot : FwSlot) (old : List Byte) : List Byte := Config.settingsBytes (leAt slot.image 17 1) old id v
  { s with fw := { x with
      settingsA := if both || !x.running then put x.a x.settingsA else x.settingsA
      settingsB := if both || x.running then put x.b x.settingsB else x.settingsB } }

/-! ### Slots (R405) -/

def Port.slotErr (p : Port) : Port := { p with mbSlot := satAdd p.mbSlot 1 }

/-- A write of 1 to CTRL posts the message of a FREE slot. -/
def State.slotPost (s : State) (p : PortNo) (n : SlotNo) : State :=
  if (s.port p).slotState n ≠ 0 then s.modPort p Port.slotErr
  else
    let s := { s.modPort p fun x => x.setSlotState n 1 with mail := s.mail ++ [(p, n)] }
    let w := (s.port p).opword n
    if (opInfo (opcodeOf w)).isNone && s.wardServes 1 then s.acceptAll else s

/-- A write of 0 to CTRL frees a DONE slot. -/
def State.slotFree (s : State) (p : PortNo) (n : SlotNo) : State :=
  if (s.port p).slotState n ≠ 3 then s.modPort p Port.slotErr else s.modPort p fun x => x.setSlotState n 0

/-- SLOT_POST: a write of 1 to CTRL. -/
def execSlotPost (p : PortNo) (n : SlotNo) (s : State) : Out := .next (s.slotPost p n)

/-- SLOT_FREE: a write of 0 to CTRL. -/
def execSlotFree (p : PortNo) (n : SlotNo) (s : State) : Out := .next (s.slotFree p n)

/-! ### Identity and the ledger -/

/-- Any row's payload. -/
def anyRow (_ : List Byte) : Bool := true

/-- IDENTIFY. -/
def execIdentify (p : PortNo) (n : SlotNo) (s : State) : Out :=
  .next (s.carry p n 0x01 anyRow fun s _ => answered s (okWith
    (leBytes 2 0x1FB3 ++ leBytes 2 0x4830 ++ leBytes 8 s.serial.toNat ++ leBytes 1 (if s.licence.full then 1 else 0) ++
      leBytes 1 p.toNat ++ leBytes 2 (if s.isSteward p then 1 else 0) ++ leBytes 4 s.fw.version.toNat ++
      leBytes 4 s.libver.toNat ++ leBytes 4 s.epoch.toNat ++ leBytes 4 s.steward.gen.toNat)))

/-- A map record (R433). -/
def State.mapRecord (s : State) (i : Nat) : List Byte :=
  let f : FieldNo := BitVec.ofNat 6 (i / 64)
  let r := s.mapRow f (i % 64)
  let dark := (s.hub f).dark
  let all := 2 ^ 78 - 1
  leBytes 1 f.toNat ++ leBytes 1 (i % 64) ++ leBytes 2 (if dark then 1 else 0) ++ leBytes 12 r.skip.toNat ++
    leBytes 16 (if dark then all else r.hole.toNat) ++ leBytes 16 (if dark then all else r.blocked.toNat) ++
    leBytes 16 r.insvc.toNat

/-- MAP_QUERY (R433). -/
def execMapQuery (p : PortNo) (n : SlotNo) (s : State) : Out :=
  .next (s.carry p n 0x02 anyRow fun s l =>
    let first := leAt l 0 4
    let count := leAt l 4 4
    if 3072 ≤ first then answered s (badField 0)
    else if count = 0 || 62 < count then answered s (badField 4)
    else answered s (okWith (leBytes 4 s.epoch.toNat ++ leBytes 4 3072 ++
      ((List.range (min count (3072 - first))).flatMap fun i => s.mapRecord (first + i)))))

/-- A ledger entry's 16 B (R431). -/
def LedgerEntry.bytes (e : LedgerEntry) : List Byte :=
  [e.field, e.row, e.col] ++ leBytes 1 (e.source.toNat + (if e.comp then 4 else 0) + (if e.rtr then 8 else 0) +
    (if e.revive then 16 else 0)) ++ leBytes 4 e.epoch.toNat ++ leBytes 8 0

/-- LEDGER_READ (R431). -/
def execLedgerRead (p : PortNo) (n : SlotNo) (s : State) : Out :=
  .next (s.carry p n 0x62 anyRow fun s l =>
    let es := (s.ledger.drop (leAt l 0 4)).take 251
    answered s (okWith (leBytes 4 s.ledger.length ++ leBytes 4 es.length ++ es.flatMap LedgerEntry.bytes)))

/-- LEDGER_REVIVE (R432). -/
def execLedgerRevive (p : PortNo) (n : SlotNo) (s : State) : Out :=
  .next (s.carry p n 0x63 anyRow fun s l =>
    let hit (e : LedgerEntry) : Bool := [e.field, e.row, e.col] == l.take 3
    if s.ledger.any hit then
      answered { s with ledger := s.ledger.map fun e => if hit e then { e with revive := true } else e } (okWith [])
    else answered s (refuse stNotFound 0))

/-! ### Stewardship (R417 to R419) -/

/-- A STEWARD notice reports the change. -/
def State.stewardNotice (s : State) : State := s.notice 5 4 (padBytes (leBytes 4 s.steward.reg.toNat) 48)

/-- STEWARD_CLAIM (R418). -/
def execStewardClaim (p : PortNo) (n : SlotNo) (s : State) : Out :=
  .next (s.carry p n 0x70 anyRow fun s l =>
    let t := leAt l 0 4
    let x := s.steward
    if t < 100 || 60000 < t then answered s (badField 0)
    else if x.state = 1 && x.port != p then answered s (refuse stNotSteward x.port.toNat)
    else
      let changed := x.state == 0 || x.port != p
      let gen := if changed then x.gen + 1 else x.gen
      let s := { s with steward := { state := 1, port := p, gen := gen, timeout := t, since := s.tick } }
      let s := if changed || x.state != 1 then s.stewardNotice else s
      let s := if changed then
          s.pageFaults.foldl (fun s (f : Word × Nat × List Byte) =>
            s.modPort p fun q => q.notice ⟨2, 32, s.tick, padBytes f.2.2 48⟩) s
        else s
      answered s (okWith (leBytes 4 gen.toNat)))

/-- STEWARD_RELEASE (R419). -/
def execStewardRelease (p : PortNo) (n : SlotNo) (s : State) : Out :=
  .next (s.carry p n 0x71 anyRow fun s _ =>
    answered ({ s with steward := { s.steward with state := 0 } }.stewardNotice) (okWith []))

/-- HEARTBEAT (R419). -/
def execHeartbeat (p : PortNo) (n : SlotNo) (s : State) : Out :=
  .next (s.carry p n 0x72 anyRow fun s _ =>
    let lapsed := s.steward.state == 2
    let s := if s.isSteward p then
        let s := { s with steward := { s.steward with state := 1, since := s.tick } }
        if lapsed then s.stewardNotice else s
      else s
    answered s (okWith (leBytes 8 s.tick ++ leBytes 4 s.steward.reg.toNat)))

/-- STEWARD_LAPSE: the count of milliseconds has reached the timeout (R419). -/
def execStewardLapse (s : State) : Out :=
  let x := s.steward
  if x.state = 1 && x.since + x.timeout * 100000 ≤ s.tick then
    .next { s with steward := { x with state := 2 } }.stewardNotice
  else .next s

/-! ### Windows and viewports (R307, R399, R402) -/

/-- HOST_WINDOW_ADD (R402; a window that exists is replaced, log entry 22). -/
def execHostWindowAdd (p : PortNo) (n : SlotNo) (s : State) : Out :=
  .next (s.carry p n 0x20 anyRow fun s l =>
    let w := leAt l 0 1
    let flag := leAt l 1 1
    let base := leAt l 8 8
    let len := leAt l 16 8
    if 64 ≤ w then answered s (badField 0)
    else if 2 ≤ flag then answered s (badField 1)
    else if base % 4096 ≠ 0 then answered s (badField 8)
    else if len = 0 || len % 4096 ≠ 0 || 2 ^ 48 < len then answered s (badField 16)
    else
      let x : Window := { port := s.steward.port, base := BitVec.ofNat 64 base, len := len, write := flag == 1 }
      answered (({ s with windows := Store.insert s.windows w x } : State).settingChanged 0x20 l) (okWith []))

/-- A wain packet issued to a window waits for its answer (R307). -/
def State.windowBusy (s : State) (w : BitVec 6) : Bool :=
  s.wains.any fun e => e.2.packets.any fun (p : WPacket) =>
    (!p.done && p.tgt == .host w) || p.reads.any (fun r => r.2.tgt == .host w) || p.todo.any fun x => x.tgt == .host w

/-- A window is deleted. -/
def State.windowGone (s : State) (w : BitVec 6) : State :=
  ({ s with windows := Store.erase s.windows w.toNat } : State).settingChanged 0x21 (leBytes 1 w.toNat)

/-- HOST_WINDOW_DEL (R307). -/
def execHostWindowDel (p : PortNo) (n : SlotNo) (s : State) : Out :=
  match s.runningIn p n with
  | some ⟨_, _, _, _, _, .window w⟩ =>
    .next (if s.windowBusy w then s else (s.windowGone w).finish (okWith []))
  | _ =>
    .next (s.carry p n 0x21 anyRow fun s l =>
      let w := leAt l 0 1
      if 64 ≤ w then answered s (badField 0)
      else match Store.find? s.windows w with
        | none => answered s (refuse stNotFound 0)
        | some x =>
          let k : BitVec 6 := BitVec.ofNat 6 w
          if s.windowBusy k then
            ({ s with windows := Store.insert s.windows w { x with closing := true } }, .wait (.window k))
          else answered (s.windowGone k) (okWith []))

/-- VIEWPORT_SET (R399). -/
def execViewportSet (p : PortNo) (n : SlotNo) (s : State) : Out :=
  .next (s.carry p n 0x22 anyRow fun s l =>
    let v := leAt l 0 1
    let base := leAt l 8 8
    let set (x : Option View) : State × Carried :=
      answered ((s.modPort p fun q => { q with views := match x with
        | some x => Store.insert q.views v x
        | none => Store.erase q.views v }).settingChanged 0x22 l) (okWith [])
    if 16 ≤ v then answered s (badField 0)
    else match leAt l 1 1 with
      | 0 =>
        match (List.range 8).find? fun i => leAt l (8 + i) 1 != 0 with
        | some i => answered s (badField (8 + i))
        | none => set none
      | 1 =>
        if base % 2 ^ 21 ≠ 0 || 2 ^ 42 ≤ base then answered s (badField 8)
        else set (some ⟨1, BitVec.ofNat 64 base, 0, 0, 0, 0⟩)
      | 2 =>
        let w := leAt l 14 2
        if 96 ≤ leAt l 8 1 then answered s (badField 8)
        else if leAt l 9 1 ≠ 0 then answered s (badField 9)
        else if w = 0 || 624 < w then answered s (badField 14)
        else set (some ⟨2, 0, BitVec.ofNat 7 (leAt l 8 1), leAt l 10 2, leAt l 12 2, w⟩)
      | _ => answered s (badField 1))

/-! ### The granary map and page faults (R300, R302, R304, R309) -/

/-- What refuses a granary map entry (R300). -/
def State.entryRefused (s : State) (e : DWord) : Option Nat :=
  if bits e 61 42 ≠ 0 || bits e 20 0 ≠ 0 then some stField
  else if !entryValid e then none
  else
    let a := entryPhys e 0
    if !backed a || inWardArea a then some stField
    else if (s.stack (physStack a)).state = .unlicensed then some stLicence
    else none

/-- Packets translated through one of the pages are not complete (R302). -/
def State.pagesBusy (s : State) (pages : List Nat) : Bool :=
  (s.wains.any fun e => e.2.packets.any fun (p : WPacket) => !p.done && p.pages.any fun g => pages.contains g.toNat) ||
    s.mills.any fun e => e.2.deliveries.any fun (d : Delivery) => d.hdr.kind == 2 && pages.contains (pageOf d.hdr.addr.toNat)

/-- Cached entries of the pages, and translations that used them for a packet not yet formed, are gone. -/
def State.dropCached (s : State) (pages : List Nat) : State :=
  let hitsPage (g : BitVec 21) : Bool := pages.contains g.toNat
  let wain (w : Wain) : Wain :=
    let w := { w with cache := w.cache.filter fun e => !hitsPage e.1 }
    if w.partPages.any hitsPage then { w with partDst := none, part := [], partPages := [] } else w
  let mill (m : Mill) : Mill := { m with mapCache := m.mapCache.filter fun e => !hitsPage e.1 }
  { s with
    hingeCache := s.hingeCache.filter fun e => !hitsPage e.1
    plots := s.plots.map fun (e : Nat × Plot) => (e.1, ({ e.2 with contexts := e.2.contexts.map wain } : Plot))
    wains := s.wains.map fun (e : Nat × Wain) => (e.1, wain e.2)
    mills := s.mills.map fun (e : Nat × Mill) => (e.1, mill e.2) }

/-- GRANARY_MAP (R300, R302). -/
def execGranaryMap (p : PortNo) (n : SlotNo) (s : State) : Out :=
  match s.runningIn p n with
  | some ⟨_, _, _, _, _, .map pages⟩ => .next (if s.pagesBusy pages then s else s.finish (okWith []))
  | _ =>
    .next (s.carry p n 0x23 anyRow fun s l =>
      let first := leAt l 0 4
      let count := leAt l 4 4
      if count = 0 || 503 < count then answered s (badField 4)
      else if l.length ≠ 8 + 8 * count then answered s (refuse stLength 0)
      else if 2 ^ 21 < first + count then answered s (badField 0)
      else
        let es : List (Nat × DWord) := (List.range count).map fun i => (first + i, BitVec.ofNat 64 (leAt l (8 + 8 * i) 8))
        match es.findSome? fun e => (s.entryRefused e.2).map fun st => refuse st (8 + 8 * (e.1 - first)) with
        | some a => answered s a
        | none =>
          let changed := (es.filter fun (e : Nat × DWord) =>
            let old := s.mapEntry e.1
            entryValid old && old != e.2).map (·.1)
          let s := (s.writeMap first (es.map (·.2))).dropCached changed
          if s.pagesBusy changed then (s, .wait (.map changed)) else answered s (okWith []))

/-- A wain carries out the action of FAULT_RESUME (R304). -/
def State.resumeWain (s : State) (k : Nat) (retry : Bool) : State :=
  let w := s.wain k
  let w := { w with faultSeq := none, resume := none }
  if retry then s.setWain k { w with state := .running, err := 0, stopReq := false }
  else (s.setWain k w).wainError k 11

/-- FAULT_RESUME (R304, R309). -/
def execFaultResume (p : PortNo) (n : SlotNo) (s : State) : Out :=
  .next (s.carry p n 0x24 anyRow fun s l =>
    let q : Word := BitVec.ofNat 32 (leAt l 0 4)
    let retry := leAt l 4 1 == 0
    if 2 ≤ leAt l 4 1 then answered s (badField 4)
    else match List.find? (fun (f : Word × Nat × List Byte) => f.1 == q) s.pageFaults with
      | none => answered s (refuse stNotFound 0)
      | some f =>
        let s := { s with pageFaults := s.pageFaults.filter fun (f : Word × Nat × List Byte) => f.1 != q }
        let w := s.wain f.2.1
        -- the context of a SCANNED plot holds the fault
        let held := s.plots.any fun e => e.2.contexts.any fun c => c.faultSeq == some q
        if w.faultSeq = some q && !held then answered ((s.resumeWain f.2.1 retry).thrWain f.2.1) (okWith [])
        else
          let ctx (w : Wain) : Wain := if w.faultSeq = some q then { w with resume := some retry } else w
          answered { s with plots := s.plots.map fun (e : Nat × Plot) =>
            (e.1, ({ e.2 with contexts := e.2.contexts.map ctx } : Plot)) } (okWith []))

/-! ### Latches, tallies and limits -/

/-- LATCH_SET (R266; on an entry latch as R274 gives). -/
def execLatchSet (p : PortNo) (n : SlotNo) (s : State) : Out :=
  .next (s.carry p n 0x30 anyRow fun s l =>
    let k := leAt l 0 4
    let op := leAt l 4 1
    let id : LatchId := BitVec.ofNat 17 k
    let f := latchField id
    if 2 ^ 17 ≤ k || !latchIdOk id then answered s (badField 0)
    else if 2 ≤ op then answered s (badField 4)
    else if (s.hub f).dark then answered s (refuse stState f.toNat)
    else
      let s := s.countLatch id
      let x := (s.hub f).latch (latchIndex id)
      let s := match x.entry.isSome, op with
        | true, 0 => s.stranger f
        | true, _ => s.misuse f
        | false, 0 => s.latchSet id
        | false, _ => s.latchClr id
      answered s (okWith []))

/-- HG_TALLY_CFG is written (R4, R284): MODE 3 keeps the mode, and a gate ID of no field keeps the gate (log entry 41); a
PERIOD below 1,000 is written as 1,000; the count of PERIOD starts at the write. -/
def State.setTallyCfg (s : State) (x : DWord) : State :=
  let mode := if bits x 63 62 = 3 then bits s.tally.cfg 63 62 else bits x 63 62
  let gate := if gateIdOk (BitVec.ofNat 12 (bits x 43 32)) then bits x 43 32 else bits s.tally.cfg 43 32
  let cfg : DWord := BitVec.ofNat 64 (mode * 2 ^ 62 + gate * 2 ^ 32 + max 1000 (bits x 31 0))
  ({ s with tally := { s.tally with cfg := cfg, since := s.tick } } : State).settingChanged 0x33 (leBytes 8 cfg.toNat)

/-- TALLY_CONFIG (R284). -/
def execTallyConfig (p : PortNo) (n : SlotNo) (s : State) : Out :=
  .next (s.carry p n 0x33 anyRow fun s l =>
    let x : DWord := BitVec.ofNat 64 (leAt l 0 8)
    if bits x 63 62 = 3 then answered s (badField 7)
    else if !gateIdOk (BitVec.ofNat 12 (bits x 43 32)) then answered s (badField 4)
    else answered (s.setTallyCfg x) (okWith []))

/-- POWER_LIMIT_SET (R483). -/
def execPowerLimitSet (p : PortNo) (n : SlotNo) (s : State) : Out :=
  .next (s.carry p n 0x40 anyRow fun s l =>
    let b := leAt l 0 4
    let k := leAt l 4 4
    let w := leAt l 8 4
    if b < 4000 || 33000 < b then answered s (badField 0)
    else if k < b || 40000 < k then answered s (badField 4)
    else if w < 500 || 10000 < w || w % 2 ≠ 0 then answered s (badField 8)
    else answered (({ s with power := { s.power with sustained := b, peak := k, window := w } } : State).settingChanged 0x40 l) (okWith []))

end Sys2Proof.Machine
end

