-- ==== Sys2Proof/Machine/Map.lean ====
section
/-! DEFINITION. The map and the ledger, defects found in service, fences and rejoins, dead cells and dark
fields (R18, R183, R425 to R432, R451 to R460). -/

namespace Sys2Proof.Machine

/-! ### The ledger (R431) -/

/-- The key of a physical cell: (field × 64 + row) × 128 + column. -/
def physKey (f row col : Nat) : Nat := (f * 64 + row) * 128 + col

/-- An entry is recorded, or counted as lost where the ledger is full. -/
def State.ledgerAdd (s : State) (e : LedgerEntry) : State :=
  if s.ledger.length < 4096 then { s with ledger := s.ledger ++ [e] }
  else { s with ledgerLost := BitVec.ofNat 32 (min (s.ledgerLost.toNat + 1) 0xFFFF) }

/-- An entry names a physical cell. -/
def LedgerEntry.names (e : LedgerEntry) (f row col : Nat) : Bool :=
  e.field.toNat == f && e.row.toNat == row && e.col.toNat == col

/-- The entry of a defect of a cell found in service (R429, R453). -/
def State.cellEntry (s : State) (c : CellId) : LedgerEntry :=
  ⟨BitVec.ofNat 8 (fieldOf c).toNat, BitVec.ofNat 8 (rowIn c), BitVec.ofNat 8 (s.physCol c), 1, true,
    (s.cell c).routerDead || s.isBlocked c, false, s.epoch⟩

/-! ### The map (R18, R426) -/

/-- Physical columns of the logical columns from one on (R18): `p` is the next physical column, `a` the
cells absorbed. -/
def assignCols (bad : Nat → Bool) : Nat → Nat → Nat → List Nat
  | 0, _, _ => []
  | n + 1, p, a =>
    let (p, a) := if bad p && a < 2 then (p + 1, a + 1) else (p, a)
    let (p, a) := if bad p && a < 2 then (p + 1, a + 1) else (p, a)
    p :: assignCols bad n (p + 1) a

/-- The bitmap of the positions below `n` that pass a test. -/
def bitsWhere (w n : Nat) (t : Nat → Bool) : BitVec w := BitVec.ofNat w (bitmap n t)

/-- The map row of one field row. -/
def assignRow (bad rtrBad : Nat → Bool) : MapRow :=
  let cols := assignCols bad 78 0 0
  let at_ (c : Nat) : Nat := (cols[c]?).getD 0
  { skip := bitsWhere 80 80 fun p => !cols.contains p
    hole := bitsWhere 78 78 fun c => bad (at_ c)
    blocked := bitsWhere 78 78 fun c => bad (at_ c) && rtrBad (at_ c)
    insvc := 0 }

/-- A physical cell's compute, and its router, is unusable (R426). -/
def State.compBad (s : State) (f row col : Nat) : Bool :=
  s.fuseComp.contains (physKey f row col) || s.failComp.contains (physKey f row col) ||
    s.ledger.any fun e => e.names f row col && e.comp
def State.rtrBad (s : State) (f row col : Nat) : Bool :=
  s.fuseRtr.contains (physKey f row col) || s.failRtr.contains (physKey f row col) ||
    s.failLink.contains (physKey f row col) || s.ledger.any fun e => e.names f row col && e.rtr

/-- Rows that hold a cell that may be unusable. -/
def State.badRows (s : State) : List Nat :=
  let keys := s.fuseComp ++ s.fuseRtr ++ s.failComp ++ s.failRtr ++ s.failLink ++
    (s.ledger.filter fun e => e.row.toNat < 64).map fun e => physKey e.field.toNat e.row.toNat 0
  (keys.map fun k => k / 128).dedup

/-- The rows of a dark field keep their SKIP, and hold 78 blocked holes (R426, R433). -/
def State.darkRow (s : State) (f : FieldNo) (row : Nat) : MapRow :=
  { s.mapRow f row with hole := BitVec.allOnes 78, blocked := BitVec.allOnes 78 }

/-- The map built from the fuses, the ledger and the failures of this bring-up. -/
def State.builtMap (s : State) : Store MapRow :=
  let dark (f : Nat) : Bool := (s.hub (BitVec.ofNat 6 f)).dark
  let m := (s.badRows.filter fun r => !dark (r / 64)).foldl (fun (m : Store MapRow) r =>
    Store.set {} m r (assignRow (fun p => s.compBad (r / 64) (r % 64) p || s.rtrBad (r / 64) (r % 64) p)
      (s.rtrBad (r / 64) (r % 64)))) []
  ((List.range 48).filter dark).foldl (fun (m : Store MapRow) f =>
    (List.range 64).foldl (fun (m : Store MapRow) row =>
      Store.insert m (f * 64 + row) (s.darkRow (BitVec.ofNat 6 f) row)) m) m

/-- The marks of locked-out and dead cells stay with their physical cells when the map moves logical ones. -/
def State.remap (s : State) (m : Store MapRow) : State :=
  let marked := s.cells.filterMap fun (e : Nat × Cell) =>
    let c : CellId := BitVec.ofNat 19 e.1
    if e.2.lockedOut || e.2.dead || e.2.routerDead then some (c, s.physCol c, e.2) else none
  let s := marked.foldl (fun s (x : CellId × Nat × Cell) =>
    s.modCell x.1 fun v => { v with lockedOut := false, dead := false, routerDead := false }) { s with map := m }
  marked.foldl (fun s (x : CellId × Nat × Cell) =>
    match (List.range 78).find? fun l => s.physCol (mkCell (78 * fxOf (fieldOf x.1) + l) (lyOf x.1)) == x.2.1 with
    | some l => s.modCell (mkCell (78 * fxOf (fieldOf x.1) + l) (lyOf x.1)) fun v =>
        { v with lockedOut := x.2.2.lockedOut, dead := x.2.2.dead, routerDead := x.2.2.routerDead }
    | none => s) s

/-- The name of a link: the lower key of its two directions. -/
def linkName (c : CellId) (d : Nat) : Nat :=
  match neighbour c d with
  | some n => min (linkKey c d) (linkKey n (facing d))
  | none => linkKey c d

/-- Both directions of a link by key. -/
def State.linkOutKey (s : State) (k : Nat) : Bool := s.linksOut.contains (linkName (BitVec.ofNat 19 (k / 4)) (k % 4))

/-- Every link that is not locked out is UP. -/
def State.linksTrained (s : State) : State :=
  { s with
    linkAll := .up
    links := s.linksOut.foldl (fun (m : Store LinkState) k =>
      let c : CellId := BitVec.ofNat 19 (k / 4)
      match neighbour c (k % 4) with
      | some n => Store.insert (Store.insert m k .down) (linkKey n (facing (k % 4))) .down
      | none => m) [] }

/-- MAP_REBUILD (R430). -/
def execMapRebuild (p : PortNo) (n : SlotNo) (s : State) : Out :=
  .next (s.carry p n 0x03 anyRow fun s _ =>
    if s.plan.isSome then answered s (refuse stPlan 0)
    else if !s.residents.isEmpty then answered s (refuse stResident 0)
    else
      let m := { s with failComp := [], failRtr := [], failLink := [] }.builtMap
      let s := (s.remap m).linksTrained
      let own (t : NiTables) : NiTables := { t with self := none, coords := none }
      let s := { s with
        epoch := s.epoch + 1, flashMap := m, flashEpoch := s.epoch + 1, ni := own s.ni
        niCell := s.niCell.map fun (e : Nat × NiTables) => (e.1, own e.2) }
      answered s (okWith (leBytes 4 s.epoch.toNat)))

/-! ### Defects found in service (R183, R429) -/

/-- Resident ranges that a test on their cells reaches are damaged (R183). -/
def State.damage (s : State) (t : CellId → Bool) : State :=
  let hit (r : Resident) : Bool := (rectCells r.lx r.ly r.width r.height).any t
  { s with residents := s.residents.map fun (r : Resident) => if !r.damaged && hit r then { r with damaged := true } else r }

/-- The logical position of a cell becomes a hole, marked in service (R429). -/
def State.makeHole (s : State) (c : CellId) : State :=
  let f := fieldOf c
  let r := s.mapRow f (rowIn c)
  let bit : BitVec 78 := BitVec.ofNat 78 (2 ^ colIn c)
  let r := { r with
    hole := r.hole ||| bit
    blocked := if (s.cell c).routerDead then r.blocked ||| bit else r.blocked
    insvc := r.insvc ||| bit }
  { s with map := Store.set {} s.map (f.toNat * 64 + rowIn c) r }.damage (· == c)

/-- A cell's waiter registration is removed (R267). -/
def State.unregister (s : State) (t : CellId → Bool) : State :=
  { s with hubs := s.hubs.map fun (e : Nat × Hub) =>
      (e.1, ({ e.2 with waiters := e.2.waiters.filter fun w => !t w.cell } : Hub)) }

/-- A cell is locked out (R453): whether a hole was made. -/
def State.lockCell (s : State) (c : CellId) : State × Bool :=
  let was := s.isHole c
  let s := s.modCell c fun v => { v with lockedOut := true }
  let e := s.cellEntry c
  let known := s.ledger.any fun x => x.names e.field.toNat e.row.toNat e.col.toNat
  let s := if was && known then s else s.ledgerAdd e
  let s := if was then s else s.makeHole c
  (s.unregister (· == c), !was)

/-- Flags of a FAULT notice where a hole was made (R445). -/
def holeFlag (made : Bool) : Nat := if made then 2 else 0

/-- A cell is found DEAD (R456, R457). -/
def State.cellDies (s : State) (c : CellId) (detection : Nat) (routerDead : Bool) : State :=
  let v := s.cell c
  if v.lockedOut || (s.hub (fieldOf c)).dark then s
  else
    let ps := s.plotOfCell c
    let s := s.modCell c fun v => { v with dead := true, routerDead := routerDead }
    let (s, made) := s.lockCell c
    let s := if routerDead then s.linksDown c else s
    s.fault 8 c.toNat [BitVec.ofNat 8 detection, if routerDead then 1 else 0] (holeFlag made) ps

/-- CELL_PROBE of a field, on the grid of 1,000 ticks (R456): `silent` are the cells that do not answer. -/
def execCellProbe (f : FieldNo) (silent routerDead : List CellId) (s : State) : Out :=
  if s.tick % 1000 ≠ 0 || !s.hubServes f then .next s
  else
    let probed (c : CellId) : Bool :=
      fieldOf c == f && !(s.cell c).dead && !(s.cell c).lockedOut && (s.plotOfCell c).any fun p => (s.plot p).state == .running
    let cs := silent.filter probed
    let answered (e : Nat × Cell) : Nat × Cell :=
      let c : CellId := BitVec.ofNat 19 e.1
      if fieldOf c == f && e.2.missed != 0 && !silent.contains c then (e.1, { e.2 with missed := 0 }) else e
    let s := { s with cells := s.cells.map answered }
    let s := s.modCells cs fun v => { v with missed := v.missed + 1 }
    .next (cs.foldl (fun s c => if 10 ≤ (s.cell c).missed then s.cellDies c 0 (routerDead.contains c) else s) s)

/-- CELL_INTERNAL_CHECK (R456). -/
def execCellInternalCheck (c : CellId) (s : State) : Out :=
  if !cellIdOk c || s.isHole c || !s.hubServes (fieldOf c) then .next s else .next (s.cellDies c 1 false)

/-! ### Fences (R452 to R454) -/

/-- The unit word of FENCE and REJOIN: none where it breaks R452. -/
def unitOf (kind w : Nat) : Option FenceUnit :=
  let c : CellId := BitVec.ofNat 19 w
  match kind with
  | 0 => if w < 2 ^ 19 && cellIdOk c then some (.cell c) else none
  | 1 =>
    let d := w / 2 ^ 19
    if d < 4 && cellIdOk c && (neighbour c d).isSome then some (.link c (BitVec.ofNat 2 d)) else none
  | _ => if w < 32 then some (.mill (BitVec.ofNat 5 w)) else none

/-- Both end routers of a link serve. -/
def State.endsOk (s : State) (c : CellId) (d : Nat) : Bool :=
  match neighbour c d with
  | some n => s.routerOk c && s.routerOk n
  | none => false

/-- A unit is locked out. -/
def State.isOut (s : State) : FenceUnit → Bool
  | .cell c => (s.cell c).lockedOut
  | .link c d => s.linksOut.contains (linkName c d.toNat)
  | .mill m => s.millsOut.contains m

/-- A unit carries nothing to lock out (R452). -/
def State.fenceRefused (s : State) (u : FenceUnit) : Bool :=
  s.isOut u || match u with
    | .cell c => s.isBlocked c
    | .link c d => !s.endsOk c d.toNat
    | .mill _ => false

/-- The plots that a fence of a unit faults, ascending (R453). -/
def State.fencePlots (s : State) : FenceUnit → List PlotId
  | .cell c => if s.isHole c then [] else s.plotOfCell c
  | .link c d => s.plotsWith fun q => (c :: (neighbour c d.toNat).toList).any fun x => q.covers x && !s.isHole x
  | .mill _ => []

/-- A link is locked out: both directions go DOWN (R453). -/
def State.lockLink (s : State) (c : CellId) (d : Nat) : State :=
  { s with linksOut := s.linksOut ++ [linkName c d] }.setLink c d .down

/-- A unit is locked out: whether a hole was made (R453). -/
def State.lockUnit (s : State) : FenceUnit → State × Bool
  | .cell c => s.lockCell c
  | .link c d => (s.lockLink c d.toNat, false)
  | .mill m => ({ s with millsOut := s.millsOut ++ [m] }.millDisable m 5, false)

/-- FENCE (R452, R453). -/
def execFence (p : PortNo) (n : SlotNo) (s : State) : Out :=
  .next (s.carry p n 0x60 anyRow fun s l =>
    let kind := leAt l 0 1
    let w := leAt l 4 4
    if 3 ≤ kind then answered s (badField 0)
    else match unitOf kind w with
      | none => answered s (badField 4)
      | some u =>
        if s.fenceRefused u then answered s (refuse stState 0xFFFF)
        else
          let ps := s.fencePlots u
          let (s, made) := s.lockUnit u
          answered (s.fault 7 w [BitVec.ofNat 8 kind] (holeFlag made) ps) (okWith []))

/-- A CONTROL packet of the ward is taken: its SRC is hinge unit 20 of field 0 or 8; any other is counted
as dropped (R420). -/
def wardSrc : Endpoint → Bool
  | .hub f u _ => (f == 0 || f == 8) && u == 20
  | .cell _ => false

/-- A CONTROL packet is discarded (R420). -/
def State.controlDropped (s : State) (f : FieldNo) : State := s.modHub f fun h => { h with dropcnt := satAdd h.dropcnt 1 }

/-- The field of a unit. -/
def unitField : FenceUnit → FieldNo
  | .cell c => fieldOf c
  | .link c _ => fieldOf c
  | .mill m => millField m

/-- FENCE_NOTICE: the unit that it names is locked out (R420). -/
def execFenceNotice (src : Endpoint) (u : FenceUnit) (s : State) : Out :=
  if !wardSrc src then .next (s.controlDropped (unitField u))
  else if s.fenceRefused u then .next s
  else match u with
    | .cell c => .next (s.modCell c fun v => { v with lockedOut := true })
    | u => .next (s.lockUnit u).1

/-! ### Rejoins (R455) -/

/-- REJOIN (R455). A link that is refused answers with its unit in the detail (R408). -/
def execRejoin (p : PortNo) (n : SlotNo) (s : State) : Out :=
  .next (s.carry p n 0x61 anyRow fun s l =>
    let kind := leAt l 0 1
    let w := leAt l 4 4
    let no (s : State) : State × Carried := answered s (refuse stState (w % 2 ^ 16))
    if 3 ≤ kind then answered s (badField 0)
    else match unitOf kind w with
      | none => answered s (badField 4)
      | some u =>
        if !s.isOut u then no s
        else match u with
          | .cell c =>
            if (s.cell c).routerDead || s.isBlocked c then no s
            else answered (s.modCell c fun v => { v with lockedOut := false }) (okWith [])
          | .link c d =>
            if !s.endsOk c d.toNat then no s
            else
              let k := linkName c d.toNat
              ({ s with linksOut := s.linksOut.filter (· != k) }.setLink c d.toNat .init, .wait (.rejoin c d s.tick))
          | .mill m => answered ({ s with millsOut := s.millsOut.filter (· != m) }.millEnable m) (okWith []))

/-- LINK_INIT_COMPLETE: one side of a link has exchanged its idle tokens and enters UP (R246); the REJOIN of
the link ends once both sides have. -/
def execLinkInitComplete (c : CellId) (port : BitVec 2) (s : State) : Out :=
  let d := port.toNat
  if s.linkIn c d ≠ .init || !s.endsOk c d then .next s
  else
    let s := { s with links := Store.insert s.links (linkKey c d) .up }
    match (s.running.map Running.what : Option Waiting) with
    | some (.rejoin a b _) =>
      if linkName a b.toNat = linkName c d && s.linkState c d = .up then .next (s.finish (okWith [])) else .next s
    | _ => .next s

/-- REJOIN_LINK_TIMEOUT: the link is locked out again and the command answers STATE (R455). -/
def execRejoinLinkTimeout (c : CellId) (port : BitVec 2) (s : State) : Out :=
  match s.running with
  | some ⟨_, _, _, l, _, .rejoin a b since⟩ =>
    if a = c && b = port && since + 100000000 ≤ s.tick then
      .next ((s.lockLink c port.toNat).finish (refuse stState (leAt l 4 4 % 2 ^ 16)))
    else .next s
  | _ => .next s

/-! ### ALERT# (R528, R529) -/

/-- The conditions of R528, bit 0 to bit 3 in its order. -/
def State.alertBits (s : State) : Nat :=
  (if s.power.stopped then 1 else 0) + (if s.boot.err != 0 then 2 else 0) +
    (if s.hubs.any fun e => e.2.dark then 4 else 0) +
    (if s.hubs.any fun e => e.2.power.reason == 4 || e.2.power.reason == 6 then 8 else 0)

/-- The management target raises an in-band interrupt at each change of ALERT#. -/
def State.refreshAlert (s : State) : State :=
  let low := s.alertBits != 0
  if low = s.pins.alertLow then s else { s with pins := { s.pins with alertLow := low, ibis := s.pins.ibis + 1 } }

/-! ### Dark fields (R24 to R29, R459) -/

/-- The bridge that the hinge uses: it changes with a REACH notice (R24 to R26). In service the switch to the standby
bridge takes a time that the spec bounds by 1 ms (log entry 61). -/
def State.chooseBridge (s : State) : State :=
  let d0 := (s.hub 0).dark
  let d8 := (s.hub 8).dark
  let b : BitVec 2 := if d0 && d8 then 2 else if d0 || s.bridge = 1 then 1 else 0
  if b = s.bridge then s
  else { s with
      bridge := b
      switchEnd := if b = 1 && 9 ≤ s.boot.done then some (s.tick + min 100000 Config.bridgeSwitch) else none }.notice 7 1 (padBytes [BitVec.ofNat 8 ((if b = 2 then 1 else 0) + (if b = 1 then 2 else 0))] 48)

/-- A router, or the interface beside it, holds a packet of a field. -/
def inField (f : FieldNo) (p : Packet) : Bool := fieldOf p.pos == f

/-- An endpoint lies outside a field. -/
def outside (f : FieldNo) : Endpoint → Bool
  | .cell c => fieldOf c != f
  | .hub g _ _ => g != f

/-- The ERROR_RESP NOUNIT that a requester outside a lost field receives for a request, or for its answer, that was lost
in the field (R27, R260, R299; log entry 63). -/
def lostAnswer (f : FieldNo) (p : Packet) : Option Packet :=
  let reply (e : Endpoint) (t : Byte) : Option Packet :=
    let pos : CellId := match e with
      | .cell c => c
      | .hub g _ tap => mkCell (78 * fxOf g + tap.toNat) (64 * fyOf g + 31)
    if outside f e then
      some ⟨p.src, .unicast e, none, 2, 0, .errorResp t 3 false, pos, .local, false, true, true⟩
    else none
  match p.body, p.dest with
  | .readReq _ _ t, _ => reply p.src t
  | .writeReq _ _ posted t _, _ => if posted then none else reply p.src t
  | .forward h e t _, _ => if h.ctype = 1 || h.ctype = 2 then none else reply e t
  | .readResp t _, .unicast e => reply e t
  | .writeAck t, .unicast e => reply e t
  | .errorResp t _ _, .unicast e => reply e t
  | _, _ => none

/-- What a field loses with its supply (R23, R27 to R29): the state of its cells, hub and wains, its loft, its rank
tables, the packets in its routers; its stacks enter SELFREF and its links go DOWN. -/
def State.fieldLost (s : State) (f : FieldNo) : State :=
  let s := { s with
    net := (s.net.filter fun p => !inField f p) ++ (s.net.filter (inField f)).filterMap (lostAnswer f)
    ranks := s.ranks.filter fun (e : Nat × Word) => millField (BitVec.ofNat 5 (e.1 / 2 ^ 21)) != f
    cells := s.cells.filterMap fun (e : Nat × Cell) =>
      if fieldOf (BitVec.ofNat 19 e.1) = f then
        (if e.2.lockedOut || e.2.dead then
          some (e.1, ({ lockedOut := e.2.lockedOut, dead := e.2.dead, routerDead := e.2.routerDead } : Cell)) else none)
      else some e
    loft := s.loft.filter fun (e : Nat × Byte) => fieldOf (BitVec.ofNat 19 (e.1 / 2 ^ 21)) != f
    loftErr := s.loftErr.filter fun (e : Nat × Nat) => fieldOf (BitVec.ofNat 19 (e.1 / 2 ^ 17)) != f
    scrubs := s.scrubs.filter fun k => fieldOf (BitVec.ofNat 19 (k / 2 ^ 17)) != f
    pmem := s.pmem.filter fun (e : Nat × BitVec 15) => fieldOf (BitVec.ofNat 19 (e.1 / 8192)) != f
    wains := s.wains.filter fun (e : Nat × Wain) => wainField (wainOfKey e.1) != f
    clocks := { s.clocks with lock := s.clocks.lock &&& ~~~(BitVec.ofNat 63 (2 ^ f.toNat)) } }
  let s := (List.range 16).foldl (fun s k =>
    if stackField k = f && (s.stack k).state = .active then s.setStack k { s.stack k with state := .selfref } else s) s
  (List.range 32).foldl (fun s i =>
    let m : MillNo := BitVec.ofNat 5 i
    if millField m = f then s.millDisable m 6 else s) (s.unregister fun c => fieldOf c == f)

/-- A field is dark: its hub keeps nothing but what the fuses and flash give it. -/
def State.fieldDark (s : State) (f : FieldNo) : State :=
  let h := s.hub f
  let s := s.fieldLost f
  let s := s.setHub f { dark := true, power := { cal := h.power.cal, trip := h.power.trip, weights := h.power.weights } }
  s.damage fun c => fieldOf c == f

/-- The number of a POWER notice's throttle record where it has none. -/
def noRecord : Nat := 0xFFFFFFFF

/-- A POWER notice (R498). -/
def State.powerNotice (s : State) (reason : Nat) (f : Option FieldNo) (tf : BitVec 16) (record : Nat) : State :=
  s.notice 8 14 (padBytes (leBytes 1 reason ++ leBytes 1 ((f.map BitVec.toNat).getD 0xFF) ++ leBytes 2 0 ++
    leBytes 4 s.power.module_ ++ leBytes 2 tf.toNat ++ leBytes 4 record) 48)

/-- The command that a supply fault or coolant stop overtakes answers ABORTED (R416, R468). -/
def State.abortScan (s : State) (t : PlotId → Bool) : State :=
  match (s.running.map Running.what : Option Waiting) with
  | some (.dry p) => if t p then (s.modPlot p fun q => { q with dryStart := none }).finish (refuse stAborted 0) else s
  | some (.scan p) => if t p then (s.modPlot p fun q => { q with scanning := false, scanCut := true }).finish (refuse stAborted 0) else s
  | _ => s

/-- The trip levels of PW_TRIP are exceeded: VCELL, VLOFT (R494). -/
def FieldPower.tripped (x : FieldPower) (vcell vloft : Nat) : Nat :=
  (if bits x.trip 31 16 < vcell then 1 else 0) + (if bits x.trip 15 0 < vloft then 2 else 0)

/-- A field has its entry in the ledger. -/
def State.fieldEntry (s : State) (f : FieldNo) : Bool := s.ledger.any fun e => e.names f.toNat 0xFF 0xFF

/-- The field entry of a supply trip (R429). -/
def State.tripEntry (s : State) (f : FieldNo) : State :=
  if s.fieldEntry f then s
  else s.ledgerAdd ⟨BitVec.ofNat 8 f.toNat, 0xFF, 0xFF, 2, false, false, false, s.epoch⟩

/-- The fields that are dark, in the order in which they went dark, and the map as the ward sees it when it
writes detour entries 12 to 15 (R254). -/
def State.darkNow (s : State) (fs : List FieldNo) : State :=
  { s with
    darkOrder := s.darkOrder ++ fs
    darkSeen := (s.map.filter fun (e : Nat × MapRow) => e.2.blocked != 0).map fun (e : Nat × MapRow) => (e.1, e.2.blocked)
    niCell := s.niCell.map fun (e : Nat × NiTables) =>
      (e.1, ({ e.2 with detours := e.2.detours.filter fun (d : Nat × Detour) => d.1 < 12 } : NiTables))
    niHub := s.niHub.map fun (e : Nat × NiTables) =>
      (e.1, ({ e.2 with detours := e.2.detours.filter fun (d : Nat × Detour) => d.1 < 12 } : NiTables)) }

/-- A field switch trips on peak currents (R459, R494, R498). -/
def State.fieldTrips (s : State) (f : FieldNo) (vcell vloft : BitVec 16) : State :=
  let h := s.hub f
  let rails := h.power.tripped vcell.toNat vloft.toNat
  let tf := h.power.tf
  let ps := s.plotsWith fun q => q.holds && q.cells.any fun c => fieldOf c == f
  let s := (s.fieldDark f).tripEntry f
  let s := if 9 ≤ s.boot.done then s.darkNow [f] else { s with tripped := s.tripped ++ [f] }
  let s := s.fault 9 f.toNat ([BitVec.ofNat 8 rails, 0] ++ leBytes 2 vcell.toNat ++ leBytes 2 vloft.toNat) 8 ps
  let s := if 8 ≤ s.boot.done then s.chooseBridge else s
  let s := s.abortScan fun p => ps.contains p
  (s.powerNotice 7 (some f) tf noRecord).refreshAlert

/-- FIELD_TRIP with the peak currents at the trip (R459, R494). -/
def execFieldTrip (f : FieldNo) (vcell vloft : BitVec 16) (s : State) : Out :=
  let h := s.hub f
  if 48 ≤ f.toNat || !h.powered || h.dark || h.power.tripped vcell.toNat vloft.toNat = 0 then .next s
  else .next (s.fieldTrips f vcell vloft)

/-! ### Resident ranges (R180 to R183, R411) -/

/-- Loft outside resident windows is set to zero in the cells that pass a test, with what R184 clears with
it; the scrub of each runs until SCRUB_COMPLETE (log entry 26). -/
def State.scrubCells (s : State) (t : CellId → Bool) (cs : List CellId) : State :=
  let guarded (c : CellId) (a : Nat) : Bool := s.residents.any fun r =>
    decide (r.lx ≤ lxOf c) && decide (lxOf c < r.lx + r.width) && decide (r.ly ≤ lyOf c) && decide (lyOf c < r.ly + r.height) &&
      decide (r.start ≤ a) && decide (a < r.start + r.len)
  let keep (k : Nat) : Bool :=
    let c : CellId := BitVec.ofNat 19 (k / 2 ^ 21)
    !t c || guarded c (k % 2 ^ 21)
  let keepWord (k : Nat) : Bool :=
    let c : CellId := BitVec.ofNat 19 (k / 2 ^ 17)
    !t c || guarded c (k % 2 ^ 17 * 16)
  let s := { s with
    loft := s.loft.filter fun (e : Nat × Byte) => keep e.1
    loftErr := s.loftErr.filter fun (e : Nat × Nat) => keepWord e.1
    scrubs := s.scrubs.filter keepWord }
  s.modCells cs fun v => { v with
    board := []
    queues := v.queues.map fun (e : Nat × Queue) => (e.1, ({ e.2 with ringHead := 0, ringLen := 0 } : Queue))
    scrubbing := true }

/-- A cell that a command or broadcast may reach: in the grid, and no hole. -/
def State.reachable (s : State) (c : CellId) : Bool := cellIdOk c && !s.isHole c

/-- SCRUB_COMPLETE (R184). -/
def execScrubComplete (c : CellId) (s : State) : Out :=
  if (s.cell c).scrubbing then .next (s.modCell c fun v => { v with scrubbing := false }) else .next s

end Sys2Proof.Machine
end

