-- ==== Sys2Proof/Machine/Image.lean ====
section
/-! DEFINITION. Plan images: blocks, records, and the checks of R367 to R379 and R346 on them (load checks
1 and 2 of R381). -/

namespace Sys2Proof.Machine

/-- A check that fails: status, block index and plot ID or 0xFF (R410). -/
structure Bad where
  status : Nat
  block  : Nat
  plot   : Nat
  deriving DecidableEq, Repr

/-- A block that has been read: its header fields, the address of its body, the body and its padding. -/
structure Block where
  index  : Nat
  kind   : Nat
  plot   : Nat
  config : Nat
  count  : Nat
  crc    : Word
  addr   : Nat
  body   : List Byte
  pad    : List Byte
  deriving DecidableEq, Repr

/-! ### Reading (R367, R368, R381 check 1) -/

/-- The length of a block's padding. -/
def padLen (n : Nat) : Nat := (64 - (16 + n) % 64) % 64

/-- One block at an address; the failure is IMAGE where it cannot be read, and CRC where its CRC-32C does
not match. -/
def State.readBlock (s : State) (i a : Nat) : State × (Bad ⊕ Block) :=
  if 2 ^ 42 < a + 16 then (s, .inl ⟨stImage, i, 0xFF⟩)
  else match s.wardRead a 16 with
    | (s, none) => (s, .inl ⟨stImage, i, 0xFF⟩)
    | (s, some h) =>
      let n := leAt h 4 4
      if 2 ^ 42 < a + 16 + n + padLen n then (s, .inl ⟨stImage, i, 0xFF⟩)
      else match s.wardRead (a + 16) (n + padLen n) with
        | (s, none) => (s, .inl ⟨stImage, i, 0xFF⟩)
        | (s, some l) =>
          let body := l.take n
          let crc : Word := BitVec.ofNat 32 (leAt h 12 4)
          if crc32c (h.take 12 ++ body) = crc then
            (s, .inr ⟨i, leAt h 0 2, leAt h 2 1, leAt h 3 1, leAt h 8 4, crc, a + 16, body, l.drop n⟩)
          else (s, .inl ⟨stCrc, i, 0xFF⟩)

/-- The blocks from an address on, up to END, the header's total length or the first that fails. -/
def State.readBlocks (s : State) (start total : Nat) : Nat → Nat → Nat → State × List Block × Option Bad
  | 0, _, _ => (s, [], none)
  | fuel + 1, i, a =>
    match s.readBlock i a with
    | (s, .inl e) => (s, [], some e)
    | (s, .inr b) =>
      let total := if i = 0 then (if b.kind = 1 then leAt b.body 8 4 else 0) else total
      let next := b.addr + b.body.length + b.pad.length
      if b.kind = 15 || start + total ≤ next then (s, [b], none)
      else match s.readBlocks start total fuel (i + 1) next with
        | (s, l, e) => (s, b :: l, e)

/-! ### Records -/

/-- A plot table entry (R369). -/
structure PlotRec where
  id       : Nat
  bay      : Bool
  scan     : Bool
  width    : Nat
  height   : Nat
  configs  : Nat
  wainMask : Byte
  area     : Nat
  deriving DecidableEq, Repr

/-- A box of plot-relative cells. -/
structure Box where
  x0 : Nat
  y0 : Nat
  x1 : Nat
  y1 : Nat
  deriving DecidableEq, Repr

def Box.holds (b : Box) (x y : Nat) : Bool := b.x0 ≤ x && x ≤ b.x1 && b.y0 ≤ y && y ≤ b.y1
def Box.meets (a b : Box) : Bool := a.x0 ≤ b.x1 && b.x0 ≤ a.x1 && a.y0 ≤ b.y1 && b.y0 ≤ a.y1
def Box.fits (b : Box) (w h : Nat) : Bool := b.x0 ≤ b.x1 && b.x1 < w && b.y0 ≤ b.y1 && b.y1 < h

/-- A rectangle record of a configuration (R371). -/
structure RectRec where
  box    : Box
  stale  : Option FlagNo
  queues : List DWord
  chans  : List (BitVec 128)
  deriving DecidableEq, Repr

/-- A configuration (R371). -/
structure ConfigRec where
  block  : Nat
  plot   : Nat
  config : Nat
  season : Season
  rects  : List RectRec
  deriving DecidableEq, Repr

/-- A piece of program (R373). -/
structure ProgRec where
  block  : Nat
  plot   : Nat
  config : Nat
  box    : Box
  addr   : Nat
  words  : List Word14
  deriving DecidableEq, Repr

/-- Initial loft contents (R374). -/
structure DataRec where
  block  : Nat
  plot   : Nat
  box    : Box
  addr   : Nat
  bytes  : List Byte
  deriving DecidableEq, Repr

/-- A latch entry (R375). -/
structure LatchRec where
  id    : LatchId
  value : Bool
  owner : PlotId
  deriving DecidableEq, Repr

/-- A slot of a gate record: kind, plot and target (R376). -/
structure SlotRec where
  kind   : Nat
  plot   : Nat
  target : Nat
  deriving DecidableEq, Repr

/-- A gate record (R376). -/
structure GateRec where
  id      : GateId
  ctrl    : Word
  latch   : Word
  timeout : Word
  parent  : Word
  mask    : BitVec 128
  slots   : List SlotRec
  deriving DecidableEq, Repr

/-- A residency claim (R386). -/
structure ClaimRec where
  key    : Word
  plot   : Nat
  px     : Nat
  py     : Nat
  width  : Nat
  height : Nat
  start  : Nat
  len    : Nat
  deriving DecidableEq, Repr

/-- An image whose records have been taken from its blocks. -/
structure PlanImage where
  blocks   : List Block
  epoch    : Nat
  wafer    : WaferId
  jobtag   : BitVec 16
  needFull : Bool
  plots    : List PlotRec
  configs  : List ConfigRec
  progs    : List ProgRec
  datas    : List DataRec
  latches  : List LatchRec
  gates    : List GateRec
  /-- mill, wain and chain address of the WAINS entries -/
  wains    : List (Nat × Nat × Nat)
  thr      : Option Config.ThrSections
  rank     : Option (List Word)
  route    : Option (List Word)
  detours  : List Detour
  power    : List (Nat × Nat)
  claims   : List ClaimRec
  deriving DecidableEq, Repr

/-- A list cut into records of a size. -/
def records (size : Nat) : Nat → List Byte → List (List Byte)
  | 0, _ => []
  | n + 1, l => l.take size :: records size n (l.drop size)

/-- Records of a block of fixed-size records. -/
def Block.recs (b : Block) (size : Nat) : List (List Byte) := records size (b.body.length / size) b.body

def takePlot (r : List Byte) : PlotRec :=
  ⟨leAt r 0 1, leAt r 1 1 % 2 == 1, leAt r 1 1 / 2 % 2 == 1, leAt r 2 2, leAt r 4 2, leAt r 6 1, BitVec.ofNat 8 (leAt r 7 1),
    leAt r 8 4⟩

def takeBox (r : List Byte) : Box := ⟨leAt r 0 2, leAt r 2 2, leAt r 4 2, leAt r 6 2⟩

def takeRect (r : List Byte) : RectRec :=
  let k := leAt r 8 1
  { box := takeBox r
    stale := if k / 16 % 2 = 1 then some (BitVec.ofNat 4 k) else none
    queues := (List.range 8).map fun i => BitVec.ofNat 64 (leAt r (16 + 8 * i) 8)
    chans := (List.range 4).map fun i => BitVec.ofNat 128 (leAt r (80 + 16 * i) 16) }

def takeConfig (b : Block) : ConfigRec :=
  ⟨b.index, b.plot, b.config, BitVec.ofNat 4 (leAt b.body 0 1), (records 144 ((b.body.length - 8) / 144) (b.body.drop 8)).map takeRect⟩

def takeProg (b : Block) : ProgRec :=
  ⟨b.index, b.plot, b.config, takeBox b.body, leAt b.body 8 2,
    (records 2 ((b.body.length - 16) / 2) (b.body.drop 16)).map fun w => BitVec.ofNat 14 (leNat w)⟩

def takeData (b : Block) : DataRec :=
  ⟨b.index, b.plot, takeBox b.body, leAt b.body 8 4, b.body.drop 16⟩

def takeLatch (r : List Byte) : LatchRec :=
  let x := leNat r
  ⟨BitVec.ofNat 17 x, x / 2 ^ 17 % 2 == 1, BitVec.ofNat 7 (x / 2 ^ 18)⟩

def takeSlot (r : List Byte) : SlotRec := ⟨leAt r 0 1, leAt r 1 1, leAt r 4 4⟩

def takeGate (r : List Byte) : GateRec :=
  { id := BitVec.ofNat 12 (leAt r 0 2)
    ctrl := BitVec.ofNat 32 (leAt r 4 4)
    latch := BitVec.ofNat 32 (leAt r 8 4)
    timeout := BitVec.ofNat 32 (leAt r 12 4)
    parent := BitVec.ofNat 32 (leAt r 16 4)
    mask := BitVec.ofNat 128 (leAt r 32 16)
    slots := (records 8 128 (r.drop 48)).map takeSlot }

def takeDetour (r : List Byte) : Detour :=
  ⟨leAt r 0 2, leAt r 2 2, leAt r 4 2, leAt r 6 2, BitVec.ofNat 19 (leAt r 8 4)⟩

def takeClaim (r : List Byte) : ClaimRec :=
  ⟨BitVec.ofNat 32 (leAt r 0 4), leAt r 4 1, leAt r 8 2, leAt r 10 2, leAt r 12 2, leAt r 14 2, leAt r 16 4, leAt r 20 4⟩

/-- The blocks of a kind. -/
def ofKind (bs : List Block) (k : Nat) : List Block := bs.filter fun b => b.kind == k

/-- The records of the blocks. -/
def takeImage (bs : List Block) : PlanImage :=
  let h := ((bs.head?).map Block.body).getD []
  let recsOf (k size : Nat) : List (List Byte) := (ofKind bs k).flatMap fun b => b.recs size
  let words (k : Nat) : Option (List Word) :=
    if (ofKind bs k).isEmpty then none else some ((recsOf k 4).map fun r => BitVec.ofNat 32 (leNat r))
  { blocks := bs
    epoch := leAt h 12 4
    wafer := BitVec.ofNat 12 (leAt h 16 2)
    jobtag := BitVec.ofNat 16 (leAt h 18 2)
    needFull := leAt h 21 1 % 2 == 1
    plots := (recsOf 2 32).map takePlot
    configs := (ofKind bs 3).map takeConfig
    progs := (ofKind bs 4).map takeProg
    datas := (ofKind bs 5).map takeData
    latches := (recsOf 6 4).map takeLatch
    gates := (recsOf 7 1072).map takeGate
    wains := (recsOf 8 16).map fun r => (leAt r 0 1, leAt r 1 1, leAt r 8 8)
    thr := ((ofKind bs 9).head?).map fun b => Config.thrSections b.body
    rank := words 10
    route := words 11
    detours := (recsOf 12 16).map takeDetour
    power := (recsOf 13 4).map fun r => (leAt r 0 1, leAt r 2 2)
    claims := (recsOf 14 32).map takeClaim }

def PlanImage.plot (im : PlanImage) (p : Nat) : Option PlotRec := im.plots.find? fun e => e.id == p
def PlanImage.config (im : PlanImage) (p k : Nat) : Option ConfigRec := im.configs.find? fun c => c.plot == p && c.config == k
/-- The index of the first block of a kind. -/
def PlanImage.blockOf (im : PlanImage) (k : Nat) : Nat := (((ofKind im.blocks k).head?).map Block.index).getD 0

/-! ### Layouts (R381 check 2) -/

/-- Every byte of a range of a record is 0. -/
def zeros (r : List Byte) (off n : Nat) : Bool := ((r.drop off).take n).all fun b => b == 0

/-- Kinds that name a plot. -/
def perPlot (k : Nat) : Bool := k == 3 || k == 4 || k == 5

/-- The record size of a kind of fixed-size records. -/
def recSize : Nat → Option Nat
  | 2 => some 32
  | 6 => some 4
  | 7 => some 1072
  | 8 => some 16
  | 10 => some 4
  | 11 => some 4
  | 12 => some 16
  | 13 => some 4
  | 14 => some 32
  | _ => none

/-- Count and body length of a block agree (R368). -/
def Block.sizeOk (b : Block) : Bool :=
  match recSize b.kind with
  | some n => b.body.length == b.count * n
  | none =>
    if b.kind = 3 then b.body.length == 8 + 144 * b.count
    else if b.kind = 15 then b.count == 0 && b.body.isEmpty
    else b.count == 1

/-- The header block (R367, R368). -/
def headerOk (bs : List Block) (b : Block) : Bool :=
  let h := b.body
  let total := (bs.map fun x => 16 + x.body.length + x.pad.length).sum
  h.length == 64 && leAt h 0 4 == 0x4E414C50 && leAt h 4 2 == 1 && leAt h 6 2 == bs.length && leAt h 8 4 == total &&
    decide (leAt h 16 2 < 2 ^ 12) && decide (1 ≤ leAt h 20 1) && decide (leAt h 20 1 ≤ 96) && decide (leAt h 21 1 ≤ 1) &&
    zeros h 32 32

/-- A plot table entry (R369). -/
def plotRecOk (r : List Byte) : Bool :=
  let e := takePlot r
  decide (e.id ≤ 95) && decide (leAt r 1 1 ≤ 3) && decide (1 ≤ e.width) && decide (e.width ≤ 624) && decide (1 ≤ e.height) &&
    decide (e.height ≤ 384) && decide (1 ≤ e.configs) && decide (e.configs ≤ 16) && (e.scan || e.area == 0) && zeros r 12 20

/-- Numbers strictly rise. -/
def rising : List Nat → Bool
  | a :: b :: l => decide (a < b) && rising (b :: l)
  | _ => true

/-- A channel record (R258, R259, R371). -/
def chanOk (x : BitVec 128) : Bool :=
  let o : Chan := { cfg := x }
  decide (bits x 7 0 < 32) && bits x 127 96 == 0 &&
    (!o.en || (o.destKind != 3 && decide (bits x 23 16 ≤ 7) && decide (bits x 31 24 ≤ 3) && (o.destKind != 1 || decide (bits x 15 8 ≤ 95)) &&
      (if o.destKind = 2 then bits x 63 42 == 0 && o.wayOff.isNone else bits x 63 51 == 0)))

/-- A queue record (R176, R371). -/
def queueOk (x : DWord) : Bool := bits x 40 32 == 0 && decide (bits x 61 55 ≤ 64)

/-- A rectangle record of a plot (R371). -/
def rectOk (p : PlotRec) (r : List Byte) : Bool :=
  let x := takeRect r
  x.box.fits p.width p.height && decide (leAt r 8 1 < 32) && zeros r 9 7 && x.queues.all queueOk && x.chans.all chanOk

/-- No two of a list are related. -/
def pairwiseNot {α : Type} (t : α → α → Bool) : List α → Bool
  | [] => true
  | a :: l => (l.all fun b => !t a b) && pairwiseNot t l

/-- A CONFIG block (R371). -/
def configOk (p : PlotRec) (b : Block) : Bool :=
  let rs := records 144 ((b.body.length - 8) / 144) (b.body.drop 8)
  decide (leAt b.body 0 1 ≤ 15) && zeros b.body 1 7 && rs.all (rectOk p) &&
    pairwiseNot (fun (x y : RectRec) => x.box.meets y.box) (rs.map takeRect)

/-- A PROGRAM block (R35, R373). -/
def progOkIn (p : PlotRec) (b : Block) : Bool :=
  let x := takeProg b
  decide (16 ≤ b.body.length) && b.body.length % 2 == 0 && x.box.fits p.width p.height && zeros b.body 10 6 &&
    decide (x.addr + x.words.length ≤ 0x1C00) &&
    (records 2 ((b.body.length - 16) / 2) (b.body.drop 16)).all fun w => decide (leNat w < 0x4000)

/-- Two pieces of one configuration cover a word of a cell twice (R373). -/
def ProgRec.clashes (a b : ProgRec) : Bool :=
  a.plot == b.plot && a.config == b.config && a.box.meets b.box && decide (a.addr < b.addr + b.words.length) &&
    decide (b.addr < a.addr + a.words.length)

/-- A DATA block (R374). -/
def dataOk (p : PlotRec) (b : Block) : Bool :=
  let x := takeData b
  decide (16 ≤ b.body.length) && x.box.fits p.width p.height && zeros b.body 12 4 && decide (x.addr + x.bytes.length ≤ 2 ^ 21)

/-- An owner is a plot ID or 127 (R4). -/
def ownerOk (x : Nat) : Bool := decide (x ≤ 95) || x == 127

/-- A latch entry (R375). -/
def latchRecOk (r : List Byte) : Bool :=
  let x := leNat r
  decide (x < 2 ^ 25) && latchIdOk (BitVec.ofNat 17 x) && ownerOk (x / 2 ^ 18)

/-- A binding of kind GATE or MILL, without its kind (FH_GATE_SLOTn). -/
def targetGateOk (kind t : Nat) : Bool := gateIdOk (BitVec.ofNat 12 t) && decide (t < (if kind = 2 then 2 ^ 12 else 2 ^ 29))

/-- A slot record (R376). -/
def slotRecOk (r : List Byte) : Bool :=
  let x := takeSlot r
  decide (x.kind ≤ 3) && zeros r 2 2 &&
    (match x.kind with
     | 0 => true
     | 1 => decide (x.target < 2 ^ 19)
     | k => x.plot == 0 && targetGateOk k x.target)

/-- A gate record (R376). -/
def gateRecOk (r : List Byte) : Bool :=
  let x := takeGate r
  let pk := bits x.parent 31 30
  decide (leAt r 0 2 < 3072) && zeros r 2 2 && zeros r 20 12 && bits x.ctrl 18 1 == 0 && ownerOk (bits x.ctrl 25 19) &&
    bits x.latch 31 27 == 0 && bits x.latch 15 9 == 0 && bits x.timeout 30 16 == 0 && bits x.timeout 15 0 != 0 &&
    pk != 1 && bits x.parent 29 29 == 0 && (pk == 0 || targetGateOk pk (bits x.parent 28 0)) &&
    (records 8 128 (r.drop 48)).all slotRecOk

/-- A gate record that is enabled at load. -/
def GateRec.en (x : GateRec) : Bool := x.ctrl.msb
def GateRec.latchSet (x : GateRec) : List Nat := bits x.latch 26 16 :: (List.range 4).map fun k => 4 * bits x.latch 8 0 + k

/-- The check of R273 on one enabled record, by itself. -/
def GateRec.complete (x : GateRec) : Bool :=
  x.mask != 0 && (List.range 128).all (fun k => !x.mask.getLsbD k || ((x.slots[k]?).map SlotRec.kind).getD 0 != 0) &&
    bits x.latch 26 16 / 4 != bits x.latch 8 0

/-- Two enabled records share a latch of one field. -/
def GateRec.clashes (a b : GateRec) : Bool :=
  a.en && b.en && gateField a.id == gateField b.id && a.latchSet.any fun k => b.latchSet.contains k

/-- The GATES block, as a whole (R376). -/
def gatesOk (gs : List GateRec) : Bool :=
  pairwiseNot (fun (a b : GateRec) => a.id == b.id) gs && gs.all (fun x => !x.en || x.complete) && pairwiseNot GateRec.clashes gs

/-- A rank entry that PLAN_LOAD and HG_RANK_WR accept (R336, R337). -/
def rankOk (x : Word) : Bool := bits x 31 30 != 3 && decide (bits x 17 0 < 239616)
/-- A route entry's layout (R338). -/
def routeOk (x : Word) : Bool := bits x 28 20 == 0
/-- The mills that a valid route entry names. -/
def routeMills (x : Word) : List MillNo :=
  if x.msb then (List.range (bits x 30 29 + 1)).map fun i => BitVec.ofNat 5 (bits x (5 * i + 4) (5 * i)) else []

/-- A detour entry (R378). -/
def detourOk (r : List Byte) : Bool :=
  let e := takeDetour r
  decide (e.lxLo ≤ 623) && decide (e.lxHi ≤ 623) && decide (e.lyLo ≤ 383) && decide (e.lyHi ≤ 383) && decide (leAt r 8 4 < 2 ^ 19) &&
    cellIdOk e.waypt && zeros r 12 4

/-- A residency claim (R386); its match is check 6 (R182). -/
def claimRecOk (im : PlanImage) (r : List Byte) : Bool :=
  let e := takeClaim r
  e.key != 0 && (im.plot e.plot).isSome && zeros r 5 3 && zeros r 24 8 && e.width != 0 && e.height != 0

/-! ### Threshing schedules (R346, R362) -/

/-- A range of a loft clear of its last page (R346). -/
def rangeOk (a n : Nat) : Bool := decide (a + n ≤ 0x1FF000)

/-- Records from `first` on. -/
def recRange (l : List (List Byte)) (first count : Nat) : List (List Byte) := (l.drop first).take count

/-- Segment or return records with the element count of each: it ends where the next begins. -/
def takeSegs (total : Nat) : List (List Byte) → List ThrSeg
  | [] => []
  | [r] => [takeSeg1 r total]
  | r :: r' :: l => takeSeg1 r (leAt r' 12 4) :: takeSegs total (r' :: l)
where
  takeSeg1 (r : List Byte) (stop : Nat) : ThrSeg :=
    ⟨BitVec.ofNat 7 (leAt r 0 1), leAt r 4 4 % 1024, leAt r 4 4 / 1024, leAt r 8 4, leAt r 12 4, stop - leAt r 12 4⟩

/-- The cast type and block size of a tensor record, byte 9. -/
def castOf (x : Nat) : Option (ElemType × Option BlockSize) :=
  let ty : Option ElemType := match x % 8 with
    | 1 => some .ch16
    | 2 => some .ch8e
    | 3 => some .ch8m
    | _ => none
  let bs : Option BlockSize := match x / 8 with
    | 1 => some .b16
    | 2 => some .b32
    | 3 => some .b64
    | _ => none
  match ty with
  | some t => if 32 ≤ x || (t == .ch16 && x / 8 != 0) then none else some (t, bs)
  | none => none

/-- A tensor record with what it names. -/
def takeTensor (x : Config.ThrSections) (r : List Byte) : ThrTensor :=
  let n := leAt r 4 4
  let c := (castOf (leAt r 9 1)).getD (.ch16, none)
  let root := leAt r 10 2 / 2 ^ 15 == 1
  { id := BitVec.ofNat 12 (leAt r 0 2)
    e := (BitVec.ofNat 16 (leAt r 2 2)).toInt
    count := n
    children := (List.range (leAt r 8 1)).map fun i =>
      let w := leAt r (24 + 4 * i) 4
      ⟨BitVec.ofNat 12 w, BitVec.ofNat 5 (w / 2 ^ 16), BitVec.ofNat 5 (w / 2 ^ 24)⟩
    cast := c.1
    block := c.2
    root := root
    parent := BitVec.ofNat 12 (leAt r 10 2)
    parentMill := BitVec.ofNat 5 (leAt r 12 1)
    upMill := BitVec.ofNat 5 (leAt r 13 1)
    segs := takeSegs n (recRange x.segs (leAt r 16 2) (leAt r 18 2))
    rets := takeSegs n (recRange x.rets (leAt r 20 2) (leAt r 22 2))
    sum := if root then leAt r 56 8 else 0
    streams := if root then (List.range 5).map fun i => leAt r (64 + 8 * i) 8 else []
    prog := if root then
        let p := (x.progs[leAt r 14 1]?).getD []
        (records 4 (leAt p 0 1 % 128) (p.drop 4)).map fun w => BitVec.ofNat 32 (leNat w)
      else []
    consts := if root then (records 4 32 ((x.consts[leAt r 15 1]?).getD [])).map fun w => BitVec.ofNat 32 (leNat w) else [] }

/-- A group record with its tensors. -/
def takeGroup (x : Config.ThrSections) (r : List Byte) : ThrGroup :=
  { id := leAt r 0 1
    mode := BitVec.ofNat 2 (leAt r 1 1)
    maxRerun := leAt r 1 1 / 4
    plot := BitVec.ofNat 7 (leAt r 3 1)
    stride := leAt r 4 2
    trigger := BitVec.ofNat 12 (leAt r 6 2)
    harvest := BitVec.ofNat 17 (leAt r 8 4)
    ret := BitVec.ofNat 17 (leAt r 12 4)
    px := leAt r 16 4 % 1024
    py := leAt r 16 4 / 1024
    addr := leAt r 20 4
    retention := leAt r 24 8
    timeout := leAt r 32 2
    tensors := (recRange x.tensors (leAt r 34 2) (leAt r 36 2)).map (takeTensor x) }

/-- The local mill of a group record. -/
def groupMill (r : List Byte) : Nat := leAt r 2 1

/-- A cell of a plot of the image. -/
def PlanImage.cellOk (im : PlanImage) (p x y : Nat) : Bool := (im.plot p).any fun e => decide (x < e.width) && decide (y < e.height)

/-- A segment or return record (R346). -/
def segRecOk (im : PlanImage) (r : List Byte) : Bool :=
  r.length == 16 && zeros r 1 3 && im.cellOk (leAt r 0 1) (leAt r 4 4 % 1024) (leAt r 4 4 / 1024)

/-- A group record (R346). -/
def groupOk (im : PlanImage) (x : Config.ThrSections) (r : List Byte) : Bool :=
  let g := takeGroup x r
  let n := leAt r 36 2
  r.length == 64 && decide (g.id ≤ 15) && decide (leAt r 1 1 < 16) && g.mode != 3 && decide (groupMill r < 32) && g.stride != 0 &&
    decide (leAt r 6 2 < 3072) && gateField g.trigger == millField (BitVec.ofNat 5 (groupMill r)) &&
    decide (leAt r 8 4 < 2 ^ 17) && latchIdOk g.harvest && decide (leAt r 12 4 < 2 ^ 17) && latchIdOk g.ret &&
    im.cellOk (leAt r 3 1) g.px g.py && g.addr % 32 == 0 && decide (g.addr + 32 ≤ 2 ^ 21) && g.retention % 2 ^ 21 == 0 &&
    decide (g.retention < 2 ^ 42) && g.timeout != 0 && decide (1 ≤ n) && decide (n ≤ 4096) &&
    decide (leAt r 34 2 + n ≤ x.tensors.length) && zeros r 38 26

/-- A tensor record (R346). -/
def tensorOk (im : PlanImage) (x : Config.ThrSections) (r : List Byte) : Bool :=
  let t := takeTensor x r
  let segs := recRange x.segs (leAt r 16 2) (leAt r 18 2)
  let rets := recRange x.rets (leAt r 20 2) (leAt r 22 2)
  let ranged (first count : Nat) (l : List (List Byte)) : Bool := decide (first + count ≤ l.length)
  r.length == 128 && decide (leAt r 0 2 < 4096) && decide (-192 ≤ t.e) && decide (t.e ≤ 32) && decide (1 ≤ t.count) &&
    decide (t.count < 2 ^ 30) && decide (leAt r 8 1 ≤ 8) && (castOf (leAt r 9 1)).isSome && leAt r 10 2 / 2 ^ 12 % 8 == 0 &&
    decide (leAt r 12 1 < 32) && decide (leAt r 13 1 < 32) && ranged (leAt r 16 2) (leAt r 18 2) x.segs &&
    ranged (leAt r 20 2) (leAt r 22 2) x.rets && (segs ++ rets).all (segRecOk im) &&
    -- the segments cover each element exactly once
    (t.segs.head?.map ThrSeg.first) == some 0 && rising (t.segs.map ThrSeg.first ++ [t.count]) &&
    rising (t.rets.map ThrSeg.first ++ [t.count]) && t.segs.all (fun g => rangeOk g.addr (4 * g.count)) &&
    t.rets.all (fun g => rangeOk g.addr (castBytes t.cast t.block g.addr g.count) &&
      match t.block with
      | some b => g.count % blockLen b == 0
      | none => true) &&
    (List.range (leAt r 8 1)).all (fun i => let w := leAt r (24 + 4 * i) 4
      w / 2 ^ 12 % 16 == 0 && w / 2 ^ 21 % 8 == 0 && w / 2 ^ 29 == 0) &&
    (!t.root || (decide (leAt r 14 1 < x.progs.length) && decide (leAt r 15 1 < x.consts.length))) && zeros r 104 24

/-- A winnower program with its header (R362). -/
def programOk (p : List Byte) : Bool :=
  let n := leAt p 0 1 % 128
  decide (4 ≤ p.length) && decide (1 ≤ n) && decide (n ≤ 64) && p.length == 4 + 4 * n &&
    progOk ((records 4 n (p.drop 4)).map fun w => BitVec.ofNat 32 (leNat w))

/-- The threshing schedule's records (R346). -/
def schedOk (im : PlanImage) (x : Config.ThrSections) : Bool :=
  decide (x.groups.length ≤ 16) && decide (x.tensors.length ≤ 4096) && decide (x.segs.length ≤ 65536) &&
    decide (x.rets.length ≤ 65536) && decide (x.progs.length ≤ 16) && decide (x.consts.length ≤ 16) &&
    x.groups.all (groupOk im x) && x.tensors.all (tensorOk im x) && x.progs.all programOk &&
    x.consts.all (fun c => c.length == 128) && (x.groups.map fun r => leAt r 0 1).Nodup &&
    (x.tensors.map fun r => leAt r 0 2).Nodup

/-! ### The checks of one block -/

/-- One block by itself (R367 to R379, R346). -/
def Block.layoutOk (im : PlanImage) (b : Block) : Bool :=
  let p := im.plot b.plot
  decide (1 ≤ b.kind) && decide (b.kind ≤ 15) && (b.kind == 1) == (b.index == 0) && (b.kind == 15) == (b.index + 1 == im.blocks.length) &&
    b.sizeOk && b.pad.all (fun x => x == 0) &&
    (if perPlot b.kind then p.isSome else b.plot == 0xFF) &&
    (if b.kind = 3 || b.kind = 4 then p.any fun e => decide (b.config < e.configs) else b.config == 0xFF) &&
    match b.kind with
    | 1 => headerOk im.blocks b
    | 2 => (b.recs 32).all plotRecOk && rising (im.plots.map PlotRec.id) &&
        im.plots.length == leAt (((im.blocks.head?).map Block.body).getD []) 20 1
    | 3 => p.any fun e => configOk e b
    | 4 => p.any fun e => progOkIn e b
    | 5 => p.any fun e => dataOk e b
    | 6 => (b.recs 4).all latchRecOk
    | 7 => (b.recs 1072).all gateRecOk && gatesOk im.gates
    | 8 => (b.recs 16).all fun r => decide (leAt r 0 1 ≤ 31) && decide (leAt r 1 1 ≤ 1) && zeros r 2 6 && decide (leAt r 8 8 < 2 ^ 42) &&
        leAt r 8 8 % 64 == 0 && !(im.thr.any fun x => x.groups.any fun g => groupMill g == leAt r 0 1)
    | 9 => im.thr.any (schedOk im)
    | 10 => (im.rank.getD []).all rankOk
    | 11 => b.count == 4096 && (im.route.getD []).all routeOk
    | 12 => decide (b.count ≤ 12) && (b.recs 16).all detourOk
    | 13 => (b.recs 4).all fun r => (im.plot (leAt r 0 1)).isSome && zeros r 1 1 && leAt r 2 2 != 0
    | 14 => (b.recs 32).all (claimRecOk im)
    | _ => true

/-- An earlier block takes the place of this one: a kind that an image holds once, or one configuration
of a plot twice, or a piece over a word that another covers (R368, R373). -/
def Block.repeats (b a : Block) : Bool :=
  decide (a.index < b.index) && a.kind == b.kind &&
    match b.kind with
    | 3 => a.plot == b.plot && a.config == b.config
    | 4 => (takeProg a).clashes (takeProg b)
    | 5 => false
    | _ => true

/-! ### Rings, scan areas and widths -/

/-- The spill rings of a rectangle: of every queue with a spill size, enabled or not (R176). -/
def RectRec.rings (r : RectRec) : List (Nat × Nat) :=
  r.queues.filterMap fun x =>
    let q : Queue := { cfg := x }
    if q.spill != 0 then some (q.ringBase, q.ringBase + 4096 * q.spill) else none

/-- The scan area of a plot as a list of ranges (R226). -/
def PlotRec.scanArea (e : PlotRec) : List (Nat × Nat) := if e.scan then [(e.area, e.area + 0x10000)] else []

/-- The configurations of a plot. -/
def PlanImage.configsOf (im : PlanImage) (p : Nat) : List ConfigRec := im.configs.filter fun c => c.plot == p

/-- A DATA range meets a spill ring of a cell that it writes, or the scan area (R374). -/
def PlanImage.dataClash (im : PlanImage) (d : DataRec) : Bool :=
  let r := (d.addr, d.addr + d.bytes.length)
  !d.bytes.isEmpty &&
    (((im.plot d.plot).any fun e => e.scanArea.any (rangesMeet r)) ||
      (im.configsOf d.plot).any fun c => c.rects.any fun x => x.box.meets d.box && x.rings.any (rangesMeet r))

/-- The plot and the cells that the channels of a rectangle reach. -/
def chanReach (p : Nat) (b : Box) (o : Chan) : Nat × Box :=
  let x := o.target % 1024
  let y := o.target / 1024
  match o.destKind with
  | 0 => (p, ⟨x, y, x, y⟩)
  | 1 => (o.dplot.toNat, ⟨x, y, x, y⟩)
  | _ => (p, match o.dir.toNat with
      | 0 => { b with x1 := b.x1 + o.span }
      | 1 => { b with x0 := b.x0 - o.span }
      | 2 => { b with y1 := b.y1 + o.span }
      | _ => { b with y0 := b.y0 - o.span })

/-- A channel names a plot and a cell of the image, and every queue that it may feed has its width (R200). -/
def PlanImage.chanFits (im : PlanImage) (p : Nat) (r : RectRec) (x : BitVec 128) : Bool :=
  let o : Chan := { cfg := x }
  let (dp, box) := chanReach p r.box o
  !o.en || ((o.destKind == 2 || im.cellOk dp box.x0 box.y0) &&
    (im.configsOf dp).all fun c => c.rects.all fun d =>
      let q : Queue := { cfg := (d.queues[o.dqueue.toNat]?).getD 0 }
      !q.en || !box.meets d.box || q.vec == o.vec)

/-- Check 2 of R381: the first block that breaks a layout, then the rules that join blocks. -/
def PlanImage.formatBad (im : PlanImage) : Option Bad :=
  let plotByte (b : Block) : Nat := if perPlot b.kind then b.plot else 0xFF
  let blocks := im.blocks.findSome? fun b =>
    if b.layoutOk im && !im.blocks.any b.repeats then none else some (Bad.mk stFormat b.index (plotByte b))
  let missing := im.plots.findSome? fun e =>
    if (List.range e.configs).all fun k => (im.config e.id k).isSome then none else some (Bad.mk stFormat (im.blockOf 2) e.id)
  let datas := im.datas.findSome? fun d => if im.dataClash d then some (Bad.mk stFormat d.block d.plot) else none
  let widths := im.configs.findSome? fun c =>
    if c.rects.all fun r => r.chans.all (im.chanFits c.plot r) then none else some (Bad.mk stFormat c.block c.plot)
  if (ofKind im.blocks 1).isEmpty || (ofKind im.blocks 2).isEmpty then some ⟨stFormat, 0, 0xFF⟩
  else if (ofKind im.blocks 15).isEmpty then some ⟨stFormat, im.blocks.length - 1, 0xFF⟩
  else blocks <|> missing <|> datas <|> widths

end Sys2Proof.Machine
end

