-- ==== Sys2Proof/Machine/Place.lean ====
section
/-! DEFINITION. Placement: where a plot may stand, and load checks 3 to 6 of R381 (R176, R182, R185, R190,
R226, R258, R337, R338, R370, R372, R380 to R387, R435). -/

namespace Sys2Proof.Machine

/-! ### Ground -/

/-- A rectangle of logical cells with the hub wains that a plot on it asks for. -/
structure Ground where
  lx   : Nat
  ly   : Nat
  w    : Nat
  h    : Nat
  mask : Byte
  deriving DecidableEq, Repr

def Ground.meets (a b : Ground) : Bool :=
  decide (a.lx < b.lx + b.w) && decide (b.lx < a.lx + a.w) && decide (a.ly < b.ly + b.h) && decide (b.ly < a.ly + a.h)

def Ground.inGrid (g : Ground) : Bool := decide (g.lx + g.w ≤ 624) && decide (g.ly + g.h ≤ 384)

/-- The fields that a ground covers, ascending. -/
def Ground.fields (g : Ground) : List FieldNo :=
  ((List.range 48).map (BitVec.ofNat 6)).filter fun f =>
    g.meets ⟨78 * fxOf f, 64 * fyOf f, 78, 64, 0⟩

def Ground.cells (g : Ground) : List CellId := rectCells g.lx g.ly g.w g.h

/-- Two grounds cover one field and ask for the same wain index (R370). -/
def Ground.wainClash (a b : Ground) : Bool :=
  a.mask &&& b.mask != 0 && a.fields.any fun f => b.fields.contains f

/-- The ground of a plot of the loaded plan. -/
def Plot.ground (q : Plot) : Ground := ⟨q.lx.toNat, q.ly.toNat, q.width.toNat, q.height.toNat, q.wainMask⟩

/-- The wains that the placement gives a plot, in field and index order (R308, R370). -/
def Ground.wains (g : Ground) : List Nat :=
  g.fields.flatMap fun f => ((List.range 8).filter fun i => g.mask.getLsbD i).map fun i => f.toNat * 8 + i

/-- Fields next to a field in the grid. -/
def nextFields (f : Nat) : List Nat :=
  (if f % 8 = 0 then [] else [f - 1]) ++ (if f % 8 = 7 then [] else [f + 1]) ++ (if f < 8 then [] else [f - 8]) ++
    (if f < 40 then [f + 8] else [])

/-- Fields that a chain of fields that are not dark joins to those of a list (R435). -/
def State.joinedFrom (s : State) : Nat → List Nat → List Nat
  | 0, l => l
  | fuel + 1, l =>
    let lit (f : Nat) : Bool := !(s.hub (BitVec.ofNat 6 f)).dark
    let more := ((l.flatMap nextFields).filter fun f => lit f && !l.contains f).dedup
    if more.isEmpty then l else s.joinedFrom fuel (l ++ more)

/-- The fields that are not cut off. -/
def State.joined (s : State) : List Nat :=
  s.joinedFrom 48 ([0, 8].filter fun f => !(s.hub (BitVec.ofNat 6 f)).dark)

/-- The ground lies in the grid and holds no hole and no cell of a field that is cut off (R20, R190, R435). -/
def State.groundOk (s : State) (g : Ground) : Bool :=
  g.inGrid && g.fields.all (fun f => s.joined.contains f.toNat) && g.cells.all fun c => !s.isHole c

/-- A waypoint or detour is a logical cell that is not a blocked hole (R253, R372). -/
def State.wayCell (s : State) (x y : Int) : Bool :=
  decide (0 ≤ x) && decide (x ≤ 623) && decide (0 ≤ y) && decide (y ≤ 383) && !s.isBlocked (mkCell x.toNat y.toNat)

/-- The waypoints of a configuration at an origin (R372). -/
def State.waysOk (s : State) (c : ConfigRec) (lx ly : Nat) : Bool :=
  c.rects.all fun r => r.chans.all fun x =>
    let o : Chan := { cfg := x }
    !o.en || match o.wayOff with
      | some (dx, dy) => s.wayCell ((lx : Int) + dx) ((ly : Int) + dy)
      | none => true

/-- A resident window of a cell of a box meets a byte range (R176, R226, R387). -/
def State.windowMeets (s : State) (g : Ground) (r : Nat × Nat) : Bool :=
  s.residents.any fun x => g.meets ⟨x.lx, x.ly, x.width, x.height, 0⟩ && rangesMeet r (x.start, x.start + x.len)

/-- A box of a plot placed at an origin. -/
def Box.placed (b : Box) (lx ly : Nat) : Ground := ⟨lx + b.x0, ly + b.y0, b.x1 + 1 - b.x0, b.y1 + 1 - b.y0, 0⟩

/-- The spill rings of one rectangle (R176). -/
def State.ringsOk (s : State) (r : RectRec) (lx ly : Nat) : Bool :=
  let l := r.rings
  l.all (fun x => decide (x.2 ≤ 0x1FF000) && !s.windowMeets (r.box.placed lx ly) x) && pairwiseNot rangesMeet l &&
    decide ((l.map fun x => x.2 - x.1).sum ≤ 512 * 1024)

/-- The scan area of a plot (R226). -/
def State.areaOk (s : State) (im : PlanImage) (e : PlotRec) (g : Ground) : Bool :=
  e.scanArea.all fun x => x.1 % 0x10000 == 0 && decide (x.2 ≤ 0x1FF000) && !s.windowMeets g x &&
    (im.configsOf e.id).all fun c => c.rects.all fun r => !r.rings.any (rangesMeet x)

/-- DATA ranges meet no resident window (R374, R387). -/
def State.datasOk (s : State) (im : PlanImage) (p lx ly : Nat) : Bool :=
  (im.datas.filter fun d => d.plot == p).all fun d =>
    d.bytes.isEmpty || !s.windowMeets (d.box.placed lx ly) (d.addr, d.addr + d.bytes.length)

/-- A bay plot's shape (R185). -/
def PlotRec.bayOk (e : PlotRec) : Bool := !e.bay || (e.width % 4 == 0 && e.height % 6 == 0)

/-- The ground that a plot of the image takes at an origin. -/
def PlotRec.ground (e : PlotRec) (lx ly : Nat) : Ground := ⟨lx, ly, e.width, e.height, e.wainMask⟩

/-- The spans of multicast channels stay within the plot (R258). -/
def spansOk (e : PlotRec) (c : ConfigRec) : Bool :=
  c.rects.all fun r => r.chans.all fun x =>
    let o : Chan := { cfg := x }
    !o.en || o.destKind != 2 || match o.dir.toNat with
      | 0 => decide (r.box.x1 + o.span < e.width)
      | 1 => decide (o.span ≤ r.box.x0)
      | 2 => decide (r.box.y1 + o.span < e.height)
      | _ => decide (o.span ≤ r.box.y0)

/-! ### Check 3 (R338, R346, R381) -/

/-- Mills of the wafer that a schedule names: local mills, and sending mills. -/
def schedMills (x : Config.ThrSections) : List MillNo :=
  (x.groups.map fun r => BitVec.ofNat 5 (groupMill r)) ++ x.tensors.flatMap fun r =>
    let t := takeTensor x r
    (if t.root then [] else [t.upMill]) ++ t.children.map ThrChild.down

/-- Mills that a gate record names. -/
def gateMills (x : GateRec) : List MillNo :=
  (if bits x.parent 31 30 = 3 then [bindMill x.parent] else []) ++
    (x.slots.filter fun y => y.kind == 3).map fun y => BitVec.ofNat 5 (y.target / 2 ^ 24)

/-- Check 3: what the licence does not give. -/
def State.licenceBad (s : State) (im : PlanImage) : Option Bad :=
  let ok (ms : List MillNo) : Bool := ms.all fun m => (s.mill m).licensed
  let bad (k : Nat) : Option Bad := some ⟨stLicence, im.blockOf k, 0xFF⟩
  if im.needFull && !s.licence.full then bad 1
  else if im.thr.isSome && !s.licence.full then bad 9
  else if !(im.thr.all fun x => ok (schedMills x)) then bad 9
  else if !ok (im.wains.map fun w => BitVec.ofNat 5 w.1) then bad 8
  else if !(im.route.getD []).all (fun x => ok (routeMills x)) then bad 11
  else if !ok (im.gates.flatMap gateMills) then bad 7
  else none

/-! ### Check 4 (R382) -/

/-- Check 4: the map epoch. -/
def State.epochBad (s : State) (im : PlanImage) (holesok : Bool) : Option Bad :=
  if s.epoch.toNat < im.epoch || (im.epoch < s.epoch.toNat && !holesok) then some ⟨stEpoch, 0, 0xFF⟩ else none

/-! ### Check 5 (R380, R381) -/

/-- A placement list: plot, LX and LY. -/
abbrev Placing := List (Nat × Nat × Nat)

/-- The first plot of a list that is unknown or repeated (R380). -/
def oddPlot (im : PlanImage) : List Nat → List Nat → Option Nat
  | _, [] => none
  | seen, p :: l => if (im.plot p).isNone || seen.contains p then some p else oddPlot im (p :: seen) l

/-- The placement list and the plot table do not match one to one: the plot to report (R380). -/
def PlanImage.listBad (im : PlanImage) (pl : Placing) : Option Nat :=
  (oddPlot im [] (pl.map fun x => x.1)) <|>
    ((im.plots.map PlotRec.id).find? fun p => !(pl.any fun x => x.1 == p))

/-- The origin that a placement list gives a plot. -/
def originOf (pl : Placing) (p : Nat) : Nat × Nat :=
  ((List.find? (fun (x : Nat × Nat × Nat) => x.1 == p) pl).map fun x => x.2).getD (0, 0)

/-- The grounds of the plots of a placement list. -/
def PlanImage.grounds (im : PlanImage) (pl : Placing) : List (Nat × Ground) :=
  im.plots.map fun e => (e.id, e.ground (originOf pl e.id).1 (originOf pl e.id).2)

/-- Check 5. -/
def State.placeBad (s : State) (im : PlanImage) (pl : Placing) : Option Bad :=
  let pb := im.blockOf 2
  let gs := im.grounds pl
  let each (t : PlotRec → Nat → Nat → Bool) : Option Bad :=
    im.plots.findSome? fun e => if t e (originOf pl e.id).1 (originOf pl e.id).2 then none else some (Bad.mk stPlace pb e.id)
  let others (p : Nat) : List Ground := (gs.filter fun x => x.1 != p).map fun x => x.2
  match im.listBad pl with
  | some p => some ⟨stPlace, pb, p⟩
  | none =>
    (each fun e lx ly =>
      let g := e.ground lx ly
      s.groundOk g && e.bayOk && (others e.id).all (fun o => !g.meets o && !g.wainClash o) &&
        (im.configsOf e.id).all fun c => s.waysOk c lx ly) <|>
    (each fun e lx ly => (im.configsOf e.id).all fun c => c.rects.all fun r => s.ringsOk r lx ly) <|>
    (each fun e lx ly => s.areaOk im e (e.ground lx ly) && s.datasOk im e.id lx ly) <|>
    (im.configs.findSome? fun c =>
      if (im.plot c.plot).any fun e => spansOk e c then none else some (Bad.mk stPlace c.block c.plot)) <|>
    (im.detours.findSome? fun d =>
      if s.wayCell (lxOf d.waypt) (lyOf d.waypt) then none else some (Bad.mk stPlace (im.blockOf 12) 0xFF)) <|>
    (im.gates.findSome? fun g => g.slots.findSome? fun x =>
      if x.kind != 1 || im.cellOk x.plot (x.target % 1024) (x.target / 1024) then none
      else some (Bad.mk stPlace (im.blockOf 7) x.plot))

/-! ### Check 6 (R182, R386) -/

/-- Ranges that a claim takes, where it matches (R182). -/
def claimed (rs : List Resident) (e : ClaimRec) (p : PlotRec) (lx ly : Nat) : Option (List Resident) :=
  let x := lx + e.px
  let y := ly + e.py
  let g : Ground := ⟨x, y, e.width, e.height, 0⟩
  let hits := rs.filter fun r =>
    !r.claimed && r.key == e.key && r.start == e.start && r.len == e.len && g.meets ⟨r.lx, r.ly, r.width, r.height, 0⟩
  -- windows of one cell never overlap, so the ranges tile the rectangle when their areas add up
  if decide (e.px + e.width ≤ p.width) && decide (e.py + e.height ≤ p.height) &&
      hits.all (fun r => !r.damaged && decide (x ≤ r.lx) && decide (r.lx + r.width ≤ x + e.width) && decide (y ≤ r.ly) &&
        decide (r.ly + r.height ≤ y + e.height)) &&
      (hits.map fun r => r.width * r.height).sum == e.width * e.height then some hits
  else none

/-- The ranges after the claims of an image, in image order; the plot of the first that does not match. -/
def claimAll (im : PlanImage) (pl : Placing) : List ClaimRec → List Resident → List Resident ⊕ Nat
  | [], rs => .inl rs
  | e :: l, rs =>
    match im.plot e.plot with
    | none => .inr e.plot
    | some p =>
      match claimed rs e p (originOf pl e.plot).1 (originOf pl e.plot).2 with
      | none => .inr e.plot
      | some hits => claimAll im pl l (rs.map fun r => if hits.contains r then { r with claimed := true, holder := BitVec.ofNat 7 e.plot } else r)

/-- Checks 3 to 6 of R381. -/
def State.loadBad (s : State) (im : PlanImage) (holesok : Bool) (pl : Placing) : Option Bad :=
  s.licenceBad im <|> s.epochBad im holesok <|> s.placeBad im pl <|>
    (match claimAll im pl im.claims s.residents with
     | .inl _ => none
     | .inr p => some ⟨stResident, im.blockOf 14, p⟩)

/-! ### A plot of the loaded plan at another origin (R190, R370, R372) -/

/-- The other plots that hold cells (R225). -/
def State.groundsBeside (s : State) (p : PlotId) : List Ground :=
  (s.plots.filter fun e => e.1 != p.toNat && e.2.holds).map fun e => e.2.ground

/-- A plot may stand at an origin (R190, R370). -/
def State.mayStand (s : State) (p : PlotId) (lx ly : Nat) : Bool :=
  let g := { (s.plot p).ground with lx := lx, ly := ly }
  s.groundOk g && (s.groundsBeside p).all fun o => !g.meets o && !g.wainClash o

end Sys2Proof.Machine
end

