-- ==== Sys2Proof/Machine/Plan.lean ====
section
/-! DEFINITION. Plots as the ward lays them down and takes them up: cells, configurations, channels and
their markers, wains, latches and gates; and the commands PLAN_LOAD and PLAN_UNLOAD (R182, R190, R204, R211,
R281, R310, R367 to R387, R533). -/

namespace Sys2Proof.Machine

/-! ### Cells -/

/-- What a cell keeps when it joins or leaves a plot: its marks. Everything else is as after reset. -/
def Cell.fresh (v : Cell) : Cell := { lockedOut := v.lockedOut, dead := v.dead, routerDead := v.routerDead }

/-- Plot coordinates, in order of py and then px. -/
def Plot.coords (q : Plot) : List (Nat × Nat) :=
  (List.range q.height.toNat).flatMap fun y => (List.range q.width.toNat).map fun x => (x, y)

/-- CL_PLOT of the cells of a plot. -/
def Plot.ident (q : Plot) (p : PlotId) : Word :=
  BitVec.ofNat 32 (q.season.toNat * 2 ^ 28 + q.height.toNat * 2 ^ 19 + q.width.toNat * 2 ^ 9 + p.toNat)

/-- A cell as it joins a plot. -/
def Cell.joins (v : Cell) (p : PlotId) (q : Plot) (x : Nat × Nat) : Cell :=
  { v.fresh with owner := p, self := BitVec.ofNat 32 (x.2 * 1024 + x.1), plot := q.ident p }

/-- The cells of a plot's rectangle join it, scrubbed (R184). -/
def State.giveCells (s : State) (p : PlotId) : State :=
  let q := s.plot p
  (q.coords.foldl (fun s (x : Nat × Nat) => s.modCell (q.cellAt x.1 x.2) fun v => v.joins p q x) s).scrubCells
    q.cells.contains q.cells

/-- The cells of a plot's rectangle leave it, and their waiter entries go (R267). -/
def State.freeCells (s : State) (p : PlotId) : State :=
  let cs := (s.plot p).cells
  (s.modCells cs Cell.fresh).unregister cs.contains

/-- A season of a plot: the old one becomes PREV. -/
def Plot.setSeason (q : Plot) (season : Season) : Plot :=
  if q.season = season then q else { q with season := season, prev := q.season }

/-- CL_PLOT.SEASON of every cell of a plot is written (R191). -/
def State.writeIdent (s : State) (p : PlotId) : State :=
  let q := s.plot p
  s.modCells q.cells fun v => { v with plot := q.ident p }

/-! ### Origin and detour tables (R203, R253, R378) -/

/-- A change of the tables of every interface and hub. -/
def State.mapTables (s : State) (f : NiTables → NiTables) : State :=
  let each (m : Store NiTables) : Store NiTables := m.map fun e => (e.1, f e.2)
  { s with ni := f s.ni, niCell := each s.niCell, niHub := each s.niHub }

/-- The origin of a plot in the tables. -/
def NiTables.origin (t : NiTables) (p : PlotId) (q : Plot) : NiTables :=
  { t with origins := Store.set 0 t.origins p.toNat (q.cellAt 0 0) }

/-- Entries 0 to 11 of a detour table are a plan's; 12 to 15 are the ward's (R378). -/
def NiTables.planDetours (t : NiTables) (l : List Detour) : NiTables :=
  let kept : Store Detour := t.detours.filter fun e => decide (12 ≤ e.1)
  { t with detours := l.zipIdx.foldl (fun (m : Store Detour) (e : Detour × Nat) => Store.insert m e.2 e.1) kept }

/-! ### Programs and configurations (R371, R373, R374) -/

/-- A word of program memory, with its parity bit. -/
def State.putWord (s : State) (c : CellId) (a : Nat) (w : Word14) : State :=
  let k := c.toNat * 8192 + a
  { s with pmem := if withParity w = Store.get 0 s.pmemAll a then Store.erase s.pmem k
      else Store.insert s.pmem k (withParity w) }

/-- Words of program memory from an address on. -/
def State.putWords (s : State) (c : CellId) (a : Nat) (l : List Word14) : State :=
  l.zipIdx.foldl (fun s (x : Word14 × Nat) => s.putWord c (a + x.2) x.1) s

/-- The vector table and plan region of the cells of a plot take the pieces of a configuration over their
resident contents (R373). -/
def State.writePrograms (s : State) (q : Plot) (l : List ProgRec) : State :=
  let own (k : Nat) : Bool := q.cells.contains (BitVec.ofNat 19 (k / 8192)) && decide (k % 8192 < 0x1C00)
  let s := { s with pmem := s.pmem.filter fun (e : Nat × BitVec 15) => !own e.1 }
  l.foldl (fun s (x : ProgRec) =>
    (x.box.placed q.lx.toNat q.ly.toNat).cells.foldl (fun s c => s.putWords c x.addr x.words) s) s

/-- Initial loft contents (R374). -/
def State.writeDatas (s : State) (q : Plot) (l : List DataRec) : State :=
  l.foldl (fun s (x : DataRec) =>
    (x.box.placed q.lx.toNat q.ly.toNat).cells.foldl (fun s c => s.loftPut c x.addr x.bytes) s) s

/-- The queue and channel settings that a rectangle record gives a cell; without one, all are disabled. -/
def Cell.configure (v : Cell) (r : Option RectRec) : Cell :=
  let v := (List.range 8).foldl (fun (v : Cell) i =>
    let n : QueueNo := BitVec.ofNat 3 i
    v.setQueue n { v.queue n with cfg := (r.bind fun r => r.queues[i]?).getD 0 }) v
  let v := (List.range 4).foldl (fun (v : Cell) i =>
    let n : ChanNo := BitVec.ofNat 2 i
    v.setChan n { v.chan n with cfg := (r.bind fun r => r.chans[i]?).getD 0 }) v
  { v with stale := r.bind RectRec.stale }

/-- The settings of a configuration reach every cell of a plot. -/
def State.configure (s : State) (q : Plot) (c : ConfigRec) : State :=
  q.coords.foldl (fun s (x : Nat × Nat) =>
    s.modCell (q.cellAt x.1 x.2) fun v => v.configure (c.rects.find? fun r => r.box.holds x.1 x.2)) s

/-! ### Channels (R199, R204, R211, R223) -/

/-- The enabled channels of the cells of a plot. -/
def State.chansOf (s : State) (p : PlotId) : List (CellId × ChanNo) :=
  (s.plot p).cells.flatMap fun c =>
    (((List.range 4).map (BitVec.ofNat 2)).filter fun n => ((s.cell c).chan n).en).map fun n => (c, n)

/-- The channels of other plots that feed a plot. -/
def State.feedersOf (s : State) (p : PlotId) : List (CellId × ChanNo) :=
  s.cells.flatMap fun (e : Nat × Cell) =>
    let c : CellId := BitVec.ofNat 19 e.1
    if e.2.owner = p then [] else
      (((List.range 4).map (BitVec.ofNat 2)).filter fun n =>
        let o := e.2.chan n
        o.en && o.destKind == 1 && o.dplot == p).map fun n => (c, n)

/-- A change of a channel. -/
def State.modChan (s : State) (x : CellId × ChanNo) (f : Chan → Chan) : State :=
  s.modCell x.1 fun v => v.setChan x.2 (f (v.chan x.2))

/-- A change of every channel of a list. -/
def State.modChans (s : State) (l : List (CellId × ChanNo)) (f : Chan → Chan) : State :=
  l.foldl (fun s x => s.modChan x f) s

/-- The credits of R204 and R533 (R217 step 4). A channel into a SCANNED plot stays stopped until its scan-in (R224). -/
def State.freshChan (s : State) (x : CellId × ChanNo) : State :=
  s.modChan x fun o => { o with
    credits := s.freshCredits x.1 o
    stopped := o.stopped || (o.destKind == 1 && (s.plot o.dplot).state == .scanned) }

/-- The queues that channels feed. -/
def State.fedQueues (s : State) (l : List (CellId × ChanNo)) : List (CellId × QueueNo) :=
  l.flatMap fun x =>
    let o := (s.cell x.1).chan x.2
    (s.feeds x.1 o).map fun d => (d, o.dqueue)

/-- A change of a queue. -/
def State.modQueue (s : State) (x : CellId × QueueNo) (f : Queue → Queue) : State :=
  s.modCell x.1 fun v => v.setQueue x.2 (f (v.queue x.2))

/-- A change of every queue of a list. -/
def State.modQueues (s : State) (l : List (CellId × QueueNo)) (f : Queue → Queue) : State :=
  l.foldl (fun s x => s.modQueue x f) s

/-- Channels start with exact credits: what their queues freed before is returned no more (R204, R206, R213). -/
def State.freshen (s : State) (l : List (CellId × ChanNo)) : State :=
  (l.foldl State.freshChan s).modQueues (s.fedQueues l) fun q => { q with freed := 0, down := 0 }

/-- Flits that queues hold. -/
def State.heldIn (s : State) (l : List (CellId × QueueNo)) : Nat := (l.map fun x => ((s.cell x.1).queue x.2).held).sum

/-- The accepted season of every queue that the channels of a plot feed (R211). -/
def State.writeSeasons (s : State) (p : PlotId) : State :=
  s.modQueues (s.fedQueues (s.chansOf p)) fun x => { x with season := (s.plot p).season }

/-- A destination answers a marker. -/
def State.answers (s : State) (c : CellId) : Bool := !(s.cell c).lockedOut && !s.isHole c

/-- A channel sends a marker to each of its destinations (R223). -/
def State.sendMarker (s : State) (x : CellId × ChanNo) : State :=
  let v := s.cell x.1
  let o := v.chan x.2
  let n := if v.lockedOut then 0 else ((s.feeds x.1 o).filter s.answers).length
  (s.setCell x.1 (v.setChan x.2 { o with markers := o.markers + n })).chanSend x.1 x.2 [⟨4, v.season, 0⟩]

/-- Every marker of a list of channels has been answered. -/
def State.markersBack (s : State) (l : List (CellId × ChanNo)) : Bool := l.all fun x => ((s.cell x.1).chan x.2).markers == 0

/-- Channels stop at a flit boundary, and send a marker behind their last flit. -/
def State.stopChans (s : State) (l : List (CellId × ChanNo)) : State :=
  l.foldl State.sendMarker (s.modChans l fun o => { o with stopped := true })

/-- Stopped channels resume. -/
def State.resumeChans (s : State) (l : List (CellId × ChanNo)) : State :=
  s.modChans l fun o => { o with stopped := false, markers := 0 }

/-- Flits are added to HG_PLOT_DISCARD. -/
def State.countDiscard (s : State) (p : PlotId) (n : Nat) : State :=
  s.modPlot p fun q => { q with discard := satAdd q.discard n }

/-- Queues are emptied, and their flits counted in HG_PLOT_DISCARD; no credit returns for them (R216, R533). -/
def State.discardIn (s : State) (p : PlotId) (l : List (CellId × QueueNo)) : State :=
  (s.modQueues l fun q => { q.emptied with freed := 0, down := 0 }).countDiscard p (s.heldIn l)

/-- The queues of a plot whose enable bit passes a test. -/
def State.queuesOf (s : State) (p : PlotId) (t : Queue → Bool) : List (CellId × QueueNo) :=
  (s.plot p).cells.flatMap fun c =>
    (((List.range 8).map (BitVec.ofNat 3)).filter fun n => t ((s.cell c).queue n)).map fun n => (c, n)

/-- The channels that feed queues. -/
def State.producersOf (s : State) (l : List (CellId × QueueNo)) : List (CellId × ChanNo) :=
  (l.filterMap fun x => s.producer x.1 x.2).dedup

/-- A plot takes a configuration: programs, settings, and what R533 gives the queues that it newly enables or
no longer enables. -/
def State.takeConfig (s : State) (p : PlotId) (c : ConfigRec) (progs : List ProgRec) : State :=
  let q := s.plot p
  let before := s.queuesOf p Queue.en
  let s := ((s.writePrograms q progs).configure q c).modPlot p fun q => { q with config := BitVec.ofNat 4 c.config }
  let after := s.queuesOf p Queue.en
  let off := before.filter fun x => !after.contains x
  let on := after.filter fun x => !before.contains x
  let s := (s.discardIn p off).modChans (s.producersOf off) fun o => { o with credits := 0 }
  let s := on.foldl (fun s (x : CellId × QueueNo) =>
    match s.producer x.1 x.2 with
    | some (d, _) => s.modQueue x fun q => { q with season := (s.plot (s.cell d).owner).season }
    | none => s) s
  s.freshen (s.producersOf on)

/-- A plot stands with a configuration that no cell has run: its season, the seasons of the queues that it
feeds, and fresh credits. -/
def State.standsLoaded (s : State) (p : PlotId) (season : Season) : State :=
  let s := (s.modPlot p fun q => q.setSeason season).writeIdent p
  let s := s.writeSeasons p
  s.freshen (s.chansOf p)

/-! ### The wiring of the plots (R199, R214) -/

/-- The queues, by plot and plot coordinates, that a channel of a cell of a plot feeds. -/
def chanFeeds (p : PlotId) (x : Nat × Nat) (o : Chan) : List (PlotId × Nat × Nat × QueueNo) :=
  match o.destKind with
  | 2 => (List.range (o.span + 1)).map fun n =>
      (p, (match o.dir.toNat with
        | 0 => x.1 + n
        | 1 => x.1 - n
        | _ => x.1), (match o.dir.toNat with
        | 2 => x.2 + n
        | 3 => x.2 - n
        | _ => x.2), o.dqueue)
  | k => [(if k = 1 then o.dplot else p, o.target % 1024, o.target / 1024 % 512, o.dqueue)]

/-- The enabled channels of a plot that is not EMPTY, in its cells as they stand or were captured, each with a queue that it
feeds. -/
def State.wiring (s : State) (p : PlotId) : List ((PlotId × Nat × Nat × QueueNo) × (PlotId × Nat × Nat × ChanNo)) :=
  (s.plot p).coords.flatMap fun x => (List.range 4).flatMap fun i =>
    let n : ChanNo := BitVec.ofNat 2 i
    let o := (s.cellNow p x).chan n
    if o.en then (chanFeeds p x o).map fun d => (d, (p, x.1, x.2, n)) else []

/-! ### Wains (R308, R310, R370) -/

/-- The wains that a plot owns, in field and index order. -/
def State.plotWains (s : State) (p : PlotId) : List Nat :=
  (s.wains.filter fun (e : Nat × Wain) => e.2.owner == p).map fun (e : Nat × Wain) => e.1

/-- A held page fault is withdrawn. -/
def State.withdraw (s : State) (q : Option Word) : State :=
  { s with pageFaults := s.pageFaults.filter fun (f : Word × Nat × List Byte) => some f.1 != q }

/-- A wain without a chain, for an owner: its ranges are released and its context is cleared; a held fault is
withdrawn (R310). -/
def State.clearWain (s : State) (p : PlotId) (k : Nat) : State :=
  let s := s.releaseRanges k
  let w := s.wain k
  (s.setWain k { owner := p, dcount := w.dcount, refused := w.refused }).withdraw w.faultSeq

/-- Wains that abandon their chains stop at a packet boundary. -/
def State.stopWains (s : State) (ks : List Nat) : State :=
  ks.foldl (fun s k => s.modWain k fun w => ({ w with stopReq := true } : Wain).settleStop) s

/-- The outstanding packets of wains are complete. -/
def State.wainsQuiet (s : State) (ks : List Nat) : Bool := ks.all fun k => (s.wain k).quiet

/-- Wains are given to a plot by its placement (R370). -/
def State.giveWains (s : State) (p : PlotId) : State := (s.plot p).ground.wains.foldl (fun s k => s.clearWain p k) s

/-! ### Latches and gates of the plan (R281, R375, R376) -/

/-- A latch takes its plan value and owner; the waiters of one that becomes 1 wake. -/
def State.planLatch (s : State) (e : LatchRec) : State :=
  let s := if e.value then s.latchSet e.id else s.latchClr e.id
  s.modHub (latchField e.id) fun h => h.setLatch (latchIndex e.id) { h.latch (latchIndex e.id) with owner := e.owner }

/-- FH_GATE_SLOTn of a slot record: a CELL slot names a logical cell (R376). -/
def SlotRec.binding (x : SlotRec) (plots : Nat → Plot) : Word :=
  match x.kind with
  | 0 => 0
  | 1 => BitVec.ofNat 32 (2 ^ 30 + ((plots x.plot).cellAt (x.target % 1024) (x.target / 1024)).toNat)
  | k => BitVec.ofNat 32 (k * 2 ^ 30 + x.target)

/-- A gate takes its plan configuration: OPEN with CUR, ARR and NXT 0, or DISABLED (R281). -/
def State.planGate (s : State) (x : GateRec) : State :=
  let plots (n : Nat) : Plot := s.plot (BitVec.ofNat 7 n)
  let i := gateIndex x.id
  s.modHub (gateField x.id) fun h =>
    let h := h.disableGate i
    let h := h.setGate i { h.gate i with
      ctrl := x.ctrl &&& 0x7FFFFFFE
      latch := x.latch
      timeout := x.timeout
      parent := x.parent
      mask := x.mask
      cur := 0
      arr := 0
      nxt := 0
      nfirst := 0
      slots := x.slots.zipIdx.foldl (fun (m : Store Word) (y : SlotRec × Nat) => Store.set 0 m y.2 (y.1.binding plots)) [] }
    if x.en then h.enableGate i else h

/-- The latches and gates of the plan that a test on the owner names return to their plan values; only hubs
that serve take them. -/
def State.planSync (s : State) (im : PlanImage) (t : PlotId → Bool) : State :=
  let ls := im.latches.filter fun e => t e.owner && s.hubServes (latchField e.id)
  let gs := im.gates.filter fun x => t (BitVec.ofNat 7 (bits x.ctrl 25 19)) && s.hubServes (gateField x.id)
  gs.foldl State.planGate (ls.foldl State.planLatch s)

/-- Every gate of a hub is disabled. -/
def Hub.disableGates (h : Hub) : Hub := h.gates.foldl (fun (h : Hub) (e : Nat × Gate) => h.disableGate e.1) h

/-- Every latch of a hub is 0 with owner 127. -/
def Hub.clearLatches (h : Hub) : Hub :=
  { h with latches := h.latches.foldl (fun (m : Store Latch) (e : Nat × Latch) =>
      Store.set {} m e.1 { e.2 with val := false, owner := 127 }) h.latches }

/-! ### PLAN_LOAD (R380 to R383) -/

/-- The refusal of a failed check (R408, R410). -/
def Bad.answer (b : Bad) : Answer :=
  let detail := if b.status = stPlace then b.plot
    else if b.status = stImage || b.status = stCrc || b.status = stFormat then b.block else 0
  ⟨b.status, detail, leBytes 2 b.block ++ leBytes 1 b.plot⟩

/-- The plot that a plot table entry and its placement make. -/
def PlotRec.plot (e : PlotRec) (im : PlanImage) (old : Plot) (lx ly : Nat) : Plot :=
  { old with
    state := .loaded
    bay := e.bay
    width := BitVec.ofNat 10 e.width
    height := BitVec.ofNat 9 e.height
    lx := BitVec.ofNat 10 lx
    ly := BitVec.ofNat 9 ly
    config := 0
    scanArea := if e.scan then some (BitVec.ofNat 21 e.area) else none
    configs := e.configs
    wainMask := e.wainMask
    weight := BitVec.ofNat 16 (((im.power.find? fun x => x.1 == e.id).map fun x => x.2).getD 256)
    scan := none
    snaps := []
    contexts := []
    record := []
    scanning := false
    scanCut := false }

/-- The threshing groups of a mill (R346). -/
def PlanImage.groupsOf (im : PlanImage) (m : Nat) : List ThrGroup :=
  match im.thr with
  | none => []
  | some x => (x.groups.filter fun r => groupMill r == m).map (takeGroup x)

/-- Words as a table by index. -/
def tableOf (l : List Word) : Store Word := l.zipIdx.foldl (fun (m : Store Word) (e : Word × Nat) => Store.set 0 m e.2 e.1) []

/-- A table's copy in every mill of a field that is not dark (R23, R27, R337, R338). -/
def State.copies (s : State) (stride : Nat) (t : Store Word) : Store Word :=
  (List.range 32).flatMap fun i =>
    if (s.hub (millField (BitVec.ofNat 5 i))).dark then []
    else t.map fun (e : Nat × Word) => (i * stride + e.1, e.2)

/-- One plot with configuration 0 and its DATA contents. -/
def State.loadPlot (s : State) (im : PlanImage) (p : PlotId) : State :=
  let s := match im.config p.toNat 0 with
    | some c => s.takeConfig p c (im.progs.filter fun x => x.plot == p.toNat && x.config == 0)
    | none => s
  s.writeDatas (s.plot p) (im.datas.filter fun d => d.plot == p.toNat)

/-- The season of configuration 0. -/
def PlanImage.season0 (im : PlanImage) (p : PlotId) : Season := ((im.config p.toNat 0).map ConfigRec.season).getD 0

/-- The spill rings of every configuration of an image (R180). -/
def PlanImage.allRings (im : PlanImage) : List (Nat × (Nat × Nat × Nat × Nat) × (Nat × Nat)) :=
  im.configs.flatMap fun c => c.rects.flatMap fun r => r.rings.map fun x => (c.plot, (r.box.x0, r.box.y0, r.box.x1, r.box.y1), x)

/-- The commit of a plan (R383). -/
def State.commit (s : State) (im : PlanImage) (addr : Nat) (pl : Placing) (rs : List Resident) : State :=
  let ids : List PlotId := im.plots.map fun e => BitVec.ofNat 7 e.id
  let s := im.plots.foldl (fun s (e : PlotRec) =>
    s.modPlot (BitVec.ofNat 7 e.id) fun old => (e.plot im old (originOf pl e.id).1 (originOf pl e.id).2).setSeason
      (im.season0 (BitVec.ofNat 7 e.id))) s
  let s := s.mapTables fun t =>
    (ids.foldl (fun (t : NiTables) p => t.origin p (s.plot p)) { t with origins := [] }).planDetours im.detours
  let s := ids.foldl State.giveCells s
  let s := ids.foldl (fun s p => s.loadPlot im p) s
  let s := ids.foldl (fun s p => s.standsLoaded p (im.season0 p)) s
  let s := { s with hubs := s.hubs.map fun (e : Nat × Hub) => (e.1, e.2.disableGates.clearLatches) }
  let s := s.planSync im fun _ => true
  let s := match im.rank with
    | some l => { s with ranks := s.copies (2 ^ 21) (tableOf l) }
    | none => s
  let s := match im.route with
    | some l => { s with routes := s.copies 4096 (tableOf l) }
    | none => s
  let s := (List.range 32).foldl (fun s i => s.modMill (BitVec.ofNat 5 i) fun v =>
    { v with rankCache := if im.rank.isSome then [] else v.rankCache, thrGroups := im.groupsOf i,
             thrState := .idle }) s
  let s := { s with residents := rs }
  let s := ids.foldl State.giveWains s
  let s := im.wains.foldl (fun s (w : Nat × Nat × Nat) =>
    s.modWain (wainKey (.mill (BitVec.ofNat 5 w.1) (BitVec.ofNat 1 w.2.1))) fun x => x.accept (BitVec.ofNat 64 (2 ^ 60 + w.2.2))) s
  { s with
    plan := some ⟨addr, im.blocks.map fun (b : Block) => ⟨b.kind, b.plot, b.config, b.addr, b.body.length, b.crc⟩, s.nextLoad, im.allRings⟩
    nextLoad := s.nextLoad + 1
    wafer := im.wafer
    jobtag := im.jobtag
    jobLoaded := true }.identAgain

/-- Placement entries of the request (R380). -/
def placings (l : List Byte) (n : Nat) : Placing :=
  (List.range n).map fun i => (leAt l (16 + 8 * i) 1, leAt l (18 + 8 * i) 2, leAt l (20 + 8 * i) 2)

/-- A byte that R380 fixes at 0: its offset. -/
def placingStray (l : List Byte) (n : Nat) : Option Nat :=
  ((List.range n).flatMap fun i => [17 + 8 * i, 22 + 8 * i, 23 + 8 * i]).find? fun k => leAt l k 1 != 0

/-- PLAN_LOAD (R380 to R383). The second reading of the blocks comes before anything is written. -/
def execPlanLoad (p : PortNo) (n : SlotNo) (s : State) : Out :=
  .next (s.carry p n 0x10 anyRow fun s l =>
    let a := leAt l 0 8
    let k := leAt l 9 1
    let pl := placings l k
    if s.plan.isSome then answered s (refuse stPlan 0)
    else if 2 ≤ leAt l 8 1 then answered s (badField 8)
    else if 96 < k then answered s (badField 9)
    else if l.length ≠ 16 + 8 * k then answered s (refuse stLength 0)
    else match placingStray l k with
      | some i => answered s (badField i)
      | none =>
        if a % 4096 ≠ 0 || 2 ^ 42 ≤ a then answered s (badField 0)
        else match s.readBlocks a 0 65536 0 a with
          | (s, _, some b) => answered s b.answer
          | (s, bs, none) =>
            let im := takeImage bs
            match im.formatBad <|> s.loadBad im (leAt l 8 1 == 1) pl with
            | some b => answered s b.answer
            | none =>
              match s.readBlocks a 0 65536 0 a with
              | (s, _, some b) => answered s b.answer
              | (s, _, none) =>
                match claimAll im pl im.claims s.residents with
                | .inl rs => answered (s.commit im a pl rs) (okWith [])
                | .inr q => answered s (Bad.answer ⟨stResident, im.blockOf 14, q⟩))

/-! ### PLAN_UNLOAD (R182, R228, R281, R310) -/

/-- The wains that run for the plan: those of its plots, and the mill wains of its chains. -/
def State.planWains (s : State) : List Nat :=
  (s.wains.filter fun (e : Nat × Wain) => decide (e.2.owner.toNat < 96) || decide (384 ≤ e.1)).map fun (e : Nat × Wain) => e.1

/-- The plan is gone. -/
def State.unload (s : State) : State :=
  let ids := s.plotIds
  let s := s.planWains.foldl (fun s k => s.clearWain 127 k) s
  let s := { s with
    hubs := s.hubs.map fun (e : Nat × Hub) => (e.1, e.2.disableGates)
    pageFaults := []
    residents := s.residents.map fun (r : Resident) => { r with claimed := false, holder := 127 } }
  let s := (ids.filter fun p => (s.plot p).holds).foldl State.freeCells s
  let s := s.resumeChans (s.cells.flatMap fun (e : Nat × Cell) =>
    (List.range 4).map fun i => ((BitVec.ofNat 19 e.1 : CellId), (BitVec.ofNat 2 i : ChanNo)))
  let s := ids.foldl (fun s p => s.modPlot p fun q =>
    { q with state := .empty, record := [], scan := none, snaps := [], contexts := [], scanning := false, scanCut := false, dryStart := none }) s
  { s with
    mills := s.mills.map fun (e : Nat × Mill) => (e.1, ({ e.2 with thrGroups := [], thrState := .idle } : Mill))
    plan := none
    jobLoaded := false }.identAgain

/-- The command that runs in a slot under an opcode, where it waits for wains that abandon their chains. -/
def State.abandoning (s : State) (p : PortNo) (n : SlotNo) (code : Nat) : Option Running :=
  (s.runningIn p n).bind fun r => if r.what = .abandon && opcodeOf r.opword = code then some r else none

/-- PLAN_UNLOAD; it completes once the packets of the wains that abandon their chains have. -/
def execPlanUnload (p : PortNo) (n : SlotNo) (s : State) : Out :=
  match s.abandoning p n 0x11 with
  | some _ => .next (if s.wainsQuiet s.planWains then s.unload.finish (okWith []) else s)
  | none =>
    .next (s.carry p n 0x11 anyRow fun s _ =>
      if s.plan.isNone then answered s (refuse stPlan 0)
      else match s.plotIds.findSome? s.thrHolds with
        | some g => answered s (refuse stBusy g)
        | none =>
          let s := s.stopWains s.planWains
          if s.wainsQuiet s.planWains then answered s.unload (okWith []) else (s, .wait .abandon))

/-! ### Blocks read again (R384) -/

/-- Blocks of the plan, read again: the first that cannot be read or that has changed. -/
def State.rereadList (s : State) : List (Nat × PlanBlock) → State × (Bad ⊕ List Block)
  | [] => (s, .inr [])
  | (i, x) :: l =>
    match s.readBlock i (x.addr - 16) with
    | (s, .inl e) => (s, .inl e)
    | (s, .inr b) =>
      if b.kind = x.kind && b.plot = x.plot && b.config = x.config && b.body.length = x.len && b.crc = x.crc then
        match s.rereadList l with
        | (s, .inr bs) => (s, .inr (b :: bs))
        | r => r
      else (s, .inl ⟨stCrc, i, 0xFF⟩)

/-- The blocks of the loaded plan that pass a test, read again and taken apart. -/
def State.reread (s : State) (t : PlanBlock → Bool) : State × (Bad ⊕ PlanImage) :=
  let bs := ((s.plan.map PlanInfo.blocks).getD []).zipIdx.filterMap fun (x : PlanBlock × Nat) => if t x.1 then some (x.2, x.1) else none
  match s.rereadList bs with
  | (s, .inr l) => (s, .inr (takeImage l))
  | (s, .inl e) => (s, .inl e)

/-- The refusal of a block that fails again: its index is the detail. -/
def Bad.again (b : Bad) : Answer := refuse b.status b.block

/-- The blocks that place a plot in configuration 0: its settings, programs, DATA, latches and gates. -/
def placeBlocks (p : Nat) (b : PlanBlock) : Bool :=
  ((b.kind == 3 || b.kind == 4) && b.plot == p && b.config == 0) || (b.kind == 5 && b.plot == p) || b.kind == 6 || b.kind == 7

end Sys2Proof.Machine
end

