-- ==== Sys2Proof/Machine/Plots.lean ====
section
/-! DEFINITION. Plot commands: PLOT_START, PLOT_STOP in both modes with DRY_END, PLOT_MOVE, PLOT_RESET, and
the watchdog (R193 to R195, R214 to R221, R230, R231, R388 to R390). -/

namespace Sys2Proof.Machine

/-- A plot command meets a loaded plan and a plot ID (R4, R12, R193). -/
def State.plotCheck (s : State) (l : List Byte) : Option Answer :=
  if s.plan.isNone then some (refuse stPlan 0)
  else if 96 ≤ leAt l 0 1 then some (badField 0)
  else none

/-- The plot that a request names. -/
def plotArg (l : List Byte) : PlotId := BitVec.ofNat 7 (leAt l 0 1)

/-- A refusal that names a plot. -/
def refusePlot (status : Nat) (p : PlotId) : Answer := refuse status p.toNat

/-! ### PLOT_START (R60, R214 to R218, R533) -/

/-- States from which a plot starts (R193). -/
def PlotState.startable : PlotState → Bool
  | .loaded => true
  | .done => true
  | .stopped => true
  | _ => false

/-- A cell starts (R60). -/
def Cell.starts (v : Cell) : Cell :=
  { v with pc := 0, held := [], wait := none, run := .running, frozen := false, reported := false, doubleTrap := false, missed := 0 }

/-- The cells of a plot start, and it is RUNNING. -/
def State.startCells (s : State) (p : PlotId) : State :=
  (s.modCells (s.plot p).cells Cell.starts).modPlot p fun q =>
    { q with state := .running, progress := s.tick, unheld := s.tick }

/-- A new configuration gives a queue another producer while the old one, or the queue, belongs to another
plot that is not EMPTY, SCANNED ones included (R214). -/
def State.producerClash (s : State) (p : PlotId) (c : ConfigRec) : Bool :=
  let old := s.plotIds.flatMap s.wiring
  ((s.configure (s.plot p) c).wiring p).any fun x =>
    old.any fun y => x.1 == y.1 && y.2 != x.2 && (if x.1.1 = p then y.2.1 != p else (s.plot x.1.1).state != .empty)

/-- The blocks of a configuration of a plot. -/
def configBlocks (p k : Nat) (b : PlanBlock) : Bool := (b.kind == 3 || b.kind == 4) && b.plot == p && b.config == k

/-- The plot starts in a configuration (R217, R218): the ward writes the accepted season of every queue that it feeds at
every start (R211). -/
def State.startConfig (s : State) (p : PlotId) (im : PlanImage) (c : ConfigRec) : State :=
  let old := (s.plot p).season
  let s := s.takeConfig p c im.progs
  let s := if c.season = old then s.writeSeasons p else s.standsLoaded p c.season
  s.startCells p

/-- The blocks of a configuration are read again, and the plot starts. -/
def State.startAgain (s : State) (p : PlotId) (k : Nat) : State × Answer :=
  match s.reread (configBlocks p.toNat k) with
  | (s, .inl b) => (s, b.again)
  | (s, .inr im) =>
    match im.config p.toNat k with
    | none => (s, refusePlot stState p)
    | some c => (s.startConfig p im c, okWith [])

/-- PLOT_START with DISCARD 0, while its channels drain (R216): none while it waits. -/
def State.drainEnds (s : State) (p : PlotId) (since k : Nat) : Option (State × Answer) :=
  let own := s.chansOf p
  let q := s.plot p
  if !q.state.startable then some (s, refusePlot stState p)
  else if s.markersBack own || since + bits q.dryCfg 15 0 * 100 ≤ s.tick then
    let s := s.modChans own fun o => { o with markers := 0 }
    if s.heldIn (s.fedQueues own) != 0 then some (s, refuse stSeason 0) else some (s.startAgain p k)
  else none

/-- PLOT_START (R60, R184, R214 to R218). -/
def execPlotStart (p : PortNo) (n : SlotNo) (s : State) : Out :=
  match s.runningIn p n with
  | some ⟨_, _, _, l, _, .drain q since⟩ =>
    .next (match s.drainEnds q since (leAt l 1 1) with
      | some (t, a) => t.finish a
      | none => s)
  | _ =>
    .next (s.carry p n 0x12 anyRow fun s l =>
      let id := plotArg l
      let q := s.plot id
      let k := leAt l 1 1
      match s.plotCheck l with
      | some a => answered s a
      | none =>
        if 2 ≤ leAt l 2 1 then answered s (badField 2)
        else if !q.state.startable then answered s (refusePlot stState id)
        else if q.configs ≤ k then answered s (badField 1)
        else if q.cells.any fun c => (s.cell c).scrubbing then (s, .hold)
        else match s.reread (configBlocks id.toNat k) with
          | (s, .inl b) => answered s b.again
          | (s, .inr im) =>
            match im.config id.toNat k with
            | none => answered s (refusePlot stState id)
            | some c =>
              if c.season = q.season then answered (s.startConfig id im c) (okWith [])
              else if c.season = q.prev || s.producerClash id c then answered s (refuse stSeason 0)
              else if leAt l 2 1 = 1 then
                answered ((s.discardIn id (s.fedQueues (s.chansOf id)).dedup).startConfig id im c) (okWith [])
              else ((s.chansOf id).foldl State.sendMarker s, .wait (.drain id s.tick)))

/-! ### PLOT_STOP, mode HALT (R194) -/

/-- A cell issues nothing further; one that sleeps is HALTED without waking. -/
def Cell.stops (v : Cell) : Cell :=
  match v.run with
  | .running => v.freeze
  | .sleeping => { v with run := .halted, wait := none }
  | _ => v

/-- Issued instructions of every cell that takes part have completed. -/
def State.cellsIdle (s : State) (p : PlotId) : Bool :=
  (s.plot p).cells.all fun c =>
    let v := s.cell c
    v.run != .running || v.lockedOut || v.dead || v.idle

/-- A stopped cell is HALTED; an instruction held at issue is abandoned. -/
def Cell.halts (v : Cell) : Cell :=
  let v := { v with frozen := false }
  if v.run = .running then { v with run := .halted, held := [], wait := none } else v

/-- The cells of a plot stop; their waiter entries go. -/
def State.stopCells (s : State) (p : PlotId) : State :=
  let cs := (s.plot p).cells
  (s.modCells cs Cell.stops).unregister cs.contains

/-- PLOT_STOP in mode HALT goes on: none while issued instructions complete. -/
def State.stopEnds (s : State) (p : PlotId) : Option (State × Answer) :=
  if (s.plot p).state != .running then some (s, refusePlot stState p)
  else if s.cellsIdle p then
    some ((s.modCells (s.plot p).cells Cell.halts).modPlot p fun q => { q with state := .stopped }, okWith [])
  else none

/-- PLOT_STOP in mode HALT (R194); a mode above 1 is refused here. -/
def execPlotStopHalt (p : PortNo) (n : SlotNo) (s : State) : Out :=
  match s.runningIn p n with
  | some ⟨_, _, _, _, _, .stop q⟩ =>
    .next (match s.stopEnds q with
      | some (t, a) => t.finish a
      | none => s)
  | _ =>
    .next (s.carry p n 0x13 (fun l => leAt l 1 1 != 1) fun s l =>
      let id := plotArg l
      match s.plotCheck l with
      | some a => answered s a
      | none =>
        if 2 ≤ leAt l 1 1 then answered s (badField 1)
        else if (s.plot id).state != .running then answered s (refusePlot stState id)
        else
          let s := s.stopCells id
          match s.stopEnds id with
          | some (t, a) => answered t a
          | none => (s, .wait (.stop id)))

/-! ### PLOT_STOP, mode DRY (R230, R231) -/

/-- A cell runs on in a run-dry, unless it is dead, locked out or FAULTED. -/
def Cell.runsOn (v : Cell) : Cell := if v.dead || v.lockedOut then v else { v with frozen := false }

/-- Steps 1 to 3 of R230. -/
def State.runDry (s : State) (p : PlotId) : State :=
  let q := s.plot p
  let fed := (s.queuesOf p Queue.en).filter fun x =>
    (s.producer x.1 x.2).any fun d => (s.cell d.1).owner != p
  let s := s.modQueues fed fun x => { x with dryHeld := true }
  let s := (s.plotWains p).foldl (fun s k => s.modWain k fun w => { w with dryReq := true }) s
  (s.modCells q.cells Cell.runsOn).modPlot p fun q => { q with dryStart := some s.tick, progress := s.tick }

/-- PLOT_STOP in mode DRY; it completes at DRY_END. -/
def execPlotStopDry (p : PortNo) (n : SlotNo) (s : State) : Out :=
  .next (s.carry p n 0x13 (fun l => leAt l 1 1 == 1) fun s l =>
    let id := plotArg l
    match s.plotCheck l with
    | some a => answered s a
    | none =>
      let st := (s.plot id).state
      if st != .running && st != .faulted then answered s (refusePlot stState id)
      else (s.runDry id, .wait (.dry id)))

/-- DRY_END: no progress for WINDOW, or MAX has passed (R230); the plot is DRY once its cells have stopped. -/
def execDryEnd (p : PlotId) (s : State) : Out :=
  let q := s.plot p
  match (s.running.map Running.what : Option Waiting), q.dryStart with
  | some (.dry p'), some start =>
    let windowEnd := q.progress + bits q.dryCfg 15 0 * 100
    let maxEnd := start + bits q.dryCfg 31 16 * 100000
    if p' ≠ p || (s.tick < windowEnd && s.tick < maxEnd) then .next s
    else
      let s := s.stopCells p
      if !s.cellsIdle p then .next s
      else
        let s := (s.modCells q.cells Cell.halts).modPlot p fun q => { q with state := .dry, dryStart := none }
        .next ((if maxEnd < windowEnd then s.plotEvent p 16 else s).finish (okWith []))
  | _, _ => .next s

/-! ### The watchdog (R219 to R221) -/

/-- A cell is held at issue on an empty queue, an incomplete vector element or a missing credit. -/
def State.isHeld (s : State) (c : CellId) : Bool :=
  let h := (s.holdOf c).1
  h == 1 || h == 2

/-- Windows of a reset port go once the packets issued to them are complete (R307, R415). -/
def State.sweepWindows (s : State) : State :=
  { s with windows := s.windows.filter fun (e : Nat × Window) => !e.2.closing || s.windowBusy (BitVec.ofNat 6 e.1) }

/-- The hinge slews the tick by 1/4,000 of a tick, 250 ppm, while an offset remains: the ticks by which the counter moves (R333;
log entry 75). -/
def State.slewed (s : State) : State × Nat :=
  if s.slew = 0 then (s, 1)
  else
    let d : Int := if 0 < s.slew then 1 else -1
    let part := s.slewPart + d
    let s := { s with slew := s.slew - d }
    if part = 4000 then ({ s with slewPart := 0 }, 2)
    else if part = -4000 then ({ s with slewPart := 0 }, 0)
    else ({ s with slewPart := part }, 1)

/-- Mill counter 11: a microsecond with the link not UP (R463). -/
def State.countLinksOut (s : State) : State :=
  ((List.range 32).map (BitVec.ofNat 5)).foldl (fun s (m : MillNo) =>
    if (s.mill m).licensed && (s.mill m).link != 7 then s.count (millCtr m 11) 1 else s) s

/-- The tick counter moves on; the watchdog of a plot of which no cell was held in the tick starts again, and one with
EN = 0 does not count the tick (R220). A plot whose scan-out waits for markers counts as one with no held cell, since
its cells are stopped (DESIGN CHOICE, log entry 70). -/
def State.clockTick (s : State) : State :=
  let s := s.sweepWindows
  if s.tickHold ≠ 0 then { s with tickHold := s.tickHold - 1 }
  else
    let (s, n) := s.slewed
    let count (e : Nat × Plot) : Nat × Plot :=
      if e.2.state = .running && !e.2.wdog.msb then
        (e.1, { e.2 with unheld := max e.2.progress e.2.unheld + 1 })
      else if e.2.state = .running && (e.2.scanning || !e.2.cells.any fun c => s.isHeld c) then
        (e.1, { e.2 with unheld := s.tick + n })
      else e
    let s := if (s.tick + n) / 100 = s.tick / 100 then s else s.countLinksOut
    { s with tick := s.tick + n, plots := s.plots.map count }

/-- CYCLE_STALL: the watchdog of a plot has reached its PERIOD (R220, R221, R446). -/
def execCycleStall (p : PlotId) (s : State) : Out :=
  let q := s.plot p
  let held := q.cells.filter fun c => s.isHeld c
  if q.state != .running || q.scanning || !q.wdog.msb || held.isEmpty ||
      s.tick < max q.progress q.unheld + bits q.wdog 15 0 * 100 then .next s
  else
    let s := s.setPlot p { q with stallAt := s.tick64 }
    .next (s.fault 2 0 (leBytes 8 s.tick ++ leBytes 4 held.length) 0 [p])

/-! ### PLOT_RESET (R193, R224, R281, R310) -/

/-- The registers of class P return to their reset values (R8, R232). -/
def Plot.resetRegs (q : Plot) : Plot :=
  { q with
    config := 0, wdog := 0x800003E8, dryCfg := 0x000A0064, events := 0, stale := 0, discard := 0, stallAt := 0, fenceDrop := 0,
    faultReg := 0, record := [], scan := none, snaps := [], contexts := [], scanning := false, scanCut := false, dryStart := none,
    wasFaulted := false }

/-- Credits that queues of other plots keep back for a plot's channels are dropped, and channels that its
scan-out stopped resume (R224, R231). -/
def State.releaseStreams (s : State) (p : PlotId) : State :=
  let outside := (s.fedQueues (s.chansOf p)).filter fun x => (s.cell x.1).owner != p
  let s := s.modQueues outside fun x => if x.retained then { x with retained := false, freed := 0, down := 0 } else x
  s.resumeChans (s.feedersOf p)

/-- The owner that a wain's ranges carry while its context is held: plot and place in its list of contexts. -/
def parkedKey (p : PlotId) (i : Nat) : Nat := 1000 + 64 * p.toNat + i

/-- The ranges of a wain key are released in every cell and every captured cell. -/
def State.dropRanges (s : State) (k : Nat) : State :=
  let cell (v : Cell) : Cell := v.release (.wain k)
  let plot (q : Plot) : Plot := { q with snaps := q.snaps.map fun x => { x with cell := cell x.cell } }
  let cells (m : Store Cell) : Store Cell := m.map fun e => (e.1, cell e.2)
  let plots (m : Store Plot) : Store Plot := m.map fun e => (e.1, plot e.2)
  { s with cells := cells s.cells, plots := plots s.plots }

/-- Contexts of a scanned plot are dropped with the ranges that they hold in any cell, and the faults that they hold are
withdrawn (R175, R310). -/
def State.dropContexts (s : State) (p : PlotId) : State :=
  let s := (List.range (s.plot p).contexts.length).foldl (fun s i => s.dropRanges (parkedKey p i)) s
  ((s.plot p).contexts.filterMap Wain.faultSeq).foldl (fun s q => s.withdraw (some q)) s

/-- A plot is LOADED with configuration 0 at its origin. -/
def State.placedAgain (s : State) (p : PlotId) (im : PlanImage) : State :=
  let s := (s.giveCells p).modPlot p fun q => { q with state := .loaded }
  let s := s.loadPlot im p
  let s := s.standsLoaded p (im.season0 p)
  s.planSync im (· == p)

/-- PLOT_RESET once the wains of the plot are quiet. -/
def State.resetPlot (s : State) (p : PlotId) : State × Answer :=
  let q := s.plot p
  if !q.holds && !s.mayStand p q.lx.toNat q.ly.toNat then (s, refusePlot stPlace p)
  else match s.reread (placeBlocks p.toNat) with
    | (s, .inl b) => (s, b.again)
    | (s, .inr im) =>
      let s := s.releaseStreams p
      let s := s.dropContexts p
      let s := (s.plotWains p).foldl (fun s k => s.clearWain p k) s
      let s := if q.holds then s.freeCells p else s.giveWains p
      let s := s.modPlot p Plot.resetRegs
      (s.placedAgain p im, okWith [])

/-- PLOT_RESET; it completes once the packets of the wains that abandon their chains have. -/
def execPlotReset (p : PortNo) (n : SlotNo) (s : State) : Out :=
  match s.abandoning p n 0x17 with
  | some r =>
    let id := plotArg r.payload
    if s.wainsQuiet (s.plotWains id) then
      let (t, a) := s.resetPlot id
      .next (t.finish a)
    else .next s
  | none =>
    .next (s.carry p n 0x17 anyRow fun s l =>
      let id := plotArg l
      let q := s.plot id
      match s.plotCheck l with
      | some a => answered s a
      | none =>
        if q.state = .empty then answered s (refusePlot stState id)
        else match s.thrHolds id with
          | some g => answered s (refuse stBusy g)
          | none =>
            if !q.holds && !s.mayStand id q.lx.toNat q.ly.toNat then answered s (refusePlot stPlace id)
            else match s.reread (placeBlocks id.toNat) with
              | (s, .inl b) => answered s b.again
              | (s, .inr _) =>
                let s := s.stopWains (s.plotWains id)
                if s.wainsQuiet (s.plotWains id) then
                  let (t, a) := s.resetPlot id
                  answered t a
                else (s, .wait .abandon))

/-! ### PLOT_MOVE (R388 to R390) -/

/-- The plot holds a claimed window, also while it is SCANNED (R182, R225). -/
def State.holdsClaim (s : State) (p : PlotId) : Bool := s.residents.any fun r => r.claimed && r.holder == p

/-- Job-owned gates that bind a cell of a rectangle. -/
def State.jobGates (s : State) (q : Plot) : List GateId :=
  s.hubs.flatMap fun (e : Nat × Hub) =>
    (e.2.gates.filter fun (g : Nat × Gate) => g.2.owner == 127 && g.2.slots.any fun (b : Nat × Word) =>
      bindKind b.2 == 1 && q.cells.contains (bindCell b.2)).map fun (g : Nat × Gate) => gateOf (BitVec.ofNat 6 e.1) g.1

/-- What R388 refuses, before the placement. -/
def State.moveRefused (s : State) (p : PlotId) : Option Answer :=
  let q := s.plot p
  let released := q.state == .scanned && !q.holds
  if q.state = .empty || q.state = .running || (q.state = .scanned && q.holds) then some (refusePlot stState p)
  else if s.holdsClaim p then some (refuse stResident 0)
  else match s.thrHolds p with
    | some g => some (refuse stBusy g)
    | none =>
      if !released && ((s.plotWains p).any (fun k => (s.wain k).state != .idle) ||
          (s.jobGates q).any fun g => (s.gate g).state == .up || (s.gate g).arr != 0) then some (refusePlot stState p)
      else none

/-- The rings, scan area, DATA ranges and waypoints of a plot hold at an origin (R176, R226, R372, R387). -/
def State.moveFits (s : State) (p : PlotId) (im : PlanImage) (lx ly : Nat) : Bool :=
  let q := s.plot p
  s.mayStand p lx ly && (im.configsOf p.toNat).all (fun c => s.waysOk c lx ly && c.rects.all fun r => s.ringsOk r lx ly) &&
    q.scanArea.all (fun a => !s.windowMeets { q.ground with lx := lx, ly := ly } (a.toNat, a.toNat + 0x10000)) &&
    s.datasOk im p.toNat lx ly

/-- The blocks that PLOT_MOVE reads: every configuration of the plot, and what its placement takes. -/
def moveBlocks (p : Nat) (b : PlanBlock) : Bool := placeBlocks p b || (b.kind == 3 && b.plot == p)

/-- A binding of a cell of the old rectangle follows the plot (R390 step 6). -/
def rebind (q : Plot) (lx ly : Nat) (b : Word) : Word :=
  let c := bindCell b
  if bindKind b = 1 && q.cells.contains c then
    BitVec.ofNat 32 (2 ^ 30 + (mkCell (lxOf c - q.lx.toNat + lx) (lyOf c - q.ly.toNat + ly)).toNat)
  else b

/-- A job-owned gate is disabled, bound again, and enabled again where it was enabled. -/
def State.rebindGate (s : State) (q : Plot) (lx ly : Nat) (g : GateId) : State :=
  s.modHub (gateField g) fun h =>
    let i := gateIndex g
    let was := (h.gate i).state != .disabled
    let h := h.disableGate i
    let h := h.setGate i { h.gate i with
      cur := 0, arr := 0, nxt := 0, nfirst := 0
      slots := (h.gate i).slots.map fun (b : Nat × Word) => (b.1, rebind q lx ly b.2) }
    if was then h.enableGate i else h

/-- Steps 1 to 7 of R390 once the markers are back. -/
def State.movePlot (s : State) (p : PlotId) (im : PlanImage) (lx ly : Nat) : State :=
  let q := s.plot p
  let gs := s.jobGates q
  let feeders := s.feedersOf p
  let s := s.countDiscard p (s.heldIn (s.queuesOf p fun _ => true))
  let s := s.releaseStreams p
  let s := (s.plotWains p).foldl (fun s k => s.clearWain 127 k) s
  let s := (s.freeCells p).scrubCells q.cells.contains q.cells
  let s := s.modPlot p fun q =>
    { q with lx := BitVec.ofNat 10 lx, ly := BitVec.ofNat 9 ly, faultReg := 0, record := [], state := .loaded, dryStart := none, scanCut := false }
  let s := s.mapTables fun t => t.origin p (s.plot p)
  let s := (s.giveWains p).placedAgain p im
  let s := gs.foldl (fun s g => s.rebindGate q lx ly g) s
  (s.freshen feeders).resumeChans feeders

/-- The move after its markers, and the scrubs that follow. -/
def State.moveEnds (s : State) (p : PlotId) (l : List Byte) : State × Carried :=
  let lx := leAt l 2 2
  let ly := leAt l 4 2
  match s.reread (moveBlocks p.toNat) with
  | (s, .inl b) => (s.resumeChans (s.feedersOf p), .done b.again)
  | (s, .inr im) =>
    if s.moveFits p im lx ly then (s.movePlot p im lx ly, .wait (.moved p))
    else (s.resumeChans (s.feedersOf p), .done (refusePlot stPlace p))

/-- PLOT_MOVE (R388 to R390): markers, the move, and the scrubs of the new cells (R184). -/
def execPlotMove (p : PortNo) (n : SlotNo) (s : State) : Out :=
  match s.runningIn p n with
  | some r =>
    match r.what with
    | .move id =>
      if s.markersBack (s.feedersOf id) then
        match s.moveEnds id r.payload with
        | (t, .done a) => .next (t.finish a)
        | (t, .wait w) => .next { t with running := some { r with what := w } }
        | (t, _) => .next t
      else .next s
    | .moved id =>
      .next (if (s.plot id).cells.any fun c => (s.cell c).scrubbing then s else s.finish (okWith []))
    | _ => .next s
  | none =>
    .next (s.carry p n 0x16 anyRow fun s l =>
      let id := plotArg l
      let q := s.plot id
      let lx := leAt l 2 2
      let ly := leAt l 4 2
      match s.plotCheck l <|> s.moveRefused id with
      | some a => answered s a
      | none =>
        match s.reread (moveBlocks id.toNat) with
        | (s, .inl b) => answered s b.again
        | (s, .inr im) =>
          if !s.moveFits id im lx ly then answered s (refusePlot stPlace id)
          else if q.state = .scanned then
            answered (s.modPlot id fun q => { q with lx := BitVec.ofNat 10 lx, ly := BitVec.ofNat 9 ly }) (okWith [])
          else
            let s := s.stopChans (s.feedersOf id)
            if s.markersBack (s.feedersOf id) then s.moveEnds id l else (s, .wait (.move id)))

end Sys2Proof.Machine
end

