-- ==== Sys2Proof/Machine/Scan.lean ====
section
/-! DEFINITION. Scan-out and scan-in of plots (R61, R160, R175, R223 to R229, R308, R309, R451, R458). -/

namespace Sys2Proof.Config

/-- What a cell holds after a scan-in of an image body that no scan-out wrote: none where the body gives no
state (R227; log entry 18). -/
opaque scanDecode : List Byte → Option Machine.Cell

/-- The wain contexts in the body of the image of plot cell (0, 0) that no scan-out wrote (R308; log entry 18). -/
opaque scanContexts : List Byte → List Machine.Wain

end Sys2Proof.Config

namespace Sys2Proof.Machine

/-! ### Images and buffers (R225 to R227) -/

/-- Bytes of one image and of its body. -/
def imageLen : Nat := 65536
def bodyBytes : Nat := 65472

/-- Where the lofts start behind `n` images, from the start of the buffer. -/
def loftsAt (n : Nat) : Nat := (n * imageLen + 2 ^ 21 - 1) / 2 ^ 21 * 2 ^ 21

/-- Bytes of a buffer for `n` cells. -/
def bufferLen (n : Nat) (copy : Bool) : Nat := if copy then loftsAt n + n * 2 ^ 21 else n * imageLen

/-- The granary address of a scan buffer: the bare address of the granary map, or its form as an address of space 1
(R225, R289; log entry 45). -/
def bufferAddr (x : Nat) : Nat := if x / 2 ^ 60 = 1 then x % 2 ^ 60 else x

/-- A buffer of a granary scan: aligned, and every page of its extent valid and, for a scan-out, writable. -/
def State.bufferOk (s : State) (a len : Nat) (write : Bool) : Bool :=
  a % 2 ^ 21 == 0 && decide (a + len ≤ 2 ^ 42) &&
    (List.range ((len + 2 ^ 21 - 1) / 2 ^ 21)).all fun i =>
      let e := s.mapEntry (a / 2 ^ 21 + i)
      entryValid e && (!write || entryWrite e)

/-- The image header (R227). -/
def State.imageHeader (s : State) (p : PlotId) (v : Cell) (copy : Bool) (body : List Byte) : List Byte :=
  let q := s.plot p
  padBytes (leBytes 4 0x4E414353 ++ leBytes 4 v.self.toNat ++ leBytes 1 (v.run.code + (if v.arith.isSome then 128 else 0)) ++
    leBytes 1 q.season.toNat ++ leBytes 1 p.toNat ++
    leBytes 1 ((if copy then 1 else 0) + (if q.state == .faulted then 2 else 0)) ++ leBytes 4 1 ++ leBytes 8 s.tick ++
    leBytes 4 bodyBytes ++ leBytes 4 (crc32c body).toNat ++
    leBytes 8 ((s.plan.map PlanInfo.loadId).getD 0).toNat ++ leBytes 8 s.serial.toNat) 64

/-! ### Scoreboard owners (R175, R308) -/

/-- Ranges of one wain key pass to another, in every cell and every captured cell. -/
def State.rekey (s : State) (old new_ : Nat) : State :=
  let entry (e : SbEntry) : SbEntry := if e.owner = .wain old then { e with owner := .wain new_ } else e
  let cell (v : Cell) : Cell := { v with board := v.board.map entry }
  let snap (x : Snap) : Snap := { x with cell := cell x.cell }
  let plot (q : Plot) : Plot := { q with snaps := q.snaps.map snap }
  let cells (m : Store Cell) : Store Cell := m.map fun e => (e.1, cell e.2)
  let plots (m : Store Plot) : Store Plot := m.map fun e => (e.1, plot e.2)
  { s with cells := cells s.cells, plots := plots s.plots }

/-! ### PLOT_SCAN_OUT (R223 to R226, R451) -/

/-- States that a scan-out captures (R193). -/
def PlotState.scannable : PlotState → Bool
  | .running => true
  | .done => true
  | .stopped => true
  | .faulted => true
  | _ => false

/-- The target that a request of PLOT_SCAN_OUT names. -/
def scanTarget (l : List Byte) : ScanTarget :=
  if leAt l 1 1 = 1 then .granary (BitVec.ofNat 42 (bufferAddr (leAt l 8 8))) (leAt l 2 1 == 1) else .loft

/-- A cell of the plot is DEAD, locked out or a hole. -/
def State.lostCell (s : State) (p : PlotId) : Bool :=
  (s.plot p).cells.any fun c => (s.cell c).dead || (s.cell c).lockedOut || s.isHole c

/-- What refuses a scan-out. -/
def State.scanRefused (s : State) (p : PlotId) (l : List Byte) : Option Answer :=
  let q := s.plot p
  if 2 ≤ leAt l 1 1 then some (badField 1)
  else if 2 ≤ leAt l 2 1 then some (badField 2)
  else if !q.state.scannable || s.lostCell p then some (refusePlot stState p)
  else match s.thrHolds p with
    | some g => some (refuse stBusy g)
    | none =>
      match scanTarget l with
      | .loft => if q.scanArea.isNone then some (refusePlot stState p) else none
      | .granary _ copy =>
        if s.bufferOk (bufferAddr (leAt l 8 8)) (bufferLen q.cells.length copy) true then none else some (badField 8)

/-- Steps 1 to 4 of R223. -/
def State.scanBegins (s : State) (p : PlotId) : State :=
  let s := s.modPlot p fun q => { q with scanning := true }
  let s := s.modCells (s.plot p).cells Cell.freeze
  let s := s.stopWains (s.plotWains p)
  (s.chansOf p).foldl State.sendMarker (s.stopChans (s.feedersOf p))

/-- PLOT_SCAN_OUT; it completes at SCAN_CAPTURE. -/
def execPlotScanOut (p : PortNo) (n : SlotNo) (s : State) : Out :=
  .next (s.carry p n 0x14 anyRow fun s l =>
    let id := plotArg l
    match s.plotCheck l <|> s.scanRefused id l with
    | some a => answered s a
    | none => (s.scanBegins id, .wait (.scan id)))

/-! ### SCAN_CAPTURE (R223 step 6, R225, R227, R308, R458) -/

/-- A wain stands at a packet boundary, with nothing to record. -/
def Wain.settled (w : Wain) : Bool := w.quiet && w.faulting.isNone && w.state != .running && w.state != .waitmap

/-- Steps 1 to 5 of R223 are over. -/
def State.scanReady (s : State) (p : PlotId) : Bool :=
  s.markersBack (s.chansOf p) && s.markersBack (s.feedersOf p) && ((s.plot p).cells.all fun c => (s.cell c).idle) &&
    (s.plotWains p).all fun k => (s.wain k).settled

/-- The spill rings of a cell, by base address (R225). -/
def State.ringsOf (s : State) (c : CellId) : List (Nat × List Byte) :=
  ((List.range 8).filterMap fun i =>
    let q := (s.cell c).queue (BitVec.ofNat 3 i)
    if q.spill != 0 then some (q.ringBase, s.loft.readBytes (loftKey c q.ringBase) (4096 * q.spill)) else none)

/-- The loft of a cell as a scan-out copies it: claimed windows only (R181). -/
def State.loftCopy (s : State) (c : CellId) : List Byte :=
  (List.range (2 ^ 21)).map fun a => if s.inUnclaimed c a then 0 else s.loft.read (loftKey c a)

/-- What a scan-out copies from a cell's loft: the byte ranges of its rings, or the whole loft. -/
def copiedRanges (rings : List (Nat × List Byte)) (copy : Bool) : List (Nat × Nat) :=
  if copy then [(0, 2 ^ 21)] else rings.map fun r => (r.1, r.1 + r.2.length)

/-- The words with an error that a copy of byte ranges reads, outside unclaimed windows (R166, R167). -/
def State.brokenIn (s : State) (c : CellId) (l : List (Nat × Nat)) : List Nat :=
  ((s.loftErr.map fun (e : Nat × Nat) => e.1).filter fun w => w / 2 ^ 17 == c.toNat).filter fun w =>
    let a := w % 2 ^ 17 * 16
    !s.inUnclaimed c a && l.any fun r => decide (r.1 ≤ a) && decide (a < r.2)

/-- One cell is captured: its image is written, and what the image holds is kept (log entry 18). -/
def State.captureCell (s : State) (p : PlotId) (t : ScanTarget) (area : Nat) (i : Nat) (c : CellId) : State × Snap :=
  let v := s.cell c
  let body := (List.range bodyBytes).map (Config.scanByte s.drawn)
  let own : Store (BitVec 15) := s.pmem.filter fun e => e.1 / 8192 == c.toNat
  let words : Store (BitVec 15) := own.map fun e => (e.1 % 8192, e.2)
  let rings := match t with
    | .granary _ false => s.ringsOf c
    | _ => []
  -- every word read is checked; a broken one is copied as it stands
  let read := s.brokenIn c (copiedRanges rings (match t with
    | .granary _ true => true
    | _ => false))
  let errs := (read.filter fun w => 2 ≤ Store.get 0 s.loftErr w).map (· % 2 ^ 17)
  let (s, _) := s.checkWords c 5 read
  let s := { s with drawn := s.drawn + 1 }
  let s := match t with
    | .loft => s.loftPut c area (s.imageHeader p v false body ++ body)
    | .granary a copy =>
      let (s, _) := s.wardWrite (a.toNat + i * imageLen) (s.imageHeader p v copy body ++ body)
      if copy then (s.wardWrite (a.toNat + loftsAt (s.plot p).cells.length + i * 2 ^ 21) (s.loftCopy c)).1 else s
  (s, ⟨v, words, rings, errs, body⟩)

/-- Every cell of a plot is captured, in order of py and then px. -/
def State.captureCells (s : State) (p : PlotId) (t : ScanTarget) (area : Nat) : State :=
  (s.plot p).cells.zipIdx.foldl (fun s (x : CellId × Nat) =>
    let (s, snap) := s.captureCell p t area x.2 x.1
    s.modPlot p fun q => { q with snaps := q.snaps ++ [snap] }) s

/-- The contexts of the wains of a plot are captured. A scan-out to LOFT leaves each wain as it stopped; one to the granary
releases it, its ranges being bound to the context until a wain takes it (R225, R308, R310). -/
def State.captureWains (s : State) (p : PlotId) (t : ScanTarget) : State :=
  let ks := s.plotWains p
  let s := s.modPlot p fun q => { q with contexts := ks.map s.wain }
  match t with
  | .loft => s
  | .granary _ _ => ks.zipIdx.foldl (fun s (x : Nat × Nat) =>
      let w := s.wain x.1
      (s.rekey x.1 (parkedKey p x.2)).setWain x.1 { owner := p, dcount := w.dcount, refused := w.refused }) s

/-- The cells and wains of a plot are released and scrubbed (R225). -/
def State.releasePlot (s : State) (p : PlotId) : State :=
  let cs := (s.plot p).cells
  let s := (s.plotWains p).foldl (fun s k => s.modWain k fun w => { w with owner := 127 }) s
  (s.freeCells p).scrubCells cs.contains cs

/-- The plot is captured. -/
def State.capturePlot (s : State) (p : PlotId) (t : ScanTarget) : State :=
  let q := s.plot p
  let s := s.modPlot p fun q => { q with snaps := [] }
  let s := (s.captureWains p t).captureCells p t ((q.scanArea.map BitVec.toNat).getD 0)
  let s := s.unregister q.cells.contains
  let s := match t with
    | .loft => s
    | .granary _ _ => s.releasePlot p
  s.modPlot p fun q =>
    { q with state := .scanned, captured := q.state, scan := some t, scanning := false, wasFaulted := q.state == .faulted }

/-- SCAN_CAPTURE: the hubs capture the cells; `scanFail` is a cell that the scan chain finds dead (R458). -/
def execScanCapture (p : PlotId) (scanFail : Option CellId) (s : State) : Out :=
  match s.running with
  | some ⟨_, _, _, l, _, .scan p'⟩ =>
    if p' ≠ p then .next s
    else match scanFail with
      | some c =>
        if !(s.plot p).cells.contains c || (s.cell c).lockedOut then .next s
        else .next (((s.cellDies c 2 false).modPlot p fun q => { q with scanning := false, scanCut := true }).finish (refusePlot stState p))
      | none =>
        if s.lostCell p then .next ((s.modPlot p fun q => { q with scanning := false, scanCut := true }).finish (refusePlot stState p))
        else if !s.scanReady p then .next s
        else
          let t := scanTarget l
          let n := (s.plot p).cells.length
          let written := match t with
            | .loft => n * imageLen
            | .granary _ copy => bufferLen n copy
          .next ((s.capturePlot p t).finish (okWith (leBytes 8 written)))
  | _ => .next s

/-! ### PLOT_SCAN_IN (R224, R225, R228, R308, R309) -/

/-- One image is read: none where it cannot be. An error of a stored LOFT image is logged with SOURCE 1, since the log has
no code for a scan-in (DESIGN CHOICE, log entry 70). -/
def State.readImage (s : State) (t : ScanTarget) (area i : Nat) (c : CellId) : State × Option (List Byte) :=
  match t with
  | .loft =>
    let (s, l, bad) := s.loftRead c area imageLen 1
    (s, if bad then none else some l)
  | .granary a _ => s.wardRead (a.toNat + i * imageLen) imageLen

/-- The checks of R228 step 4 on one image. -/
def State.imageOk (s : State) (p : PlotId) (x : Nat × Nat) (l : List Byte) : Bool :=
  leAt l 0 4 == 0x4E414353 && leAt l 12 4 == 1 && leAt l 4 4 == x.2 * 1024 + x.1 && leAt l 10 1 == p.toNat &&
    leAt l 9 1 == (s.plot p).season.toNat && leAt l 32 8 == ((s.plan.map PlanInfo.loadId).getD 0).toNat &&
    leAt l 40 8 == s.serial.toNat && leAt l 24 4 == bodyBytes && BitVec.ofNat 32 (leAt l 28 4) == crc32c (l.drop 64)

/-- The bodies of the images, where every one passes its checks. -/
def State.readImages (s : State) (p : PlotId) (t : ScanTarget) (area : Nat) : List ((Nat × Nat) × Nat) → State × Option (List (List Byte))
  | [] => (s, some [])
  | (x, i) :: l =>
    match s.readImage t area i ((s.plot p).cellAt x.1 x.2) with
    | (s, none) => (s, none)
    | (s, some b) =>
      if !s.imageOk p x b then (s, none)
      else match s.readImages p t area l with
        | (s, some bs) => (s, some (b.drop 64 :: bs))
        | (s, none) => (s, none)

/-- The loft copies of a buffer: none where one cannot be read. -/
def State.readLofts (s : State) (a n : Nat) : List Nat → State × Option (List (List Byte))
  | [] => (s, some [])
  | i :: l =>
    match s.wardRead (a + loftsAt n + i * 2 ^ 21) (2 ^ 21) with
    | (s, none) => (s, none)
    | (s, some b) =>
      match s.readLofts a n l with
      | (s, some bs) => (s, some (b :: bs))
      | (s, none) => (s, none)

/-- A cell as a scan-in restores it: its place, and its marks, are its own; a channel that a scan-out of its
destination stopped stays stopped only while that plot is SCANNED. -/
def State.restored (s : State) (p : PlotId) (v now_ : Cell) : Cell :=
  let q := s.plot p
  let chan (o : Chan) : Chan := { o with markers := 0, stopped := o.stopped && (s.plot o.dplot).state == .scanned }
  let chans (m : Store Chan) : Store Chan := m.map fun e => (e.1, chan e.2)
  { v with
    owner := p, plot := q.ident p, frozen := q.wasFaulted, scrubbing := false, missed := 0
    lockedOut := now_.lockedOut, dead := now_.dead, routerDead := now_.routerDead, chans := chans v.chans }

/-- One cell takes the state of its image, with its program words, its rings and its loft copy; one that
sleeps on a latch registers again (R45, R61). A loft copy that meets an unclaimed window counts as a refused write there
(DESIGN CHOICE, log entry 70). -/
def State.restoreCell (s : State) (p : PlotId) (c : CellId) (snap : Snap) (body : List Byte) (loft : Option (List Byte)) : State :=
  let v := if body = snap.body then snap.cell else (Config.scanDecode body).getD snap.cell
  let words := if body = snap.body then snap.words else []
  let others : Store (BitVec 15) := s.pmem.filter fun e => e.1 / 8192 != c.toNat
  let s := { s with pmem := words.foldl (fun (m : Store (BitVec 15)) (e : Nat × BitVec 15) => Store.insert m (c.toNat * 8192 + e.1) e.2) others }
  let s := match loft with
    | some l => s.loftPut c 0 l
    | none => snap.rings.foldl (fun s (r : Nat × List Byte) => s.loftPut c r.1 r.2) s
  -- a word copied with its error is broken again
  let s := { s with loftErr := snap.errs.foldl (fun (m : Store Nat) w => Store.set 0 m (c.toNat * 2 ^ 17 + w) 2) s.loftErr }
  let v := s.restored p v (s.cell c)
  match v.run, v.wait with
  | .sleeping, some w =>
    match w.on with
    | .latch l => (s.setCell c { v with wait := some { w with refused := none } }).latchPacket c .waitreg l w.deadline.isSome 0
    | _ => s.setCell c v
  | _, _ => s.setCell c v

/-- A fault that a context holds is carried on: the recorded action, or a report under its old number (R309). -/
def State.faultAgain (s : State) (k : Nat) : State :=
  let w := s.wain k
  match w.faultSeq, w.resume with
  | some _, some retry => s.resumeWain k retry
  | some seq, none =>
    let rec_ := pageRecord seq (wainOfKey k) w w.fault
    let held := s.pageFaults.map fun (f : Word × Nat × List Byte) => if f.1 = seq then (seq, k, rec_) else f
    { s with pageFaults := held }.notice 2 32 (padBytes rec_ 48)
  | _, _ => s

/-- The cells whose scoreboard holds a range of a wain. -/
def State.rangesOf (s : State) (k : Nat) : List CellId :=
  (s.cells.filter fun (e : Nat × Cell) => e.2.board.any fun x => x.owner == .wain k).map fun (e : Nat × Cell) => BitVec.ofNat 19 e.1

/-- The contexts that a scan-in finds: those captured, where the body of cell (0, 0) is the one the scan-out wrote (R308). -/
def Plot.scanned (q : Plot) (bodies : List (List Byte)) : List Wain :=
  match q.snaps, bodies with
  | x :: _, b :: _ => if x.body = b then q.contexts else Config.scanContexts b
  | _, _ => q.contexts

/-- A context as a wain of a plot takes it: one that was stopped runs on, or is IDLE where it has no chain. -/
def Wain.restored (w : Wain) (p : PlotId) (ranges : List CellId) : Wain :=
  { w with
    owner := p, stopReq := false, ranges := ranges
    state := if w.state = .stopped then (if w.chains.isEmpty then .idle else .running) else w.state }

/-- The k-th context onto the k-th wain that the placement gives (R308). -/
def State.restoreWains (s : State) (p : PlotId) (l : List Wain) : State :=
  (l.zip (s.plot p).ground.wains).zipIdx.foldl (fun s (x : (Wain × Nat) × Nat) =>
    let s := s.rekey (parkedKey p x.2) x.1.2
    s.setWain x.1.2 (x.1.1.restored p (s.rangesOf x.1.2))) s

/-- The state that a scan-in leaves (R228). -/
def State.scanInCommit (s : State) (p : PlotId) (t : ScanTarget) (bodies : List (List Byte)) (lofts : Option (List (List Byte))) : State :=
  let q := s.plot p
  let s := match t with
    | .loft => s
    | .granary _ _ => (s.giveCells p).giveWains p
  let s := s.mapTables fun t => t.origin p q
  let s := (q.cells.zip (q.snaps.zip bodies)).zipIdx.foldl (fun s (x : (CellId × Snap × List Byte) × Nat) =>
    s.restoreCell p x.1.1 x.1.2.1 x.1.2.2 (lofts.bind fun l => l[x.2]?)) s
  let contexts := q.scanned bodies
  let s := s.restoreWains p contexts
  let outside := (s.fedQueues (s.chansOf p)).filter fun x => (s.cell x.1).owner != p
  let s := s.modQueues outside fun x => { x with retained := false }
  -- a producer of another plot may have started a new season meanwhile (R211)
  let fed := (s.queuesOf p Queue.en).filterMap fun x => (s.producer x.1 x.2).map fun d => (x, (s.cell d.1).owner)
  let s := fed.foldl (fun s (x : (CellId × QueueNo) × PlotId) =>
    if x.2 = p then s else s.modQueue x.1 fun q => { q with season := (s.plot x.2).season }) s
  let s := s.resumeChans (s.feedersOf p)
  let s := s.modPlot p fun q =>
    { q with state := q.captured, scan := none, snaps := [], scanCut := false, contexts := [], progress := s.tick, unheld := s.tick }
  -- faults are carried on in a plot that runs again, so that an ABORT faults it (R306, R309)
  ((q.ground.wains).take contexts.length).foldl State.faultAgain s

/-- PLOT_SCAN_IN (R228). -/
def execPlotScanIn (p : PortNo) (n : SlotNo) (s : State) : Out :=
  .next (s.carry p n 0x15 anyRow fun s l =>
    let id := plotArg l
    let q := s.plot id
    let cells := q.coords.zipIdx
    match s.plotCheck l, q.scan with
    | some a, _ => answered s a
    | none, none => answered s (refusePlot stState id)
    | none, some t0 =>
      if q.state != .scanned then answered s (refusePlot stState id)
      else
        -- a request names the buffer; it may be another than the scan-out wrote
        let t : ScanTarget := match t0 with
          | .loft => .loft
          | .granary _ copy => .granary (BitVec.ofNat 42 (bufferAddr (leAt l 8 8))) copy
        let bufferBad : Bool := match t with
          | .loft => false
          | .granary _ copy => !s.bufferOk (bufferAddr (leAt l 8 8)) (bufferLen cells.length copy) false
        if bufferBad then answered s (badField 8)
        else if !s.mayStand id q.lx.toNat q.ly.toNat then answered s (refusePlot stPlace id)
        else match s.readImages id t ((q.scanArea.map BitVec.toNat).getD 0) cells with
          | (s, none) => answered s (refuse stScan 0)
          | (s, some bodies) =>
            if q.ground.wains.length < (q.scanned bodies).length then answered s (refuse stScan 0)
            else match t with
              | .granary a true =>
                match s.readLofts a.toNat cells.length (List.range cells.length) with
                | (s, none) => answered s (refuse stScan 0)
                | (s, some lofts) => answered (s.scanInCommit id t bodies (some lofts)) (okWith [])
              | _ => answered (s.scanInCommit id t bodies none) (okWith []))

end Sys2Proof.Machine
end

