-- ==== Sys2Proof/Machine/Broadcast.lean ====
section
/-! DEFINITION. CONTROL packets and row broadcasts of the ward, the code that every cell holds, and resident
ranges (R37, R58, R180 to R184, R247, R411, R420, R436). -/

namespace Sys2Proof.Machine

/-! ### CONTROL packets (R420) -/

/-- A CONTROL packet is taken from the mesh; one whose SRC is not the ward's is counted as dropped. -/
def State.control (s : State) (src : Endpoint) (f : FieldNo) (subtype : Nat) (offset : Word) (payload : List Byte)
    (act : State → State) : State :=
  let t (p : Packet) : Bool := sameUnit p.src src && p.body == .control (BitVec.ofNat 8 subtype) offset payload
  if s.notYet t then s
  else
    let s := s.arrived t
    if !s.hubServes f then s
    else if !wardSrc src then s.controlDropped f
    else act s

/-- A write into the tables of a network interface; the detour table has 16 entries (R247, R253; log entry 24). -/
def State.tableEntry (s : State) (c : CellId) (x : Config.NiWrite) : State :=
  let t := (Store.find? s.niCell c.toNat).getD s.ni
  match x with
  | .origin p o => { s with niCell := Store.insert s.niCell c.toNat { t with origins := Store.set 0 t.origins p.toNat o } }
  | .detour i a b d e w =>
    if i < 16 then { s with niCell := Store.insert s.niCell c.toNat { t with detours := Store.insert t.detours i ⟨a, b, d, e, w⟩ } }
    else s
  | .owner p => s.modCell c fun v => { v with owner := p }
  | .self d => { s with niCell := Store.insert s.niCell c.toNat { t with self := some d } }
  | .coords x y => { s with niCell := Store.insert s.niCell c.toNat { t with coords := some (x, y) } }

/-- A payload is written into the tables of a cell's network interface. -/
def State.writeTables (s : State) (offset : Word) (payload : List Byte) (c : CellId) : State :=
  (Config.niWrites offset.toNat payload).foldl (fun s x => s.tableEntry c x) s

/-- TABLE_WRITE: CONTROL subtype 0x01. -/
def execTableWrite (src : Endpoint) (c : CellId) (offset : Word) (payload : List Byte) (s : State) : Out :=
  .next (s.control src (fieldOf c) 0x01 offset payload fun s =>
    if s.reachable c then s.writeTables offset payload c else s)

/-! ### Row broadcasts (R436) -/

/-- The routers of a column that a multicast passes on from one of them, in a direction: it stops at a router that does
not serve, or at a link that is not UP (R258, R260). -/
def State.downColumn (s : State) (d : Nat) : Nat → CellId → List CellId
  | 0, _ => []
  | n + 1, r =>
    if !s.routerOk r then []
    else r :: match neighbour r d with
      | some x => if s.linkState r d = .up then s.downColumn d n x else []
      | none => []

/-- The routers of a field that its hub's multicasts pass: for each column, one from each side of the seam outward
(R258). -/
def State.passed (s : State) (f : FieldNo) : List CellId :=
  (List.range 78).flatMap fun x =>
    s.downColumn 0 32 (mkCell (78 * fxOf f + x) (64 * fyOf f + 31)) ++
      s.downColumn 1 32 (mkCell (78 * fxOf f + x) (64 * fyOf f + 32))

/-- The cells of a field that a broadcast reaches. -/
def State.reached (s : State) (f : FieldNo) (rect : Option Rect) : List CellId :=
  (s.passed f).filter fun c => s.reachable c && rect.all fun r =>
    decide (r.lxLo.toNat ≤ lxOf c) && decide (lxOf c ≤ r.lxHi.toNat) && decide (r.lyLo.toNat ≤ lyOf c) && decide (lyOf c ≤ r.lyHi.toNat)

/-- The default of a vector table entry (R37). -/
def vectorDefault (n : Nat) : Word14 := if n = 0 then 0x3240 else BitVec.ofNat 14 (0x0160 + n)

/-- The vector table defaults. -/
def vectorDefaults : List Word14 := (List.range 16).map vectorDefault

/-- The words of a payload in 16-bit units. -/
def wordsPayload (l : List Word14) : List Byte := l.flatMap fun w => leBytes 2 w.toNat

/-- A row broadcast acts in every cell that it reaches. -/
def State.broadcast (s : State) (src : Endpoint) (f : FieldNo) (rect : Option Rect) (subtype : Nat) (offset : Word)
    (payload : List Byte) (act : State → CellId → State) : State :=
  s.control src f subtype offset payload fun s => (s.reached f rect).foldl act (s.rouse f)

/-- PMEM: subtype 0x10. -/
def execPmem (src : Endpoint) (f : FieldNo) (rect : Option Rect) (addr : PAddr) (words : List Word14) (s : State) : Out :=
  .next (s.broadcast src f rect 0x10 (BitVec.ofNat 32 addr.toNat) (wordsPayload words) fun s c =>
    s.putWords c addr.toNat (words.take (8192 - addr.toNat)))

/-- VECDEF: subtype 0x11. -/
def execVecdef (src : Endpoint) (f : FieldNo) (rect : Option Rect) (s : State) : Out :=
  .next (s.broadcast src f rect 0x11 0 [] fun s c => s.putWords c 0 vectorDefaults)

/-- NITAB: subtype 0x12. -/
def execNitab (src : Endpoint) (f : FieldNo) (rect : Option Rect) (offset : Word) (payload : List Byte) (s : State) : Out :=
  .next (s.broadcast src f rect 0x12 offset payload fun s c => s.writeTables offset payload c)

/-- SCRUB: subtype 0x13; each cell reached scrubs until SCRUB_COMPLETE. -/
def execScrub (src : Endpoint) (f : FieldNo) (rect : Option Rect) (s : State) : Out :=
  .next (s.control src f 0x13 0 [] fun s =>
    let cs := s.reached f rect
    s.scrubCells cs.contains cs)

/-! ### The code that every cell holds (R37, R58) -/

/-- The entry stub of cause n: a B with one prefix at 0x1FE0 + 2n, to 0x1C00 for reserved encodings and else
to 0x1C08 (R37). -/
def stubWords (n : Nat) : List Word14 :=
  let target := if n = 1 || n = 2 then 0x1C00 else 0x1C08
  let disp := (target + 2 ^ 17 - (0x1FE0 + 2 * n)) % 2 ^ 17
  [BitVec.ofNat 14 (0x2800 + disp / 128 % 1024), BitVec.ofNat 14 (0x0100 + disp % 128)]

/-- Words with their parity bits, from an address on. -/
def putAll (m : Store (BitVec 15)) (a : Nat) (l : List Word14) : Store (BitVec 15) :=
  l.zipIdx.foldl (fun (m : Store (BitVec 15)) (x : Word14 × Nat) => Store.set 0 m (a + x.2) (withParity x.1)) m

/-- The words that every cell holds: the library with its stubs, and the vector table defaults. -/
def State.codeAll (s : State) : Store (BitVec 15) :=
  let lib := (s.library.filter fun (e : Nat × Word14) => decide (0x1C00 ≤ e.1) && decide (e.1 < 0x2000)).foldl
    (fun (m : Store (BitVec 15)) (e : Nat × Word14) => Store.set 0 m e.1 (withParity e.2)) []
  let stubs := (List.range 15).foldl (fun (m : Store (BitVec 15)) n => putAll m (0x1FE2 + 2 * n) (stubWords (n + 1))) lib
  putAll stubs 0 vectorDefaults

/-- The library broadcast with the vector table defaults (R58). -/
def State.libraryBroadcast (s : State) : State :=
  let plan : Store (BitVec 15) := s.pmem.filter fun e => decide (16 ≤ e.1 % 8192) && decide (e.1 % 8192 < 0x1C00)
  { s with pmemAll := s.codeAll, pmem := plan }

/-! ### Resident ranges (R180 to R183, R411) -/

/-- Resident windows of a cell. -/
def State.windowsOf (s : State) (c : CellId) : List Resident :=
  s.residents.filter fun r => decide (r.lx ≤ lxOf c) && decide (lxOf c < r.lx + r.width) && decide (r.ly ≤ lyOf c) &&
    decide (lyOf c < r.ly + r.height)

/-- The spill rings that the configurations of the plan give a cell of a plot (R180). -/
def State.planRings (s : State) (p : PlotId) (c : CellId) : List (Nat × Nat) :=
  let q := s.plot p
  let x := lxOf c - q.lx.toNat
  let y := lyOf c - q.ly.toNat
  match s.plan with
  | none => []
  | some i => i.rings.filterMap fun (n, (x0, y0, x1, y1), r) =>
      if n = p.toNat && decide (x0 ≤ x) && decide (x ≤ x1) && decide (y0 ≤ y) && decide (y ≤ y1) then some r else none

/-- A new range keeps the limits of R180 in one of its cells. -/
def State.rangeFits (s : State) (p : PlotId) (start len : Nat) (c : CellId) : Bool :=
  let rings := s.planRings p c
  let ws := s.windowsOf c
  decide (ws.length < 4) && ws.all (fun r => !rangesMeet (start, start + len) (r.start, r.start + r.len)) &&
    rings.all fun r => !rangesMeet (start, start + len) r

/-- RESIDENT_DECLARE (R180). -/
def execResidentDeclare (p : PortNo) (n : SlotNo) (s : State) : Out :=
  .next (s.carry p n 0x78 anyRow fun s l =>
    let q := s.plot (BitVec.ofNat 7 (leAt l 4 1))
    let px := leAt l 8 2
    let py := leAt l 10 2
    let w := leAt l 12 2
    let h := leAt l 14 2
    let start := leAt l 16 4
    let len := leAt l 20 4
    let r : Resident := ⟨BitVec.ofNat 32 (leAt l 0 4), q.lx.toNat + px, q.ly.toNat + py, w, h, start, len, true, false, BitVec.ofNat 7 (leAt l 4 1)⟩
    if s.plan.isNone then answered s (refuse stPlan 0)
    else if 96 ≤ leAt l 4 1 then answered s (badField 4)
    else if r.key = 0 || !q.holds || w = 0 || h = 0 || q.width.toNat < px + w || q.height.toNat < py + h || start % 4096 ≠ 0 ||
        len = 0 || len % 4096 ≠ 0 || 0x1FF000 < start + len || 256 ≤ s.residents.length ||
        !(rectCells r.lx r.ly w h).all (s.rangeFits r.holder start len) then answered s (refuse stResident 0)
    else answered { s with residents := s.residents ++ [r] } (okWith []))

/-- The surviving cells of a range hold zeros in its window. -/
def State.zeroWindow (s : State) (r : Resident) : State :=
  ((rectCells r.lx r.ly r.width r.height).filter fun c => !s.isHole c).foldl (fun s c =>
    { s with
      loft := s.loft.clear (loftKey c r.start) r.len
      loftErr := (wordsOf c r.start r.len).foldl Store.erase s.loftErr }) s

/-- RESIDENT_RELEASE (R183, R411). -/
def execResidentRelease (p : PortNo) (n : SlotNo) (s : State) : Out :=
  .next (s.carry p n 0x79 anyRow fun s l =>
    let key : Word := BitVec.ofNat 32 (leAt l 0 4)
    let hit := s.residents.filter fun r => r.key == key
    if hit.isEmpty then answered s (refuse stNotFound 0)
    else if hit.any Resident.claimed then answered s (refuse stResident 0)
    else
      let s := hit.foldl State.zeroWindow s
      answered { s with residents := s.residents.filter fun (r : Resident) => r.key != key } (okWith []))

end Sys2Proof.Machine
end

