-- ==== Sys2Proof/Machine/Tally.lean ====
section
/-! DEFINITION. Sync dumps, tally boundaries and their records (R282 to R284, R463 to R466). -/

namespace Sys2Proof.Machine

/-! ### Sync dumps (R282, R283) -/

/-- Lengths of a section and of the whole dump. -/
def sectionLen : Nat := 81920
def dumpLen : Nat := 3936256

/-- FH_GATE_CTRL, with TALLY (R284). -/
def State.gateCtrl (s : State) (g : GateId) : Word :=
  let x := (s.gate g).ctrl
  if bits s.tally.cfg 63 62 = 1 && bits s.tally.cfg 43 32 == g.toNat then x ||| 1 else x

/-- A gate record. -/
def State.gateRecord (s : State) (g : GateId) : List Byte :=
  let x := s.gate g
  padBytes (leBytes 16 x.mask.toNat ++ leBytes 16 x.arr.toNat ++ leBytes 16 x.nxt.toNat ++ leBytes 4 (s.gateCtrl g).toNat ++
    leBytes 4 x.stateReg.toNat ++ leBytes 4 x.timeout.toNat ++
    leBytes 4 (x.counted s.tick) ++ leBytes 4 x.parent.toNat ++ leBytes 4 x.latch.toNat ++
    leBytes 4 x.faultReg.toNat ++ leBytes 8 x.first.toNat) 128 ++ (List.range 128).flatMap fun i => leBytes 4 (x.slot i).toNat

/-- A latch's attributes. -/
def Latch.attr (l : Latch) : Nat :=
  l.owner.toNat + (if l.entry.isSome then 128 else 0) + (((l.entry <|> l.done).map BitVec.toNat).getD 0) * 256 +
    (if l.done.isSome then 2 ^ 14 else 0)

/-- A waiter entry. -/
def Waiter.entry (w : Waiter) : Nat := 2 ^ 31 + (if w.deadline then 2 ^ 30 else 0) + w.latch.toNat * 2 ^ 19 + w.cell.toNat

/-- A section of the dump. -/
def State.dumpSection (s : State) (f : FieldNo) : List Byte :=
  let h := s.hub f
  if h.dark then padBytes (leBytes 2 f.toNat ++ [1]) sectionLen
  else
    let values := (List.range 256).map fun b => BitVec.ofNat 8 (bitmap 8 fun k => (h.latch (8 * b + k)).val)
    let attrs := (List.range 2048).flatMap fun k => leBytes 2 (h.latch k).attr
    let gates := (List.range 64).flatMap fun i => s.gateRecord (gateOf f i)
    let body := padBytes (values ++ attrs) 8176 ++ gates ++ padBytes (h.waiters.flatMap fun w => leBytes 4 w.entry) 32768
    leBytes 2 f.toNat ++ [0, 0] ++ leBytes 4 h.waiters.length ++ leBytes 4 0 ++ leBytes 4 (crc32c body).toNat ++ body

/-- The dump at tick T, from the sections. -/
def State.syncDump (s : State) (t : Nat) (sections : List (List Byte)) : List Byte :=
  padBytes (leBytes 4 0x504D5544 ++ leBytes 4 1 ++ leBytes 4 s.epoch.toNat ++ leBytes 4 sectionLen ++ leBytes 8 t ++
    leBytes 8 (bitmap 48 fun f => !(s.hub (BitVec.ofNat 6 f)).dark) ++ leBytes 4 dumpLen) 4096 ++ sections.flatten

/-- The target holds a number of bytes, as far as the ward can tell before it writes. -/
def State.targetHolds (s : State) (a : DWord) (n : Nat) : Bool :=
  targetOk a && (if space a = 1 then decide (spaceLow a + n ≤ 2 ^ 42)
    else (s.windowOk (BitVec.ofNat 6 (bits a 53 48)) (spaceLow a) n true).isSome)

/-- SYNC_DUMP (R282); it is answered once the dump is written. -/
def execSyncDump (p : PortNo) (n : SlotNo) (s : State) : Out :=
  .next (s.carry p n 0x31 anyRow fun s l =>
    let a : DWord := BitVec.ofNat 64 (leAt l 0 8)
    if !s.targetHolds a dumpLen then answered s (badField 0)
    else if s.dump.isSome then (s, .hold)
    else ({ s with dump := some ⟨a, s.tick + 200, p, n, true⟩ }, .later))

/-- SYNC_DUMP_CAPTURE: tick T has come (R282, R283). -/
def execSyncDumpCapture (s : State) : Out :=
  match s.dump with
  | none => .next s
  | some d =>
    if s.tick < d.at_ then .next s
    else
      let sections := (List.range 48).map fun f => s.dumpSection (BitVec.ofNat 6 f)
      let t := (List.range 48).foldl (fun (t : State) f =>
        if (t.hub (BitVec.ofNat 6 f)).dark then t
        else t.modHub (BitVec.ofNat 6 f) fun h => { h with staging := (sections[f]?).getD [] }) { s with dump := none }
      let (t, ok) := t.copyOut d.target (s.syncDump d.at_ sections)
      .next (t.complete d.port d.slot 0 d.live false
        (if ok then okWith (leBytes 8 d.at_ ++ leBytes 4 dumpLen) else badField 0))

/-! ### Tally boundaries (R284, R463) -/

/-- Counters that the model does not count, of a hub, a wain and a mill: their value at a boundary is free
(log entry 10). -/
def freeHubCtr : List Nat := [1, 2]
def freeWainCtr : List Nat := [4, 5]

/-- A millijoule in the unit of `Tally.energy`: 1/32,000,000 W over 2 µs (R463, R480). -/
def mJ : Nat := 16000000000

/-- The tally registers of one unit at a boundary, from the value of each counter. -/
def tallied (unit n : Nat) (value : Nat → DWord) (m : Store DWord) : Store DWord :=
  (List.range n).foldl (fun (m : Store DWord) i => Store.set 0 m (unit * 32 + i) (value i)) m

/-- A counter of a unit at a boundary; one that the model does not count is free. -/
def State.counter (s : State) (unit : Nat) (free : List Nat) (i : Nat) : DWord :=
  if free.contains i then Config.tallyCount s.drawn unit i else Store.get 0 s.tally.counts (unit * 32 + i)

/-- A hub's counters: number 22 is its estimated energy (R463). -/
def State.hubCounter (s : State) (f i : Nat) : DWord :=
  if i = 22 then BitVec.ofNat 64 (Store.get 0 s.tally.energy f / mJ) else s.counter f freeHubCtr i

/-- The tally registers of every unit that serves. -/
def State.tallyRegs (s : State) : Store DWord :=
  let lit (f : FieldNo) : Bool := (s.hub f).powered && !(s.hub f).dark
  let wain (m : Store DWord) (k : Nat) : Store DWord := tallied (48 + k) 8 (s.counter (48 + k) freeWainCtr) m
  let hubs := (List.range 48).foldl (fun (m : Store DWord) f =>
    if lit (BitVec.ofNat 6 f) then
      (List.range 8).foldl (fun m i => wain m (8 * f + i)) (tallied f 32 (s.hubCounter f) m)
    else m) []
  (List.range 32).foldl (fun (m : Store DWord) i =>
    let x : MillNo := BitVec.ofNat 5 i
    if (s.mill x).licensed && lit (millField x) then
      wain (wain (tallied (496 + i) 16 (s.counter (496 + i) []) m) (384 + 2 * i)) (385 + 2 * i)
    else m) hubs

/-! ### The tally record (R464) -/

/-- The tally registers of a unit as bytes. -/
def State.tallyBytes (s : State) (unit n : Nat) : List Byte :=
  (List.range n).flatMap fun i => leBytes 8 (Store.get (0 : DWord) s.tally.regs (unit * 32 + i)).toNat

/-- The field and mill sections that hold content. -/
def State.tallyFields (s : State) : Nat := bitmap 48 fun f => !(s.hub (BitVec.ofNat 6 f)).dark
def State.tallyMills (s : State) : Nat :=
  bitmap 32 fun i => (s.mill (BitVec.ofNat 5 i)).licensed && !(s.hub (millField (BitVec.ofNat 5 i))).dark

/-- The record of the last boundary: zeros before any. -/
def State.tallyRecord (s : State) : List Byte :=
  if s.tally.last = 0 then List.replicate 57600 0
  else
    let head := padBytes (leBytes 4 0x594C4154 ++ leBytes 4 1 ++ leBytes 2 s.tally.seq.toNat ++ leBytes 2 0 ++
      leBytes 4 s.epoch.toNat ++ leBytes 8 s.tally.last ++ leBytes 8 s.tally.prev ++ leBytes 4 57600 ++ leBytes 4 0 ++
      leBytes 8 s.tallyFields ++ leBytes 4 s.tallyMills) 256
    let fields := (List.range 48).flatMap fun f =>
      if s.tallyFields.testBit f then
        padBytes (s.tallyBytes f 32 ++ (List.range 8).flatMap fun i => s.tallyBytes (48 + 8 * f + i) 8) 1024
      else List.replicate 1024 0
    let mills := (List.range 32).flatMap fun i =>
      if s.tallyMills.testBit i then
        s.tallyBytes (496 + i) 16 ++ s.tallyBytes (48 + 384 + 2 * i) 8 ++ s.tallyBytes (48 + 385 + 2 * i) 8
      else List.replicate 256 0
    head ++ fields ++ mills

/-- The last boundary's record is copied out: what TALLY_READ answers (R465). -/
def State.tallyCopy (s : State) (a : DWord) : State × Answer :=
  match s.copyOut a s.tallyRecord with
  | (s, true) => (s, okWith (leBytes 4 57600 ++ leBytes 4 s.tally.seq.toNat ++ leBytes 8 s.tally.last))
  | (s, false) => (s, badField 0)

/-- TALLY_CAPTURE: the tick of the boundary has come (R284); TALLY_READs with FORCE take its record (R465). -/
def execTallyCapture (s : State) : Out :=
  match s.tally.due with
  | none => .next s
  | some t =>
    if s.tick < t then .next s
    else
      let waiting := s.forced
      let s := { s with
        tally := { s.tally with
          regs := s.tallyRegs, counts := [], energy := [], due := none, prev := s.tally.last, last := t, seq := s.tally.seq + 1 }
        drawn := s.drawn + 1
        forced := [] }
      .next (waiting.foldl (fun s (x : Forced) =>
        let (s, a) := s.tallyCopy x.target
        s.complete x.port x.slot 0 x.live false a) s)

/-- TALLY_READ (R465). -/
def execTallyRead (p : PortNo) (n : SlotNo) (s : State) : Out :=
  .next (s.carry p n 0x32 anyRow fun s l =>
    let a : DWord := BitVec.ofNat 64 (leAt l 0 8)
    let q := s.plot (BitVec.ofNat 7 (leAt l 9 1))
    if !targetOk a then answered s (badField 0)
    else if 2 ≤ leAt l 8 1 then answered s (badField 8)
    else if 2 ≤ leAt l 10 1 then answered s (badField 10)
    else if space a = 2 && !s.isSteward p then
      answered s (refuse stNotSteward (if s.steward.state = 0 then 0xFFFF else s.steward.port.toNat))
    else if leAt l 8 1 = 1 then
      if 96 ≤ leAt l 9 1 then answered s (badField 9)
      else if q.record.isEmpty then answered s (refuse stNotFound 0)
      else match s.copyOut a q.record with
        | (s, true) => answered s (okWith (leBytes 4 q.record.length ++ leBytes 4 (leAt q.record 8 4) ++ leBytes 8 (leAt q.record 16 8)))
        | (s, false) => answered s (badField 0)
    else if leAt l 10 1 = 1 then ({ s.boundary with forced := s.forced ++ [⟨p, n, a, true⟩] }, .later)
    else
      let (s, ans) := s.tallyCopy a
      answered s ans)

end Sys2Proof.Machine
end

