-- ==== Sys2Proof/Machine/Registers.lean ====
section
/-! DEFINITION. Registers: one view for each register of the hubs, mills, wains, granary stacks and the
hinge, split accesses, and what REGISTER_READ and REGISTER_WRITE do with them (R6 to R10, R232, R337, R338,
R394 to R398, R477, R479). -/

namespace Sys2Proof.Machine

/-! ### Views -/

/-- A register as an access meets it: its first byte offset, whether it is 64 bits wide, its value, its RC,
RW and W1C fields as masks, whether it reads as 0 (WO), and the state once it holds a value. -/
structure RegView where
  base  : Nat
  wide  : Bool := false
  value : DWord
  rc    : DWord := 0
  rw    : DWord := 0
  w1c   : DWord := 0
  wo    : Bool := false
  store : DWord → State

/-- Bits hi:lo of a mask. -/
def fieldMask (hi lo : Nat) : DWord := putBits 0 hi lo (2 ^ (hi + 1 - lo) - 1)

/-- Both halves of a 64-bit register, its low half, its high half. -/
def lowMask : DWord := 0xFFFFFFFF
def highMask : DWord := 0xFFFFFFFF00000000

/-- A read-only register. -/
def regRO (s : State) (base : Nat) (v : Nat) : RegView := { base := base, value := BitVec.ofNat 64 v, store := fun _ => s }
def regRO64 (s : State) (base : Nat) (v : DWord) : RegView := { base := base, wide := true, value := v, store := fun _ => s }
/-- A 32-bit counter that a read clears. -/
def regRC (base : Nat) (v : Word) (store : Word → State) : RegView :=
  { base := base, value := v.setWidth 64, rc := lowMask, store := fun x => store (x.setWidth 32) }
/-- A 64-bit log whose VALID bit is W1C: clearing it arms the log and leaves the other fields. -/
def regLog (base : Nat) (v : DWord) (store : DWord → State) : RegView :=
  { base := base, wide := true, value := v, w1c := fieldMask 63 63, store := store }

/-- The view that an access to an offset meets. -/
def RegView.at_ (l : List RegView) (off : Nat) : Option RegView :=
  l.find? fun r => r.base == off || (r.wide && r.base + 4 == off)

/-- The masks of a register's fields in part of it are applied to a written value. -/
def RegView.write (r : RegView) (part v : DWord) : State :=
  let keep := r.value &&& ~~~(r.rw &&& part)
  r.store ((keep ||| (v &&& r.rw &&& part)) &&& ~~~(r.w1c &&& part &&& v))

/-- The RC fields in part of a register are cleared. -/
def RegView.clear (r : RegView) (part : DWord) (s : State) : State :=
  if r.rc &&& part = 0 then s else r.store (r.value &&& ~~~(r.rc &&& part))

/-- What a read of a register returns. -/
def RegView.shown (r : RegView) : DWord := if r.wo then 0 else r.value

/-! ### Hub registers (06, 08, 09, 10, 11, 12, 18) -/

def StackState.code : StackState → Nat
  | .off => 0
  | .active => 1
  | .selfref => 2
  | .unlicensed => 3
  | .failed => 4

def ThrState.code : ThrState → Nat
  | .idle => 0
  | .harvest => 1
  | .up => 2
  | .winnow => 3
  | .down => 4
  | .faulted => 5

def PlotState.code : PlotState → Nat
  | .empty => 0
  | .loaded => 1
  | .running => 2
  | .done => 3
  | .stopped => 4
  | .faulted => 5
  | .scanned => 6
  | .dry => 7

/-- The loft, mesh, sync and power registers of a hub. -/
def State.hubRegs (s : State) (f : FieldNo) : List RegView :=
  let h := s.hub f
  let p := h.power
  let put (x : Hub) : State := s.setHub f x
  [regRO s 0xB00 p.est.toNat,
   regRO s 0xB04 (min 63 p.ballast * 2 ^ 24 + min 63 p.act * 2 ^ 16 + p.reason * 2 ^ 8 + h.hold),
   regRO s 0xB08 (p.sensor.toNat * 2 ^ 28 + p.ht * 2 ^ 16 + p.tf.toNat),
   regRO64 s 0xB10 p.cal,
   regRO s 0xB18 p.trip.toNat,
   { base := 0xC00, value := h.loftCtrl.setWidth 64, rw := 0x1FE, store := fun x => put { h with loftCtrl := x.setWidth 32 } },
   regRC 0xC04 h.cecnt fun x => put { h with cecnt := x },
   regLog 0xC08 h.uelog fun x => put { h with uelog := x },
   regRC 0xC10 h.uecnt fun x => put { h with uecnt := x },
   regRC 0xC14 h.resviol fun x => put { h with resviol := x }] ++
  [regRC 0xD00 h.dropcnt fun x => put { h with dropcnt := x },
   regRC 0xD04 h.parcnt fun x => put { h with parcnt := x },
   regRC 0xD08 h.stitcherr fun x => put { h with stitcherr := x },
   regLog 0xD10 h.droplog fun x => put { h with droplog := x },
   regRO s 0xD18 (s.linksDownCount f),
   { base := 0x1100, value := BitVec.ofNat 64 (h.misuse.toNat * 2 ^ 16 + h.stranger.toNat), rc := lowMask,
     store := fun x => put { h with misuse := BitVec.ofNat 16 (bits x 31 16), stranger := BitVec.ofNat 16 (bits x 15 0) } },
   { base := 0x1104, value := BitVec.ofNat 64 (h.fullcnt.toNat * 2 ^ 14 + h.waiters.length), rc := fieldMask 27 14,
     store := fun x => put { h with fullcnt := BitVec.ofNat 14 (bits x 27 14) } }] ++
  (List.range 12).map fun n => regRO s (0xB20 + 4 * n) (Store.get 0 p.weights n).toNat

/-- A new EN and PERIOD: a PERIOD of 0 is ignored. -/
def keepPeriod (old : Word) (v : DWord) : Word :=
  if bits v 15 0 = 0 then BitVec.ofNat 32 (bits v 31 31 * 2 ^ 31 + bits old 15 0) else v.setWidth 32

/-- HG_PLOT_DRY: a MAX or WINDOW of 0 is ignored. -/
def keepDry (old : Word) (v : DWord) : Word :=
  BitVec.ofNat 32 ((if bits v 31 16 = 0 then bits old 31 16 else bits v 31 16) * 2 ^ 16 +
    (if bits v 15 0 = 0 then bits old 15 0 else bits v 15 0))

/-- A word of a 128-bit slot bitmap. -/
def bitmapWord (m : BitVec 128) (n : Nat) : Nat := bits m (32 * n + 31) (32 * n)

/-- A gate takes a configuration; the ward writes it only while the gate is DISABLED (R272). -/
def State.gateConfig (s : State) (g : GateId) (x : Gate) : State :=
  if (s.gate g).state = .disabled then s.setGate g x else s

/-- FH_GATE_CTRL is written: EN 0 disables, EN 1 of a DISABLED gate runs the check (R273). -/
def State.gateControl (s : State) (g : GateId) (v : Word) : State :=
  let f := gateField g
  let i := gateIndex g
  let s := if v.msb then s else s.modHub f fun h => h.disableGate i
  let x := s.gate g
  if x.state ≠ .disabled then s
  else
    let s := s.setGate g { x with ctrl := v &&& 0x7FF80000 }
    if v.msb then s.modHub f fun h => h.enableGate i else s

/-- The registers of a gate's block, by offset in the block. -/
def State.gateRegs (s : State) (g : GateId) : List RegView :=
  let x := s.gate g
  let word (v : DWord) : Word := v.setWidth 32
  [{ base := 0x00, value := (s.gateCtrl g).setWidth 64, rw := 0xFFF80000, store := fun v => s.gateControl g (word v) },
   { base := 0x04, value := x.latch.setWidth 64, rw := 0x07FF01FF, store := fun v => s.gateConfig g { x with latch := word v } },
   regRO s 0x08 x.stateReg.toNat,
   { base := 0x0C, value := x.timeout.setWidth 64, rw := 0x8000FFFF,
     store := fun v => s.gateConfig g { x with timeout := keepPeriod x.timeout v } },
   { base := 0x10, value := x.parent.setWidth 64, rw := 0xDFFFFFFF, store := fun v => s.gateConfig g { x with parent := word v } },
   regRO s 0x14 x.faultReg.toNat,
   regRO64 s 0x50 x.first] ++
  (List.range 4).flatMap fun n =>
    [{ base := 0x20 + 4 * n, value := BitVec.ofNat 64 (bitmapWord x.mask n), rw := lowMask,
       store := fun v => s.gateConfig g { x with mask := putBits x.mask (32 * n + 31) (32 * n) (bits v 31 0) } },
     regRO s (0x30 + 4 * n) (bitmapWord x.arr n),
     regRO s (0x40 + 4 * n) (bitmapWord x.nxt n)]

/-- FH_GATE_SLOTn. -/
def State.slotReg (s : State) (g : GateId) (off n : Nat) : RegView :=
  let x := s.gate g
  { base := off, value := (x.slot n).setWidth 64, rw := 0xDFFFFFFF,
    store := fun v => s.gateConfig g { x with slots := Store.set 0 x.slots n (v.setWidth 32) } }

/-- The registers of a wain's block. -/
def State.wainRegs (s : State) (k : Nat) : List RegView :=
  let w := s.wain k
  [regRO s 0x00 w.status.toNat, regRO64 s 0x08 w.descAddr, regRO s 0x10 w.progress.toNat,
   regRC 0x14 w.refused fun x => s.setWain k { w with refused := x },
   regRO64 s 0x18 w.fault]

/-- The registers of a granary stack. -/
def State.stackRegs (s : State) (k : Nat) : List RegView :=
  let x := s.stack k
  [regRO s 0x00 (k * 16 + x.state.code),
   regRC 0x04 x.cecnt fun v => s.setStack k { x with cecnt := v },
   regLog 0x08 x.uelog fun v => s.setStack k { x with uelog := v }]

/-- ML_LINK_CFG is written: ENABLE 0 holds the link DISABLED (R315). -/
def State.linkConfig (s : State) (m : MillNo) (v : Word) : State :=
  let was := (s.mill m).cfg.getLsbD 0
  let s := s.modMill m fun x => { x with cfg := v }
  if was && !v.getLsbD 0 then s.millDisable m 5
  else if !was && v.getLsbD 0 then s.millEnable m
  else s

/-- ML_LANES: whether a spare carries a logical lane, and which. -/
def spareBits : Option (BitVec 4) → Nat
  | some l => 16 + l.toNat
  | none => 0

/-- The link registers of a mill. -/
def State.millRegs (s : State) (m : MillNo) : List RegView :=
  let v := s.mill m
  let put (x : Mill) : State := s.setMill m x
  [{ base := 0x000, value := v.linkReg.setWidth 64, rc := 0xFFFF, store := fun x => put { v with downcnt := BitVec.ofNat 16 (bits x 15 0) } },
   { base := 0x004, value := v.cfg.setWidth 64, rw := 0xFFFFF001, store := fun x => s.linkConfig m (x.setWidth 32) },
   regRO s 0x008 (spareBits v.sp1 * 2 ^ 27 + spareBits v.sp0 * 2 ^ 22 + v.failed.toNat),
   { base := 0x00C, value := v.creditCfg.setWidth 64, rw := lowMask, store := fun x => put { v with creditCfg := x.setWidth 32 } },
   { base := 0x010, wide := true, value := v.ue ++ v.ce, rc := lowMask ||| highMask,
     store := fun x => put { v with ue := BitVec.ofNat 32 (bits x 63 32), ce := BitVec.ofNat 32 (bits x 31 0) } },
   { base := 0x018, value := (v.nakrx ++ v.timer).setWidth 64, rc := lowMask,
     store := fun x => put { v with nakrx := BitVec.ofNat 16 (bits x 31 16), timer := BitVec.ofNat 16 (bits x 15 0) } },
   regLog 0x020 v.errlog fun x => put { v with errlog := x }] ++
  [{ base := 0x028, value := BitVec.ofNat 64 (v.role.toNat * 2 ^ 30 + v.offset.toNat), rw := 0xC0000000,
     store := fun x => put { v with role := BitVec.ofNat 2 (bits x 31 30) } },
   { base := 0x02C, value := BitVec.ofNat 64 (v.lastWafer.toNat * 2 ^ 20 + v.usec.toNat), rc := 0xFFFFF,
     store := fun x => put { v with usec := BitVec.ofNat 20 (bits x 19 0) } },
   { base := 0x030, value := BitVec.ofNat 64 (v.late.toNat * 2 ^ 24 + v.failedCnt.toNat * 2 ^ 13 + v.tracks.length), rc := 0xFFFFE000,
     store := fun x => put { v with late := BitVec.ofNat 8 (bits x 31 24), failedCnt := BitVec.ofNat 11 (bits x 23 13) } },
   { base := 0x034, value := v.rtimeout.setWidth 64, rw := 0xFFFF,
     store := fun x => if bits x 15 0 = 0 then s else put { v with rtimeout := BitVec.ofNat 16 (bits x 15 0) } },
   { base := 0x038, value := (v.dropJob ++ v.dropBad).setWidth 64, rc := lowMask,
     store := fun x => put { v with dropJob := BitVec.ofNat 16 (bits x 31 16), dropBad := BitVec.ofNat 16 (bits x 15 0) } },
   regRO s 0x100 (v.thrState.code * 2 ^ 29 + v.thrGroup.toNat * 2 ^ 25 + v.thrAttempt.toNat * 2 ^ 23 + v.thrStep.toNat),
   regLog 0x108 v.thrFault fun x => put { v with thrFault := x },
   regRC 0x110 v.thrLost fun x => put { v with thrLost := x },
   regRC 0x114 v.thrStale fun x => put { v with thrStale := x },
   { base := 0x118, value := (v.thrBad ++ v.thrRerun).setWidth 64, rc := lowMask,
     store := fun x => put { v with thrBad := BitVec.ofNat 16 (bits x 31 16), thrRerun := BitVec.ofNat 16 (bits x 15 0) } }]

/-- Views of a block, moved to the block's place. -/
def placed (base : Nat) (l : List RegView) : List RegView := l.map fun r => { r with base := base + r.base }

/-- The block of a mill, with its wains. -/
def State.millBlock (s : State) (m : MillNo) : List RegView :=
  s.millRegs m ++ placed 0x400 (s.wainRegs (wainKey (.mill m 0))) ++ placed 0x500 (s.wainRegs (wainKey (.mill m 1)))

/-- The register at an offset of a hub's space; `gates` says that the access may write gates and slot tables. -/
def State.hubReg (s : State) (f : FieldNo) (off : Nat) : Option RegView :=
  if off < 0x1000 || (0x1100 ≤ off && off < 0x2000) then RegView.at_ (s.hubRegs f) off
  else if off < 0x1100 then
    some (regRO s off (bitmap 32 fun k => ((s.hub f).latch (8 * (off - 0x1000) + k)).val))
  else if off < 0x4000 then
    RegView.at_ (placed (off / 0x80 * 0x80) (s.gateRegs (gateOf f ((off - 0x2000) / 0x80)))) off
  else if off < 0xC000 then some (s.slotReg (gateOf f ((off - 0x4000) / 0x200)) off (off % 0x200 / 4))
  else if off < 0xC800 then
    RegView.at_ (placed (off / 0x100 * 0x100) (s.wainRegs (wainKey (.hub f (BitVec.ofNat 3 (off / 0x100)))))) off
  else if off < 0xD000 then none
  else if off < 0xE000 then
    match stackAt f (off / 0x100) with
    | some k => if off < 0xD200 then RegView.at_ (placed (off / 0x100 * 0x100) (s.stackRegs k)) off else none
    | none => none
  else if off < 0xF000 then
    match millAt f (off / 0x800) with
    | some m => RegView.at_ (placed (off / 0x800 * 0x800) (s.millBlock m)) off
    | none => none
  else none

/-- Gate blocks and slot tables, which only the ward writes (R272, R396). -/
def gateSpace (off : Nat) : Bool := 0x2000 ≤ off && off < 0xC000

/-! ### Hinge registers (07, 09, 11, 14 to 19) -/

/-- The registers of a plot's block (R232). -/
def State.plotRegs (s : State) (p : PlotId) : List RegView :=
  let q := s.plot p
  let put (x : Plot) : State := s.setPlot p x
  [regRO s 0x00 (q.prev.toNat * 2 ^ 20 + q.season.toNat * 2 ^ 16 + q.config.toNat * 2 ^ 12 + q.state.code),
   regRO64 s 0x08 (BitVec.ofNat 64 ((if q.bay then 2 ^ 63 else 0) + q.height.toNat * 2 ^ 42 + q.width.toNat * 2 ^ 32 +
     q.ly.toNat * 2 ^ 10 + q.lx.toNat)),
   { base := 0x10, value := q.wdog.setWidth 64, rw := 0x8000FFFF,
     store := fun v => put { q with wdog := keepPeriod q.wdog v } },
   { base := 0x14, value := q.dryCfg.setWidth 64, rw := lowMask,
     store := fun v => put { q with dryCfg := keepDry q.dryCfg v } },
   { base := 0x18, value := q.events.setWidth 64, w1c := 0x1F, store := fun v => put { q with events := v.setWidth 5 } },
   regRC 0x1C q.stale fun x => put { q with stale := x },
   regRC 0x20 q.discard fun x => put { q with discard := x },
   regRO64 s 0x28 q.stallAt,
   regRC 0x30 q.fenceDrop fun x => put { q with fenceDrop := x },
   regRO s 0x34 q.faultReg.toNat]

/-- The mills that a table write is broadcast to (R337). -/
def State.enabledMills (s : State) : List MillNo := ((List.range 32).map (BitVec.ofNat 5)).filter s.millEnabled

/-- A rank table entry is broadcast to every enabled mill, or ignored (R337). -/
def State.writeRank (s : State) (x : DWord) : State :=
  let e : Word := BitVec.ofNat 32 (bits x 31 0)
  let r : Rank := BitVec.ofNat 21 (bits x 52 32)
  let s := { s with rankWr := x }
  if rankOk e then
    { s with
      ranks := s.enabledMills.foldl (fun (t : Store Word) m => Store.set 0 t (rankKey m r.toNat) e) s.ranks
      mills := s.mills.map fun (m : Nat × Mill) =>
        (m.1, ({ m.2 with rankCache := m.2.rankCache.filter fun c => c.1 != r } : Mill))
      rankBusy := true }
  else { s with badEnt := true }

/-- A route table entry is broadcast to every enabled mill, or refused where it names an unlicensed mill (R338). -/
def State.writeRoute (s : State) (x : DWord) : State :=
  let e : Word := BitVec.ofNat 32 (bits x 31 0) &&& 0xE00FFFFF
  let s := { s with routeWr := x }
  if (!e.msb || (routeMills e).all fun m => (s.mill m).licensed) then
    { s with
      routes := s.enabledMills.foldl (fun (t : Store Word) m => Store.set 0 t (routeKey m (bits x 43 32)) e) s.routes
      rankBusy := true }
  else { s with badEnt := true }

/-- CK_SSC takes a value in range (R477). -/
def State.writeSsc (s : State) (v : DWord) : State :=
  if bits v 12 8 ≤ 20 && 50 ≤ bits v 6 0 && bits v 6 0 ≤ 125 then
    ({ s with clocks := { s.clocks with ssc := (BitVec.ofNat 5 (bits v 12 8), BitVec.ofNat 7 (bits v 6 0)) } } : State).settingChanged
      0x30614 (leBytes 4 v.toNat)
  else s

/-- CK_CLKMON takes a value whose SEL is not reserved (R479). -/
def State.writeClkmon (s : State) (v : DWord) : State :=
  if 69 ≤ bits v 30 24 && bits v 30 24 ≤ 126 then s
  else
    ({ s with clocks := { s.clocks with monSel := BitVec.ofNat 7 (bits v 30 24), monDiv := BitVec.ofNat 16 (bits v 15 0) } } :
      State).settingChanged 0x30618 (leBytes 4 v.toNat)

/-- Locked-out cells. -/
def State.cellsOut (s : State) : Nat := (s.cells.filter fun (e : Nat × Cell) => e.2.lockedOut).length

/-- A bit as a number. -/
def bit (b : Bool) : Nat := if b then 1 else 0

/-- Sync, rank, bring-up and fault registers of the hinge. -/
def State.hingeSyncRegs (s : State) : List RegView :=
  [{ base := 0x30100, wide := true, value := s.tally.cfg, rw := 0xC0000FFFFFFFFFFF, store := s.setTallyCfg },
   { base := 0x30108, value := (s.tally.skip ++ s.tally.seq).setWidth 64, rc := 0xFFFF0000,
     store := fun v => { s with tally := { s.tally with skip := BitVec.ofNat 16 (bits v 31 16) } } },
   { base := 0x30200, wide := true, wo := true, value := s.rankWr, rw := 0x001FFFFFFFFFFFFF, store := s.writeRank },
   { base := 0x30208, wide := true, wo := true, value := s.routeWr, rw := 0x00000FFFFFFFFFFF, store := s.writeRoute },
   { base := 0x30210, value := BitVec.ofNat 64 (bit s.badEnt * 2 + bit s.rankBusy), w1c := 2,
     store := fun v => { s with badEnt := v.getLsbD 1 } },
   { base := 0x30300, value := BitVec.ofNat 64 (s.bridge.toNat * 2 ^ 30 + s.bridgeDrop.toNat), rc := 0x3FFFFFFF,
     store := fun v => { s with bridgeDrop := BitVec.ofNat 30 (bits v 29 0) } }] ++
  [regRO s 0x30400 (s.boot.stage.toNat * 2 ^ 28 + s.boot.err.toNat * 2 ^ 24 + bit s.boot.fast * 2 ^ 23 + bit s.boot.xb * 2 ^ 22),
   { base := 0x30404, value := BitVec.ofNat 64 (s.boot.wardrst.toNat * 2 ^ 16 + s.boot.kind.toNat), rc := 0xFFFF0000,
     store := fun v => { s with boot := { s.boot with wardrst := BitVec.ofNat 16 (bits v 31 16) } } },
   { base := 0x30408, value := BitVec.ofNat 64 (s.ledgerLost.toNat % 2 ^ 16 * 2 ^ 16 + s.ledger.length), rc := 0xFFFF0000,
     store := fun v => { s with ledgerLost := BitVec.ofNat 32 (bits v 31 16) } },
   regRO s 0x3040C s.epoch.toNat,
   regRO s 0x30500 s.faultSeq.toNat,
   regRO s 0x30504 (s.millsOut.length * 2 ^ 26 + s.linksOut.length * 2 ^ 13 + min 0x1FFF s.cellsOut)]

/-- Clock, power and firmware registers of the hinge. -/
def State.hingeClockRegs (s : State) : List RegView :=
  let c := s.clocks
  let w := s.power
  let x := s.fw
  [{ base := 0x30600, value := BitVec.ofNat 64 (c.sel.toNat * 2 ^ 30 + c.xa.toNat * 2 ^ 26 + c.xb.toNat * 2 ^ 24 + c.switches.toNat),
     rc := 0xFFFF, store := fun v => { s with clocks := { c with switches := BitVec.ofNat 16 (bits v 15 0) } } },
   regRO64 s 0x30608 (BitVec.ofNat 64 (c.cntB.toNat * 2 ^ 28 + c.cntA.toNat)),
   regRO s 0x30610 c.fosc.toNat,
   { base := 0x30614, value := BitVec.ofNat 64 (c.ssc.1.toNat * 2 ^ 8 + c.ssc.2.toNat), rw := 0x1F7F, store := s.writeSsc },
   { base := 0x30618, value := BitVec.ofNat 64 (c.monSel.toNat * 2 ^ 24 + c.monDiv.toNat), rw := 0x7F00FFFF, store := s.writeClkmon },
   regRO64 s 0x30620 (BitVec.ofNat 64 (2 ^ 63 + c.lock.toNat)),
   regRC 0x30628 c.relock fun v => { s with clocks := { c with relock := v } }] ++
  [regRO64 s 0x30700 (BitVec.ofNat 64 (w.window * 2 ^ 32 + w.peak * 2 ^ 16 + w.sustained)),
   regRO64 s 0x30708 (BitVec.ofNat 64 (w.conv * 2 ^ 48 + w.comp * 2 ^ 32 + min 0xFFFF w.budget * 2 ^ 16 + min 0xFFFF w.module_)),
   regRO s 0x30710 (w.logNext % 2 ^ 16 * 2 ^ 16 + w.cause.toNat * 4 + bit w.stopped * 2 + bit s.pins.coolOk),
   regRO s 0x30800 (x.attempts.toNat * 2 ^ 28 + bit x.running * 2 ^ 27 + x.b.state.toNat * 2 ^ 20 + x.a.state.toNat * 2 ^ 16),
   regRO s 0x30804 x.version.toNat,
   regRO s 0x30808 (x.secver.toNat * 2 ^ 8 + x.fuse),
   regRO s 0x3080C (bit s.licence.next.isSome * 2 ^ 31 + bit (s.licence.next.any fun n => n.1) * 2 ^ 30 + bit s.licence.full * 2 ^ 29 +
     s.licence.number.toNat % 2 ^ 24)]

/-- The register at an offset of the hinge register space. -/
def State.hingeReg (s : State) (off : Nat) : Option RegView :=
  if 0x40000 ≤ off then
    if off < 0x40000 + 0x40 * 96 then
      RegView.at_ (placed (off / 0x40 * 0x40) (s.plotRegs (BitVec.ofNat 7 ((off - 0x40000) / 0x40)))) off
    else none
  else if off < 0x30600 then RegView.at_ s.hingeSyncRegs off
  else RegView.at_ s.hingeClockRegs off

/-! ### Port registers (14) -/

/-- HG_NOTICE_CONS is written: one that would place CONS after PROD, by the wrapping indices, is dropped; room
lets held notices in (R413). -/
def Port.writeCons (p : Port) (v : Word) : Port :=
  if 0 < (v - p.prod).toInt then p.slotErr
  else Port.drainHeld 4096 { p with cons := v }

/-- The registers of a port. -/
def State.portRegs (s : State) (p : PortNo) : List RegView :=
  let x := s.port p
  let put (y : Port) : State := s.setPort p y
  [regRO s 0x000 (bit (s.isSteward p) * 2 ^ 8 + x.width.toNat * 2 ^ 4 + x.speed.toNat * 2 + p.toNat),
   regRO s 0x008 s.steward.reg.toNat,
   regRO s 0x010 x.prod.toNat,
   { base := 0x014, value := x.cons.setWidth 64, rw := lowMask, store := fun v => put (x.writeCons (v.setWidth 32)) },
   regRC 0x018 x.lost fun v => put { x with lost := v },
   { base := 0x020, value := (x.mbRo ++ x.mbBad ++ x.mbSlot).setWidth 64, rc := lowMask,
     store := fun v => put { x with
       mbRo := BitVec.ofNat 8 (bits v 31 24), mbBad := BitVec.ofNat 8 (bits v 23 16), mbSlot := BitVec.ofNat 16 (bits v 15 0) } },
   regRO s 0x024 s.lastSeq.toNat,
   { base := 0x028, value := (x.vpRo ++ x.vpAbort ++ x.vpDrop).setWidth 64, rc := lowMask,
     store := fun v => put { x with
       vpRo := BitVec.ofNat 12 (bits v 31 20), vpAbort := BitVec.ofNat 10 (bits v 19 10), vpDrop := BitVec.ofNat 10 (bits v 9 0) } }]

/-! ### Split accesses (R10) -/

/-- A register block: the registers of a port, of the hinge, or of a hub. -/
inductive RegBlock where
  | port (p : PortNo)
  | hinge
  | hub (f : FieldNo)
  deriving DecidableEq, Repr

/-- The register at an offset of a block. -/
def State.regAt (s : State) : RegBlock → Nat → Option RegView
  | .port p, off => RegView.at_ (s.portRegs p) off
  | .hinge, off => s.hingeReg off
  | .hub f, off => s.hubReg f off

/-- The key of a requester's accesses to a block. -/
def accKey (r : Requester) (b : RegBlock) : Nat :=
  let who := match r with
    | .port p => p.toNat
    | .ward => 2
    | .hub f => 4 + f.toNat
    | .cell c => 64 + c.toNat
  let what := match b with
    | .port p => p.toNat
    | .hinge => 2
    | .hub f => 4 + f.toNat
  who * 64 + what

def State.acc (s : State) (r : Requester) (b : RegBlock) : RegAcc := Store.get {} s.regAcc (accKey r b)
def State.setAcc (s : State) (r : Requester) (b : RegBlock) (x : RegAcc) : State :=
  { s with regAcc := Store.set {} s.regAcc (accKey r b) x }

/-- The held low half, where it is of this register. -/
def RegAcc.heldAt (x : RegAcc) (base : Nat) : Option (Nat × Word) := x.held.filter fun h => h.1 == base

/-- A 32-bit read, which clears RC fields where it may (R10). -/
def State.read32 (s : State) (r : Requester) (b : RegBlock) (off : Nat) (clears : Bool) : State × Word :=
  let x := s.acc r b
  match s.regAt b off with
  | none => (s.setAcc r b {}, 0)
  | some v =>
    let cleared (part : DWord) : State := if clears then v.clear part s else s
    if !v.wide then ((cleared lowMask).setAcc r b {}, v.shown.setWidth 32)
    else if v.base = off then
      ((cleared (lowMask ||| highMask)).setAcc r b ⟨some (off, v.shown.extractLsb' 32 32), x.heldAt v.base⟩, v.shown.setWidth 32)
    else match x.snap with
      | some (o, h) =>
        if o = v.base then (s.setAcc r b ⟨none, x.heldAt v.base⟩, h)
        else ((cleared highMask).setAcc r b ⟨none, x.heldAt v.base⟩, v.shown.extractLsb' 32 32)
      | none => ((cleared highMask).setAcc r b ⟨none, x.heldAt v.base⟩, v.shown.extractLsb' 32 32)

/-- A naturally aligned 64-bit read: one access to a 64-bit register, or two to its neighbours. -/
def State.read64 (s : State) (r : Requester) (b : RegBlock) (off : Nat) (clears : Bool) : State × DWord :=
  match s.regAt b off with
  | some v =>
    if v.wide then ((if clears then v.clear (lowMask ||| highMask) s else s).setAcc r b {}, v.shown)
    else
      let (s, lo) := s.read32 r b off clears
      let (s, hi) := s.read32 r b (off + 4) clears
      (s, hi ++ lo)
  | none =>
    let (s, lo) := s.read32 r b off clears
    let (s, hi) := s.read32 r b (off + 4) clears
    (s, hi ++ lo)

/-- A 32-bit write (R10). -/
def State.write32 (s : State) (r : Requester) (b : RegBlock) (off : Nat) (x : Word) : State :=
  let a := s.acc r b
  match s.regAt b off with
  | none => s.setAcc r b {}
  | some v =>
    if !v.wide then (v.write lowMask (x.setWidth 64)).setAcc r b {}
    else if v.base = off then s.setAcc r b ⟨none, some (off, x)⟩
    else match a.heldAt v.base with
      | some (_, lo) => (v.write (lowMask ||| highMask) (x ++ lo)).setAcc r b {}
      | none => (v.write highMask (x ++ (0 : Word))).setAcc r b {}

/-- A naturally aligned 64-bit write. -/
def State.write64 (s : State) (r : Requester) (b : RegBlock) (off : Nat) (x : DWord) : State :=
  match s.regAt b off with
  | some v =>
    if v.wide then (v.write (lowMask ||| highMask) x).setAcc r b {}
    else (s.write32 r b off (x.extractLsb' 0 32)).write32 r b (off + 4) (x.extractLsb' 32 32)
  | none => (s.write32 r b off (x.extractLsb' 0 32)).write32 r b (off + 4) (x.extractLsb' 32 32)

/-! ### BAR0 (R394 to R398) -/

/-- The status mirror (R398). -/
def State.mirror (s : State) : List Byte :=
  let head := leBytes 8 s.tick ++ leBytes 4 s.epoch.toNat ++ leBytes 4 s.steward.reg.toNat ++
    leBytes 1 (bit s.plan.isSome + 2 * bit s.unreachable + 4 * bit (s.bridge == 1))
  padBytes head 64 ++ (List.range 96).flatMap fun p =>
    leBytes 4 (((RegView.at_ (s.plotRegs (BitVec.ofNat 7 p)) 0).map fun r => r.value.toNat).getD 0)

/-- A word of the MSI-X table: address, data, and the mask bit of the vector (R394, R414). -/
def Port.msixWord (p : Port) (i : Nat) : Word :=
  if i % 4 = 3 then (if p.mask.getLsbD (i / 4) then 1 else 0) else Store.get 0 p.msix i

/-- A word of the MSI-X table is written; unmasking a vector that is pending signals it (R414). -/
def Port.msixWrite (p : Port) (i : Nat) (x : Word) : Port :=
  if i % 4 ≠ 3 then { p with msix := Store.set 0 p.msix i x }
  else
    let b : BitVec 64 := BitVec.ofNat 64 (2 ^ (i / 4))
    if x.getLsbD 0 then { p with mask := p.mask ||| b }
    else
      let p := { p with mask := p.mask &&& ~~~b }
      if p.pend.getLsbD (i / 4) then { p with pend := p.pend &&& ~~~b }.signal (i / 4) else p

/-- `n` bytes of the notice ring at an offset. -/
def Port.ringBytes (p : Port) (off n : Nat) : List Byte :=
  (List.range n).map fun i => ((Store.get [] p.ring ((off + i) / 64)).drop ((off + i) % 64)).headD 0

/-- A request to a slot or ring stays within 128 B (R395). -/
def within128 (off n : Nat) : Bool := off % 128 + n ≤ 128

/-- Regions of BAR0. -/
inductive Region where
  | regs (b : RegBlock) (off : Nat)
  | slots (off : Nat)
  | ring (off : Nat)
  | mirror (off : Nat)
  | msix (off : Nat)
  | pba (off : Nat)
  | none
  deriving DecidableEq, Repr

/-- The region of an offset; the regions of a port are those of the port that accesses them. -/
def regionOf (r : Requester) (off : Nat) : Region :=
  if 0x1000000 ≤ off then
    if off < 0x1300000 then .regs (.hub (BitVec.ofNat 6 ((off - 0x1000000) / 0x10000))) (off % 0x10000) else .none
  else if 0x100000 ≤ off then if off < 0x200000 then .regs .hinge (off - 0x100000) else .none
  else match r with
    | .port p =>
      if off < 0x1000 then .regs (.port p) off
      else if 0x10000 ≤ off && off < 0x20000 then .slots (off - 0x10000)
      else if 0x20000 ≤ off && off < 0x30000 then .ring (off - 0x20000)
      else if 0x30000 ≤ off && off < 0x31000 then .mirror (off - 0x30000)
      else if 0x40000 ≤ off && off < 0x40400 then .msix (off - 0x40000)
      else if 0x41000 ≤ off && off < 0x41008 then .pba (off - 0x41000)
      else .none
    | _ => .none

/-- The access is 4 B, or 8 B naturally aligned; in a slot or ring it only stays within 128 B (R395). -/
def sizeOk (g : Region) (off n : Nat) : Bool :=
  match g with
  | .slots _ => within128 off n
  | .ring _ => within128 off n
  | _ => off % n == 0

/-- Both halves of a double word. -/
def word64 (lo hi : Word) : DWord := hi ++ lo

/-- The space of a dark field, or of any field while the wafer is unreachable (R397). -/
def State.hubGone (s : State) : Region → Bool
  | .regs (.hub f) _ => (s.hub f).dark || s.unreachable
  | _ => false

/-- A port's RC reads clear where the region is its own, or where it is the steward's (R396). -/
def State.clearsRc (s : State) (r : Requester) : Region → Bool
  | .regs (.port _) _ => true
  | _ => match r with
    | .port p => s.isSteward p
    | _ => true

/-- A read in BAR0: none for a Completer Abort. -/
def State.barRead (s : State) (r : Requester) (off : Nat) (wide : Bool) : State × Option DWord :=
  let n := if wide then 8 else 4
  let g := regionOf r off
  let port (f : Port → Nat) : State × Option DWord := match r with
    | .port p => (s, some (BitVec.ofNat 64 (f (s.port p))))
    | _ => (s, some 0)
  if !sizeOk g off n then (s, none)
  else if s.hubGone g then
    match r with
    | .port p => (s.modPort p fun x => { x with vpAbort := satAdd x.vpAbort 1 }, none)
    | _ => (s, none)
  else match g with
    | .regs b o =>
      if wide then
        let (s, v) := s.read64 r b o (s.clearsRc r g)
        (s, some v)
      else
        let (s, v) := s.read32 r b o (s.clearsRc r g)
        (s, some (v.setWidth 64))
    | .slots o => port fun p => leNat (p.mbox.readBytes o n)
    | .ring o => port fun p => leNat (p.ringBytes o n)
    | .mirror o => (s, some (BitVec.ofNat 64 (leAt s.mirror o n)))
    | .msix o => port fun p => (word64 (p.msixWord (o / 4)) (if wide then p.msixWord (o / 4 + 1) else 0)).toNat
    | .pba o => port fun p => p.pend.toNat / 2 ^ (8 * o) % 2 ^ (8 * n)
    | .none => (s, some 0)

/-- A write into a mailbox slot of four bytes at an offset of the slots (R405). -/
def State.slotWrite (s : State) (p : PortNo) (o : Nat) (x : Word) : State :=
  let n : SlotNo := BitVec.ofNat 4 (o / 4096)
  let st := (s.port p).slotState n
  if o % 4096 = 0 then
    if x = 1 then s.slotPost p n else if x = 0 then s.slotFree p n else s.modPort p Port.slotErr
  else if o % 4096 < 4 || st = 1 || st = 2 then s.modPort p Port.slotErr
  else s.modPort p fun q => q.putSlot n (o % 4096) (leBytes 4 x.toNat)

/-- A write in BAR0 by a port. -/
def State.barWrite (s : State) (p : PortNo) (off : Nat) (x : Word) (y : Option Word) : State :=
  let n := if y.isSome then 8 else 4
  let g := regionOf (.port p) off
  let bad := s.modPort p fun q => { q with mbBad := satAdd q.mbBad 1 }
  let ro := s.modPort p fun q => { q with mbRo := satAdd q.mbRo 1 }
  if !sizeOk g off n then bad
  else match g with
    | .regs (.port q) o =>
      match y with
      | some h => s.write64 (.port p) (.port q) o (word64 x h)
      | none => s.write32 (.port p) (.port q) o x
    | .regs b o =>
      -- a write that is dropped is an access too (R10)
      if !s.isSteward p then ro.setAcc (.port p) b {}
      else if s.hubGone g then (s.modPort p fun q => { q with vpDrop := satAdd q.vpDrop 1 }).setAcc (.port p) b {}
      else
        let gate := match b with
          | .hub _ => gateSpace o
          | _ => false
        if gate then s.setAcc (.port p) b {}
        else match y with
          | some h => s.write64 (.port p) b o (word64 x h)
          | none => s.write32 (.port p) b o x
    | .slots o =>
      -- the bytes past CTRL come first, under the slot's state before the request
      match y with
      | some h => (s.slotWrite p (o + 4) h).slotWrite p o x
      | none => s.slotWrite p o x
    | .msix o =>
      s.modPort p fun q =>
        let q := q.msixWrite (o / 4) x
        match y with
        | some h => q.msixWrite (o / 4 + 1) h
        | none => q
    | .mirror _ => if s.isSteward p then s else ro
    | .ring _ => s
    | .pba _ => s
    | .none => s

/-- A write of a block by a requester that is no port: only the ward writes (R272, R396). -/
def State.innerWrite (s : State) (r : Requester) (off : Nat) (w : RegWrite) : State :=
  match r, regionOf r off with
  | .ward, .regs b o =>
    if s.hubGone (.regs b o) then s
    else match w with
      | .low v => s.write32 r b o v
      | .high v => s.write32 r b (o + 4) v
      | .full v => s.write64 r b o v
  | _, _ => s

/-- A register is written by a requester. -/
def State.registerWrite (s : State) (r : Requester) (off : Nat) (w : RegWrite) : State :=
  match r with
  | .port p =>
    match w with
    | .low v => s.barWrite p off v none
    | .high v => s.barWrite p (off + 4) v none
    | .full v => s.barWrite p off (v.extractLsb' 0 32) (some (v.extractLsb' 32 32))
  | _ => s.innerWrite r off w

/-! ### The commands -/

/-- REGISTER_READ at a BAR0 offset (R6, R10, R394 to R398). -/
def execRegisterRead (r : Requester) (offset : BitVec 26) (wide : Bool) (s : State) : Out :=
  let (s, v) := s.barRead r offset.toNat wide
  .next { s with regOut := v }

/-- REGISTER_WRITE at a BAR0 offset: its high half is the write at offset + 4 (R7, R10, R394 to R397). -/
def execRegisterWrite (r : Requester) (offset : BitVec 26) (w : RegWrite) (s : State) : Out :=
  .next (s.registerWrite r offset.toNat w)

/-- NOTICE_CONS_WRITE (R413). -/
def execNoticeConsWrite (p : PortNo) (v : Word) (s : State) : Out := .next (s.barWrite p 0x14 v none)

/-- HG_RANK_WR (R337). -/
def execHgRankWr (p : PortNo) (w : RegWrite) (s : State) : Out := .next (s.registerWrite (.port p) 0x130200 w)

/-- HG_ROUTE_WR (R338). -/
def execHgRouteWr (p : PortNo) (w : RegWrite) (s : State) : Out := .next (s.registerWrite (.port p) 0x130208 w)

/-- RANK_BROADCAST_DONE: every enabled mill holds the entry (R337). -/
def execRankBroadcastDone (s : State) : Out := .next { s with rankBusy := false }

/-- CK_SSC_WRITE (R477). -/
def execCkSscWrite (p : PortNo) (v : Word) (s : State) : Out := .next (s.barWrite p 0x130614 v none)

/-- CK_CLKMON_WRITE (R479). -/
def execCkClkmonWrite (p : PortNo) (v : Word) (s : State) : Out := .next (s.barWrite p 0x130618 v none)

/-- Words of a payload are written to consecutive registers of a hub, each as a 32-bit access of the ward (R10). -/
def State.hubPut (s : State) (f : FieldNo) : Nat → List Byte → Nat → State
  | 0, _, _ => s
  | fuel + 1, l, off =>
    if l.length < 4 then s
    else
      (s.write32 .ward (.hub f) off (BitVec.ofNat 32 (leAt l 0 4))).hubPut f fuel (l.drop 4) (off + 4)

/-- HUB_REGISTER_WRITE: CONTROL subtype 0x02 (R420). -/
def execHubRegisterWrite (src : Endpoint) (f : FieldNo) (offset : BitVec 16) (payload : List Byte) (s : State) : Out :=
  .next (s.control src f 0x02 (offset.setWidth 32) payload fun s => s.hubPut f payload.length payload offset.toNat)

end Sys2Proof.Machine
end

