-- ==== Sys2Proof/Machine/Ports.lean ====
section
/-! DEFINITION. BAR2 viewports, and the links and resets of the PCIe ports (R25, R181, R307, R399 to R403, R415,
R417, R525). -/

namespace Sys2Proof.Machine

/-! ### Configuration space (R392, R393) -/

/-- The identity of a port's one function. -/
structure PciIdentity where
  vendor       : Nat := 0x1FB3
  device       : Nat := 0x4830
  classCode    : Nat := 0x120000
  subVendor    : Nat := 0x1FB3
  subsystem    : Nat
  serial       : DWord
  msixVectors  : Nat := 64
  maxPayload   : Nat := 512
  maxReadReq   : Nat := 4096
  /-- BAR0 and BAR2: bytes, and prefetchable -/
  bar0         : Nat × Bool := (2 ^ 26, false)
  bar2         : Nat × Bool := (2 ^ 36, true)
  deriving DecidableEq, Repr

/-- The identity that each port presents: the subsystem follows the variant in force (R1, R514). -/
def State.pciIdentity (s : State) : PciIdentity := { subsystem := if s.licence.full then 2 else 1, serial := s.serial }

/-! ### BAR2 (R399 to R401) -/

/-- A packet's walk over the links that are UP: whether it reaches its endpoint. -/
def State.walks (s : State) : Nat → Packet → Bool
  | 0, _ => false
  | fuel + 1, p =>
    match s.hop p with
    | .move d => s.walks fuel (movedTo p d)
    | .eject => true
    | _ => false

/-- The hinge reaches an endpoint through its bridge: the route meets no dark field, blocked hole or DOWN link
(R400). -/
def State.hingeReaches (s : State) (e : Endpoint) : Bool :=
  let t := { s with net := [] }
  let body : Body := .readReq 0 64 0
  let sent := match e with
    | .hub f u _ => t.unitSend s.hingeField 20 f u body
    | .cell _ => t.hubSend s.hingeField 20 e body
  s.bridge != 2 && !s.dormant && (s.hub s.hingeField).powered &&
    sent.net.all fun p => p.ejected || t.walks 2048 p

/-- Where a piece of a BAR2 request lies. -/
inductive ViewPlace where
  | gran (a : Nat)
  | loft (c : CellId) (a : Nat)
  deriving DecidableEq, Repr

/-- The place of a viewport offset: none where R400 completes a read with Completer Abort. -/
def State.viewPlace (s : State) (v : View) (o : Nat) (write : Bool) : State × Option ViewPlace :=
  if v.kind = 1 then
    let a := v.base.toNat + o
    if 2 ^ 42 ≤ a then (s, none)
    else
      let (s, x) := s.hingeTranslate a write
      match x with
      | .phys x =>
        let k := physStack x
        (s, if s.hingeReaches (.hub (stackField k) (stackUnit k) 0) then some (.gran x) else none)
      | _ => (s, none)
  else
    let q := s.plot v.plot
    let i := o / 2 ^ 21
    let px := v.px0 + i % v.width
    let py := v.py0 + i / v.width
    let c := q.cellAt px py
    if !q.holds || q.width.toNat ≤ px || q.height.toNat ≤ py || s.isHole c || (s.cell c).lockedOut || !s.hingeReaches (.cell c) then
      (s, none)
    else (s, some (.loft c (o % 2 ^ 21)))

/-- The pieces of a request in one viewport: none where a piece has no place. -/
def State.viewPieces (s : State) (v : View) (write : Bool) : List (Nat × Nat) → State × Option (List (ViewPlace × Nat))
  | [] => (s, some [])
  | (o, n) :: l =>
    match s.viewPlace v o write with
    | (s, none) => (s, none)
    | (s, some x) =>
      match s.viewPieces v write l with
      | (s, some r) => (s, some ((x, n) :: r))
      | (s, none) => (s, none)

/-- The bytes of the pieces: none where one is uncorrectable. -/
def State.viewRead (s : State) : List (ViewPlace × Nat) → State × Option (List Byte)
  | [] => (s, some [])
  | (x, n) :: l =>
    let (s, bytes, bad) := match x with
      | .gran a => s.granRead a n 5
      | .loft c a => s.loftRead c a n 2
    if bad then (s, none)
    else match s.viewRead l with
      | (s, some r) => (s, some (bytes ++ r))
      | (s, none) => (s, none)

/-- Bytes land in the pieces. -/
def State.viewWrite (s : State) : List (ViewPlace × Nat) → List Byte → State
  | [], _ => s
  | (x, n) :: l, bytes =>
    let s := match x with
      | .gran a => s.granWrite a (bytes.take n)
      | .loft c a => s.loftPut c a (bytes.take n)
    s.viewWrite l (bytes.drop n)

/-- The runs of a request between multiples of 2^21. -/
def viewRuns (o n : Nat) : List (Nat × Nat) := pageRuns (n / 2 ^ 21 + 2) o n

/-- What a BAR2 read completes with: none for a Completer Abort. -/
def State.viewportRead (s : State) (p : PortNo) (o n : Nat) : State × Option (List Byte) :=
  match Store.find? (s.port p).views (o / 2 ^ 32) with
  | none => (s, none)
  | some v =>
    match s.viewPieces v false (viewRuns (o % 2 ^ 32) n) with
    | (s, none) => (s, none)
    | (s, some l) => s.viewRead l

/-- The hinge switches to its standby bridge (R25). -/
def State.switching (s : State) : Bool := s.switchEnd.any fun t => decide (s.tick < t)

/-- BAR2_READ (R400); one that the switch of the bridge overtakes ends in Completer Abort (R25). -/
def execBar2Read (p : PortNo) (offset : BitVec 36) (len : BitVec 13) (s : State) : Out :=
  match if s.switching then (s, none) else s.viewportRead p offset.toNat len.toNat with
  | (s, some l) => .next (s.modPort p fun x => { x with lastRead := some l })
  | (s, none) => .next (s.modPort p fun x => { x with lastRead := none, vpAbort := satAdd x.vpAbort 1 })

/-- What a BAR2 write of the steward's port leaves: none where it is dropped. -/
def State.viewportWrite (s : State) (p : PortNo) (o : Nat) (l : List Byte) : State × Option State :=
  match Store.find? (s.port p).views (o / 2 ^ 32) with
  | none => (s, none)
  | some v =>
    match s.viewPieces v true (viewRuns (o % 2 ^ 32) l.length) with
    | (s, none) => (s, none)
    | (s, some ps) => (s, some (s.viewWrite ps l))

/-- BAR2_WRITE (R401); one that the switch of the bridge overtakes is dropped and counted in HG_BRIDGE (R25). -/
def execBar2Write (p : PortNo) (offset : BitVec 36) (bytes : List Byte) (s : State) : Out :=
  if !s.isSteward p then .next (s.modPort p fun x => { x with vpRo := satAdd x.vpRo 1 })
  else if s.switching then .next { s with bridgeDrop := satAdd s.bridgeDrop 1 }
  else match s.viewportWrite p offset.toNat bytes with
    | (_, some t) => .next t
    | (s, none) => .next (s.modPort p fun x => { x with vpDrop := satAdd x.vpDrop 1 })

/-! ### Links and resets of a port (R403, R415, R525) -/

/-- A wain has packets that are not complete to a host window of a port. -/
def State.usesPort (s : State) (p : PortNo) (w : Wain) : Bool :=
  let ours (t : Target) : Bool := match t with
    | .host n => (Store.find? s.windows n.toNat).any fun x => x.port == p
    | _ => false
  w.packets.any fun (q : WPacket) =>
    (!q.done && ours q.tgt) || (q.reads.any fun r => ours r.2.tgt) || q.todo.any fun x => ours x.tgt

/-- Packets to the windows of a port end with HOSTWIN: their wains stop (R306, R403). -/
def State.failHost (s : State) (p : PortNo) : State :=
  let ks := (s.wains.filter fun (e : Nat × Wain) => s.usesPort p e.2).map fun (e : Nat × Wain) => e.1
  ks.foldl (fun s k => s.wainError k 9) s

/-- The windows of a port are deleted under R307: one that packets use stays until they are complete. -/
def State.dropWindows (s : State) (p : PortNo) : State :=
  { s with windows := s.windows.filterMap fun (e : Nat × Window) =>
      if e.2.port != p then some e
      else if s.windowBusy (BitVec.ofNat 6 e.1) then some (e.1, ({ e.2 with closing := true } : Window))
      else none }

/-- What a function reset leaves of a port (R413, R415): class F fields at their reset values, slots FREE, the
ring empty, viewports OFF. The link stays as it is, while WIDTH and SPEED of HG_PORT_ID read 0 until it trains anew. -/
def Port.fresh (x : Port) : Port :=
  { linkUp := x.linkUp, perst := x.perst, bme := x.bme, msix := [] }

/-- A port's function is reset (R415). -/
def State.portReset (s : State) (p : PortNo) : State :=
  let s := { s.modPort p Port.fresh with
    mail := s.mail.filter fun (x : PortNo × SlotNo) => x.1 != p
    running := s.running.map fun (r : Running) => if r.port = p then { r with live := false } else r
    forced := s.forced.map fun (x : Forced) => if x.port = p then { x with live := false } else x
    dump := s.dump.map fun (x : Dump) => if x.port = p then { x with live := false } else x }
  s.dropWindows p

/-- PORT_RESET (R415). -/
def execPortReset (p : PortNo) (s : State) : Out := .next (s.portReset p)

/-- PERST_ASSERT: the link goes down and the function is reset (R525). -/
def execPerstAssert (p : PortNo) (s : State) : Out :=
  let s := s.failHost p
  .next ((s.modPort p fun x => { x with linkUp := false, perst := true, width := 0, speed := 0, bme := false }).portReset p)

/-- PERST_DEASSERT: the port may train (R525). -/
def execPerstDeassert (p : PortNo) (s : State) : Out := .next (s.modPort p fun x => { x with perst := false })

/-- PCIE_LINK_DOWN: wain packets to the port's windows fail; the stewardship and the job go on (R403, R417). -/
def execPcieLinkDown (p : PortNo) (s : State) : Out :=
  .next ((s.failHost p).modPort p fun x => { x with linkUp := false })

/-- PCIE_LINK_UP with the negotiated width and speed (R391). -/
def execPcieLinkUp (p : PortNo) (width : BitVec 4) (speed : BitVec 3) (s : State) : Out :=
  if (s.port p).perst || !([1, 2, 4, 8] : List Nat).contains width.toNat || speed = 0 || speed = 7 then .next s
  else .next (s.modPort p fun x => { x with linkUp := true, width := width, speed := speed, bme := true })

end Sys2Proof.Machine
end

