-- ==== Sys2Proof/Machine/Firmware.lean ====
section
/-! DEFINITION. Firmware images and slots, licences, and attestation (R1, R500 to R516). -/

namespace Sys2Proof.Machine

/-! ### SHA-256 (R503, R516), as FIPS 180-4 gives it -/

/-- The primes below 312: the standard's constants come from the first 64. -/
def primes : List Nat := (List.range 312).filter fun n => 1 < n && (List.range n).all fun d => d < 2 || n % d != 0

/-- The greatest number of 36 bits whose power `k` does not pass `n`. -/
def rootOf (k n : Nat) : Nat :=
  (List.range 36).foldr (fun i x => if (x + 2 ^ i) ^ k ≤ n then x + 2 ^ i else x) 0

/-- The first 32 fractional bits of the root `k` of a prime. -/
def rootBits (k p : Nat) : Word := BitVec.ofNat 32 (rootOf k (p * 2 ^ (32 * k)))

/-- A word of a list, 0 past its end. -/
def wordAt (l : List Word) (i : Nat) : Word := (l[i]?).getD 0

/-- The sum modulo 2 of a word's rotations to the right, with a last word. -/
def turned (x last : Word) (turns : List Nat) : Word := turns.foldl (fun y n => y ^^^ x.rotateRight n) last

/-- The message schedule: a window of 16 words that moves on by one, as the list of its first words. -/
def schedule : Nat → List Word → List Word
  | 0, _ => []
  | n + 1, w =>
    let x := wordAt w 1
    let y := wordAt w 14
    wordAt w 0 :: schedule n (w.drop 1 ++ [[wordAt w 0, wordAt w 9, turned x (x >>> 3) [7, 18], turned y (y >>> 10) [17, 19]].sum])

/-- One round on the eight working variables, with its constant and word added. -/
def hashRound (v : List Word) (kw : Word) : List Word :=
  let x := wordAt v 4
  let y := wordAt v 0
  let pick := wordAt v 6 ^^^ (x &&& (wordAt v 5 ^^^ wordAt v 6))
  let most := (y &&& (wordAt v 1 ||| wordAt v 2)) ||| (wordAt v 1 &&& wordAt v 2)
  let t := [kw, wordAt v 7, turned x 0 [6, 11, 25], pick].sum
  (t + turned y 0 [2, 13, 22] + most) :: v.take 3 ++ (wordAt v 3 + t) :: (v.drop 4).take 3

/-- The hash after one block. -/
def hashBlock (h block : List Word) : List Word :=
  let kws := (primes.zip (schedule 64 block)).map fun x => rootBits 3 x.1 + x.2
  (h.zip (kws.foldl hashRound h)).map fun x => x.1 + x.2

/-- A number of four bytes, most significant first. -/
def beWord (l : List Byte) : Word := l.foldl (fun x b => x * 256 + b.setWidth 32) 0

/-- Bytes as blocks of 16 words. -/
def blocks512 : Nat → List Byte → List (List Word)
  | 0, _ => []
  | fuel + 1, l =>
    if l.isEmpty then []
    else ((List.range 16).map fun i => beWord ((l.drop (4 * i)).take 4)) :: blocks512 fuel (l.drop 64)

/-- The digest of a list of bytes, as 32 bytes in the standard's order. -/
def sha256 (l : List Byte) : List Byte :=
  let zeros := (119 - l.length % 64) % 64
  let m := l ++ [0x80] ++ List.replicate zeros 0 ++ (leBytes 8 (8 * l.length)).reverse
  ((blocks512 (m.length / 64) m).foldl hashBlock ((primes.take 8).map (rootBits 2))).flatMap fun w => (leBytes 4 w.toNat).reverse

/-! ### Images (R501 to R503) -/

/-- The block count B, and the length of an image. -/
def imageBlocks (l : List Byte) : Nat := leAt l 6 2
def imageSize (l : List Byte) : Nat := 256 + 65536 * imageBlocks l + 384
/-- The security version. -/
def imageSec (l : List Byte) : Nat := leAt l 16 1
/-- CL_LIBVER of the library that an image brings. -/
def imageLibver (l : List Byte) : Word := BitVec.ofNat 32 (leAt l 20 1 * 2 ^ 24 + leAt l 18 2)

/-- Check 1 of R506: the header and the length. -/
def imageFormatOk (l : List Byte) : Bool :=
  let b := imageBlocks l
  l.length == imageSize l && 1 ≤ b && b ≤ 4095 && leAt l 0 4 == 0x4D574653 && leAt l 4 2 == 1 && leAt l 8 4 ≤ 65512 * b &&
    65512 * (b - 1) < leAt l 8 4 && imageSec l ≤ 64 && ((l.drop 21).take 3).all (· == 0) && ((l.drop 32).take 224).all (· == 0)

/-- Check 3: block n holds its index and the CRC of what comes before it (R502). -/
def blockOk (l : List Byte) (n : Nat) : Bool :=
  let b := (l.drop (256 + 65536 * n)).take 65536
  leAt b 65528 4 == n && leAt b 65532 4 == (crc32c (b.take 65532)).toNat

/-- The digest that the signature covers. -/
def imageDigest (l : List Byte) : List Byte := sha256 (l.take (256 + 65536 * imageBlocks l))

/-- The checks of FW_STAGE in order: the SECURITY detail of the first that fails (R506). -/
def imageBad (fuse : Nat) (l : List Byte) : Option Nat :=
  if !imageFormatOk l then some 5
  else if imageSec l < fuse then some 2
  else if !(List.range (imageBlocks l)).all (blockOk l) then some 4
  else if !Config.imageSigned l then some 1
  else if !Config.imageTagsOk l then some 3
  else none

/-! ### Slots (R504, R505) -/

def Firmware.slot (x : Firmware) (b : Bool) : FwSlot := if b then x.b else x.a
def Firmware.setSlot (x : Firmware) (b : Bool) (v : FwSlot) : Firmware := if b then { x with b := v } else { x with a := v }
/-- A slot's state is marked. -/
def Firmware.mark (x : Firmware) (b : Bool) (state : BitVec 3) : Firmware := x.setSlot b { x.slot b with state := state }

/-- Steps 1 and 2 of R505: the counter rises to the CONFIRMED image, and older images are RETIRED. -/
def Firmware.raise (x : Firmware) : Firmware :=
  let fuse := [false, true].foldl (fun n b => if (x.slot b).state = 5 then max n (imageSec (x.slot b).image) else n) x.fuse
  let retire (x : Firmware) (b : Bool) : Firmware :=
    let v := x.slot b
    if [2, 3, 4, 5].contains v.state.toNat && imageSec v.image < fuse then x.mark b 7 else x
  [false, true].foldl retire { x with fuse := fuse }

/-- Step 3: the TRIAL slot, else the CONFIRMED one; after a rejection, else the STAGED one. -/
def Firmware.pick (x : Firmware) (fell : Bool) : Option Bool :=
  let find (state : BitVec 3) : Option Bool := [false, true].find? fun b => (x.slot b).state == state
  find 4 <|> find 5 <|> if fell then find 2 else none

/-- Steps 3 to 5: the firmware with the slot that starts; false where none can. -/
def Firmware.start : Nat → Bool → Firmware → Firmware × Bool
  | 0, _, x => (x, false)
  | fuel + 1, fell, x =>
    match x.pick fell with
    | none => (x, false)
    | some b =>
      let v := x.slot b
      let trial := v.state == 4
      if (trial && x.attempts == 3) || !(Config.imageSigned v.image && Config.imageTagsOk v.image) then
        Firmware.start fuel true (x.mark b 6)
      else
        ({ x with
          running := b
          attempts := if trial then x.attempts + 1 else x.attempts
          version := BitVec.ofNat 32 (leAt v.image 12 4)
          secver := BitVec.ofNat 7 (imageSec v.image) }, true)

/-- A PENDING slot becomes TRIAL (R507). -/
def Firmware.promote (x : Firmware) : Firmware :=
  match [false, true].find? fun b => (x.slot b).state == 3 with
  | some b => { x.mark b 4 with attempts := 0 }
  | none => x

/-- The ward starts (R505), or the ROM serves on its own with ERR FW (R424). -/
def State.wardStart (s : State) : State :=
  let (x, ok) := s.fw.raise.start 3 false
  let s := { s with fw := { x with activate := none } }
  let lib : Store Word14 := (Config.imageLibrary (x.slot x.running).image).foldl
    (fun (m : Store Word14) (e : Nat × Word14) => Store.set 0 m e.1 e.2) []
  if !ok then { s with boot := { s.boot with stage := 2, err := 1, done := 1 } }
  else if s.boot.done < 2 then { s with library := lib, boot := { s.boot with err := 0, done := 2, stage := 3 } }
  else { s with library := lib }

/-- The library of the running image is broadcast (R58). -/
def State.broadcastLibrary (s : State) : State :=
  { s.libraryBroadcast with libver := imageLibver (s.fw.slot s.fw.running).image }

/-- WARD_FIRMWARE_START: stage 2 (R421, R424, R505, R507). -/
def execWardFirmwareStart (s : State) : Out :=
  if s.boot.done ≠ 1 then .next s else .next { s with fw := s.fw.promote }.wardStart

/-! ### FW_STAGE, FW_ACTIVATE, FW_CONFIRM (R506 to R508) -/

/-- A staging that did not finish leaves its slot EMPTY (R504, R510). -/
def Firmware.unstage (x : Firmware) : Firmware :=
  [false, true].foldl (fun x b => if (x.slot b).state = 1 then x.setSlot b {} else x) x

/-- Steps 2 to 5 of FW_STAGE: the whole image is read and checked, and the slot holds it STAGED, or is EMPTY. -/
def State.stageImage (s : State) (a : DWord) (len : Nat) : State × Answer :=
  let put (s : State) (v : FwSlot) : State := { s with fw := s.fw.setSlot (!s.fw.running) v }
  match s.copyIn a len with
  | (s, none) => (put s {}, badField 0)
  | (s, some img) =>
    match imageBad s.fw.fuse img with
    | some d => (put s {}, refuse stSecurity d)
    | none => (put s ⟨2, img⟩, okWith [])

/-- FW_STAGE (R506): step 1 marks the slot STAGING; the command given again stands for the end of the transfer. -/
def execFwStage (p : PortNo) (n : SlotNo) (s : State) : Out :=
  match s.runningIn p n with
  | some ⟨_, _, _, l, _, .stage⟩ =>
    let (t, ans) := s.stageImage (BitVec.ofNat 64 (leAt l 0 8)) (leAt l 8 4)
    .next (t.finish ans)
  | _ =>
    .next (s.carry p n 0x50 anyRow fun s l =>
      let a : DWord := BitVec.ofNat 64 (leAt l 0 8)
      let other := !s.fw.running
      let x := (s.fw.slot other).state
      if x = 4 || x = 3 || (s.fw.slot s.fw.running).state = 4 then answered s (refuse stState 0xFFFF)
      else if !(space a == 1 || space a == 2) || rsvdAddr a then answered s (badField 0)
      else ({ s with fw := s.fw.setSlot other ⟨1, []⟩ }, .wait .stage))

/-- FW_ACTIVATE (R507). -/
def execFwActivate (p : PortNo) (n : SlotNo) (s : State) : Out :=
  .next (s.carry p n 0x51 anyRow fun s l =>
    let mode := leAt l 0 1
    let other := !s.fw.running
    let x := (s.fw.slot other).state
    if 2 ≤ mode then answered s (badField 0)
    else if x != 2 && x != 3 then answered s (refuse stState 0xFFFF)
    else if mode = 0 then answered { s with fw := { s.fw with activate := some (s.tick + 1000000) } } (okWith [])
    else answered { s with fw := s.fw.mark other 3 } (okWith []))

/-- FW_CONFIRM (R508). -/
def execFwConfirm (p : PortNo) (n : SlotNo) (s : State) : Out :=
  .next (s.carry p n 0x52 anyRow fun s _ =>
    let b := s.fw.running
    if (s.fw.slot b).state ≠ 4 then answered s (refuse stState 0xFFFF)
    else
      let x := (s.fw.mark b 5).mark (!b) 2
      let x := { x with fuse := max x.fuse (imageSec (x.slot b).image) }
      let x := if imageSec (x.slot (!b)).image < x.fuse then x.mark (!b) 7 else x
      answered { s with fw := x } (okWith []))

/-! ### Licences (R511 to R514) -/

/-- The number of the last licence accepted. -/
def Licence.lastNumber (x : Licence) : Nat := if x.last.isEmpty then x.number.toNat else leAt x.last 16 4

/-- The format of a licence record (R511, R512). -/
def licenceFormatOk (l : List Byte) : Bool :=
  let v := leAt l 20 1
  leAt l 0 4 == 0x4543494C && leAt l 4 2 == 1 && leAt l 6 2 == 448 && v ≤ 1 && leAt l 21 1 == (if v = 1 then 3 else 2) &&
    leAt l 22 2 == 0 && ((l.drop 28).take 36).all (· == 0)

/-- LICENCE_INSTALL (R512). -/
def execLicenceInstall (p : PortNo) (n : SlotNo) (s : State) : Out :=
  .next (s.carry p n 0x53 anyRow fun s l =>
    let x := s.licence
    let k := leAt l 16 4
    if !Config.licenceSigned l then answered s (refuse stSecurity 1)
    else if !licenceFormatOk l then answered s (refuse stSecurity 5)
    else if leAt l 8 8 ≠ s.serial.toNat then answered s (refuse stSecurity 6)
    else if l = x.last then answered s (okWith [])
    else if k < x.lastNumber || (!x.last.isEmpty && k == x.lastNumber) then answered s (refuse stSecurity 7)
    else answered { s with licence := { x with next := some (leAt l 20 1 == 1, BitVec.ofNat 32 k), last := l } } (okWith []))

/-- A Base licence enables a mill: the even one of its pair unless fuses mark it bad, and then the odd one (R513). -/
def State.baseMill (s : State) (m : Nat) : Bool :=
  let bad (i : Nat) : Bool := (s.mill (BitVec.ofNat 5 i)).bad
  if m % 2 = 0 then !bad m else bad (m - 1) && !bad m

/-- The same for a stack; a FAILED one counts as bad. -/
def State.baseStack (s : State) (k : Nat) : Bool :=
  let bad (i : Nat) : Bool := (s.stack i).bad || (s.stack i).state == .failed
  if k % 2 = 0 then !bad k else bad (k - 1) && !bad k

/-- A mill joins or leaves the licence (R514). -/
def State.licenceMill (s : State) (m : MillNo) (on : Bool) : State :=
  let was := (s.mill m).licensed
  if was = on then s
  else if on then (s.modMill m fun v => { v with licensed := true }).millEnable m
  else
    let names (e : Word) : Bool := e.msb && (routeMills e).contains m
    let s := { s with routes := s.routes.filterMap fun (e : Nat × Word) =>
      if (names e.2 : Bool) then (if e.2 &&& 0x7FFFFFFF = 0 then none else some (e.1, e.2 &&& 0x7FFFFFFF)) else some e }
    (s.millDisable m 5).modMill m fun v => { v with licensed := false }

/-- A stack joins or leaves the licence: one that joins is ACTIVE at the end of the reset (R514). -/
def State.licenceStack (s : State) (k : Nat) (on : Bool) : State :=
  let x := s.stack k
  if on then
    if x.state = .unlicensed then
      -- the ward writes the map copy of R301 into its ward area
      let from_ := (List.range 16).find? fun j => (s.stack j).state == .active || (s.stack j).state == .selfref
      let others := s.gmap.filter fun (e : Nat × DWord) => e.1 / 2 ^ 21 != k
      let copy := match from_ with
        | some j => s.gmap.filter fun (e : Nat × DWord) => e.1 / 2 ^ 21 == j
        | none => []
      { s.setStack k { x with state := .selfref } with
        gmap := copy.foldl (fun (m : Store DWord) (e : Nat × DWord) => Store.insert m (copyKey k (e.1 % 2 ^ 21)) e.2) others
        granErr := s.granErr.filter fun (e : Nat × Nat) =>
          decide (e.1 * 64 < copyAddr k 0) || decide (copyAddr k (2 ^ 21) ≤ e.1 * 64) }
    else s
  else if x.state = .unlicensed || x.state = .failed then s
  else
    let names (e : DWord) : Bool := e.msb && physStack (entryPhys e 0) == k
    { s.setStack k { x with state := .unlicensed } with
      gmap := s.gmap.filterMap fun (e : Nat × DWord) =>
        if (names e.2 : Bool) then (if e.2 &&& 0x7FFFFFFFFFFFFFFF = 0 then none else some (e.1, e.2 &&& 0x7FFFFFFFFFFFFFFF)) else some e }

/-- The selection of units under the variant in force (R513). -/
def State.selectUnits (s : State) : State :=
  let s' := (List.range 32).foldl (fun t m => t.licenceMill (BitVec.ofNat 5 m) (s.licence.full || s.baseMill m)) s
  (List.range 16).foldl (fun t k => t.licenceStack k (s.licence.full || s.baseStack k)) s'

/-- The licence installed last takes effect; a change of variant selects units (R1, R513, R514). -/
def State.takeLicence (s : State) : State :=
  match s.licence.next with
  | none => s
  | some (v, n) =>
    let was := s.licence.full
    let s := { s with licence := { s.licence with full := v, number := n, next := none } }
    if v = was then s else s.selectUnits

/-! ### Attestation (R516) -/

/-- Bytes 0 to 639 of the report. -/
def State.report (s : State) (p : PortNo) (nonce : List Byte) : List Byte :=
  let x := s.fw
  let img := (x.slot x.running).image
  let cert := Config.certificate.take 2048
  padBytes (leBytes 4 0x54535441 ++ leBytes 2 1 ++ leBytes 2 cert.length ++ leBytes 8 s.serial.toNat ++ padBytes nonce 32 ++
    leBytes 4 x.version.toNat ++
    leBytes 1 ((if x.running then 1 else 0) + (x.slot x.running).state.toNat * 2 + (x.slot (!x.running)).state.toNat * 16) ++
    leBytes 1 x.secver.toNat ++ leBytes 1 x.fuse ++
    leBytes 1 ((if s.licence.full then 1 else 0) + (if s.licence.next.isSome then 128 else 0)) ++
    leBytes 4 s.licence.number.toNat ++ leBytes 4 s.libver.toNat ++ imageDigest img ++
    (leBytes 32 Config.romDigest.toNat).reverse ++ leBytes 4 s.epoch.toNat ++ leBytes 8 s.tick ++ leBytes 1 p.toNat) 640

/-- ATTEST (R516). -/
def execAttest (p : PortNo) (n : SlotNo) (s : State) : Out :=
  .next (s.carry p n 0x54 anyRow fun s l =>
    let r := s.report p l
    answered s (okWith (r ++ padBytes (Config.identitySign r) 384 ++ Config.certificate.take 2048)))

end Sys2Proof.Machine
end

