-- ==== Sys2Proof/Machine/Boot.lean ====
section
/-! DEFINITION. Bring-up stage by stage, the resets, and the dormant state (R58, R299, R416, R421 to R444,
R454, R507, R527). -/

namespace Sys2Proof.Machine

/-! ### Stages (R421) -/

/-- A stage has ended, and the next begins. -/
def State.stageEnds (s : State) (k : Nat) : State :=
  { s with boot := { s.boot with done := k, stage := BitVec.ofNat 4 (k + 1) } }

/-- Bring-up stands after stage k, and no stop holds it (R444, R493). -/
def State.after (s : State) (k : Nat) : Bool := s.boot.done == k && !s.power.stopped

/-- A WARD notice with the firmware version (R413). -/
def State.wardNotice (s : State) : State := s.notice 6 4 (padBytes (leBytes 4 s.fw.version.toNat) 48)

/-- The stacks that serve again leave SELFREF (R299). -/
def State.stacksServe (s : State) : State :=
  (List.range 16).foldl (fun s k =>
    let h := s.hub (stackField k)
    if (s.stack k).state = .selfref && h.powered && !h.dark then s.setStack k { s.stack k with state := .active } else s) s

/-- Stage 4 begins: it waits for COOL_OK (R424). -/
def State.powerStage (s : State) : State :=
  let ok := s.pins.coolOk
  let err : BitVec 4 := if ok then 0 else 3
  { s with tripped := [], boot := { s.boot with stage := 4, done := 3, nextField := 0, err := err, coolWait := !ok } }

/-- COLD_BRINGUP: stage 1 (R421, R440). The map in force is the stored one until stage 7. -/
def execColdBringup (s : State) : Out :=
  if s.pins.input then .next s
  else
    let lic := match s.licence.next with
      | some (v, n) => { s.licence with full := v, number := n, next := none }
      | none => s.licence
    .next { s with
      pins := { s.pins with input := true }
      boot := { stage := 2, done := 1, doing := 1 }
      map := s.flashMap
      epoch := s.flashEpoch
      licence := lic }

/-- The field loop of a powered field locks. -/
def State.fieldLocks (s : State) (f : FieldNo) : State :=
  let s := s.modHub f fun h => { h with powered := true, clkStop := false }
  { s with clocks := { s.clocks with lock := s.clocks.lock ||| BitVec.ofNat 63 (2 ^ f.toNat) } }

/-- A field that stays unpowered: its entry is in the ledger without a revival, or, on the fast path, it is dark
(R429, R432, R460). -/
def State.staysDark (s : State) (f : FieldNo) : Bool :=
  if s.boot.fast then (s.hub f).dark || s.fieldEntry f
  else s.ledger.any fun e => e.names f.toNat 0xFF 0xFF && !e.revive

/-- FIELD_POWER_UP: stage 4 takes the next field, with its peak currents as the switch closes (R421, R444, R494). -/
def execFieldPowerUp (f : FieldNo) (vcell vloft : BitVec 16) (s : State) : Out :=
  if !s.after 3 || s.boot.coolWait || f.toNat ≠ s.boot.nextField then .next s
  else
    let s := if s.staysDark f then (if (s.hub f).dark then s else s.fieldDark f)
      else
        let s := s.fieldLocks f
        if (s.hub f).power.tripped vcell.toNat vloft.toNat = 0 then s else s.fieldTrips f vcell vloft
    let s := { s with boot := { s.boot with nextField := s.boot.nextField + 1 } }
    .next (if f.toNat = 47 then s.stageEnds 4 else s).refreshAlert

/-! ### Stage 5 (R422) -/

/-- The cell that owns a link: the northern one, or the western one (R21, R422). -/
def linkOwner (c : CellId) (d : Nat) : CellId :=
  match d with
  | 0 => (neighbour c 0).getD c
  | 3 => (neighbour c 3).getD c
  | _ => c

/-- A stitch crossing that trains at stage 5. -/
def State.crossing (s : State) (c : CellId) (d : Nat) : Bool :=
  cellIdOk c && isStitch c d && s.endsOk c d && !s.linksOut.contains (linkName c d)

/-- A stitch crossing fails to reach UP: a router failure of its owner. -/
def State.crossingFails (s : State) (c : CellId) (d : Nat) : State :=
  let o := linkOwner c d
  let s := s.setLink c d .down
  { s with failLink := s.failLink ++ [physKey (fieldOf o).toNat (rowIn o) (s.physCol o)] }

/-- A stack that fails to train loses its contents (R299). -/
def State.stackFails (s : State) (k : Nat) : State :=
  { s.setStack k { s.stack k with state := .failed } with
    granary := s.granary.filter fun (e : Nat × Byte) => e.1 / 2 ^ 38 != k
    granErr := s.granErr.filter fun (e : Nat × Nat) => e.1 * 64 / 2 ^ 38 != k
    gmap := s.gmap.filter fun (e : Nat × DWord) => e.1 / 2 ^ 21 != k }

/-- A stack at stage 5: the stacks of a dark field stay in SELFREF, and a warm start serves from stage 9 on. -/
def State.stackTrains (s : State) (failed : List StackNo) (k : Nat) : State :=
  let x := s.stack k
  if (s.hub (stackField k)).dark then (if x.state = .off then s.setStack k { x with state := .selfref } else s)
  else if failed.contains (BitVec.ofNat 4 k) then s.stackFails k
  else if x.state = .off then s.setStack k { x with state := .active }
  else s

/-- LINK_TRAINING: stage 5, with the crossings and stacks that fail (R246, R326, R421, R422). -/
def execLinkTraining (failed : List (CellId × BitVec 2)) (stacksFailed : List StackNo) (s : State) : Out :=
  if !s.after 4 then .next s
  else
    let s := s.linksTrained
    let s := failed.foldl (fun s (x : CellId × BitVec 2) =>
      if s.crossing x.1 x.2.toNat then s.crossingFails x.1 x.2.toNat else s) s
    let s := (List.range 16).foldl (fun s k => s.stackTrains stacksFailed k) s
    let s := (List.range 32).foldl (fun s i => s.linkTrain (BitVec.ofNat 5 i)) s
    let s := s.stageEnds 5
    .next (if s.boot.fast then { s with boot := { s.boot with stage := 7 } } else s)

/-! ### Stages 6 and 7 (R425 to R428, R432) -/

/-- Fuses mark a physical cell bad. -/
def State.fuseBad (s : State) (k : Nat) : Bool := s.fuseComp.contains k || s.fuseRtr.contains k

/-- A physical cell is tested: no fuse marks it, and its field is not dark. -/
def State.tested (s : State) (v : Verdict) : Bool :=
  v.field.toNat < 48 && v.col.toNat < 80 && !(s.hub v.field).dark && !s.fuseBad (physKey v.field.toNat v.row.toNat v.col.toNat)

/-- The entries with a revival pending after the self-test: removed where the cell passes the extended test, or
where the field has powered up and its hub has passed; kept without the mark elsewhere. -/
def State.revived (s : State) (pass : List (FieldNo × BitVec 6 × BitVec 7)) : List LedgerEntry :=
  s.ledger.filterMap fun (e : LedgerEntry) =>
    let f : FieldNo := BitVec.ofNat 6 e.field.toNat
    let lit := !(s.hub f).dark
    let key := physKey e.field.toNat e.row.toNat e.col.toNat
    let ok := if e.row = 0xFF then (s.hub f).powered && !s.tripped.contains f
      else !s.failComp.contains key && !s.failRtr.contains key &&
        pass.any fun x => e.names x.1.toNat x.2.1.toNat x.2.2.toNat
    if !e.revive then some e else if lit && ok then none else some { e with revive := false }

/-- SELF_TEST: stage 6 of a cold bring-up (R425, R427, R432). -/
def execSelfTest (verdicts : List Verdict) (hubFail : List FieldNo) (extendedPass : List (FieldNo × BitVec 6 × BitVec 7))
    (s : State) : Out :=
  if !s.after 5 || s.boot.fast then .next s
  else
    let s := hubFail.foldl (fun s f => if f.toNat < 48 && (s.hub f).powered then s.fieldDark f else s) s
    let ts := verdicts.filter s.tested
    let key (v : Verdict) : Nat := physKey v.field.toNat v.row.toNat v.col.toNat
    let s := { s with
      failComp := (ts.filter fun (v : Verdict) => v.comp).map key
      failRtr := (ts.filter fun (v : Verdict) => v.rtr).map key }
    .next ({ s with ledger := s.revived extendedPass }.stageEnds 6).refreshAlert

/-- The failures of stages 5 and 6 enter the ledger (R422, R427). -/
def State.recordFailures (s : State) : State :=
  (s.failComp ++ s.failRtr ++ s.failLink).dedup.foldl (fun s k =>
    let f := k / 8192
    let row := k / 128 % 64
    let col := k % 128
    let comp := s.failComp.contains k
    let rtr := s.failRtr.contains k || s.failLink.contains k
    if s.fuseBad k then s
    else if s.ledger.any fun e => e.names f row col then
      { s with ledger := s.ledger.map fun (e : LedgerEntry) =>
          if e.names f row col then { e with comp := e.comp || comp, rtr := e.rtr || rtr } else e }
    else s.ledgerAdd ⟨BitVec.ofNat 8 f, BitVec.ofNat 8 row, BitVec.ofNat 8 col, 0, comp, rtr, false, s.epoch⟩) s

/-- The map that a cold bring-up builds comes into force; one that differs from the stored map is stored under
the next epoch (R428). -/
def State.mapBuilt (s : State) : State :=
  let m := s.builtMap
  let s := { s with map := m }
  if m = s.flashMap then s else { s with epoch := s.flashEpoch + 1, flashMap := m, flashEpoch := s.flashEpoch + 1 }

/-- MAP_BUILD: stage 7; the fast path keeps the map (R421, R426 to R428, R513). -/
def execMapBuild (s : State) : Out :=
  if s.boot.fast then .next (if s.after 5 then (s.recordFailures).stageEnds 7 else s)
  else if !s.after 6 then .next s
  else .next (((s.mapBuilt).recordFailures).selectUnits.stageEnds 7)

/-! ### Stages 8 and 9 -/

/-- HUB_TABLE_BROADCAST: stage 8. The bridge is chosen; the tables hold the detours round dark fields, and the cells
their library (R24, R58, R254, R424, R434). -/
def execHubTableBroadcast (s : State) : Out :=
  if !s.after 7 then .next s
  else if s.unreachable then .next ({ s with boot := { s.boot with err := 4 } }.chooseBridge).refreshAlert
  else
    let dark : List FieldNo := ((List.range 48).map (BitVec.ofNat 6)).filter fun f => (s.hub f).dark
    let old := s.darkOrder.filter fun f => dark.contains f
    let s := ({ s with darkOrder := old }).darkNow (dark.filter fun f => !old.contains f)
    .next ((s.chooseBridge).broadcastLibrary.stageEnds 8)

/-! ### Warm resets (R437 to R441) -/

/-- The marks that a cell keeps (R454). -/
def keptMarks (m : Store Cell) : Store Cell :=
  m.filterMap fun (e : Nat × Cell) => if e.2.fresh = {} then none else some (e.1, e.2.fresh)

/-- What a hub keeps without its state: its supply, its loop, its calibration, and a supply alert that stands. -/
def Hub.fresh (h : Hub) : Hub :=
  { powered := h.powered, dark := h.dark, clkStop := h.clkStop,
    power := { cal := h.power.cal, trip := h.power.trip, weights := h.power.weights } }

/-- The same under a supply alert, which a warm reset does not end (R489). -/
def Hub.warm (h : Hub) : Hub :=
  let x := h.fresh
  let p := { x.power with hs := h.power.hs, alert := h.power.alert, clearAt := h.power.clearAt }
  { x with hold := (if h.power.hs then 60 else 0 : Nat), power := p }

/-- What a mill keeps over a warm reset: fuses, licence, its count of exits from UP, its light, and an announcement
that still runs (R344, R440). -/
def Mill.warm (v : Mill) : Mill :=
  { bad := v.bad, licensed := v.licensed, downcnt := v.downcnt, light := v.light, lightAt := v.lightAt, probe := v.probe,
    lastBurst := v.lastBurst, downUntil := v.downUntil }

/-- A PENDING slot becomes TRIAL, and the ward restarts into it (R507). -/
def State.startPending (s : State) : State :=
  if s.fw.a.state = 3 || s.fw.b.state = 3 then { s with fw := s.fw.promote }.wardStart else s

/-- FW_STAGE runs (R506). -/
def State.isStaging (s : State) : Bool := (s.running.map Running.what : Option Waiting) == some .stage

/-- Queries that wait for a boundary or a capture are answered STATE, and so is a FW_STAGE that runs: its slot is EMPTY
(R510; log entry 79). -/
def State.refuseQueries (s : State) : State :=
  let s := if s.isStaging then ({ s with fw := s.fw.unstage } : State).finish (refuse stState 0xFFFF) else s
  let s := s.forced.foldl (fun s (x : Forced) => s.complete x.port x.slot 0 x.live false (refuse stState 0xFFFF)) s
  let s := match s.dump with
    | some x => s.complete x.port x.slot 0 x.live false (refuse stState 0xFFFF)
    | none => s
  { s with forced := [], dump := none }

/-- The links of every mill go DOWN; their steps are lost with the wafer's state (R325, R366). -/
def State.millsDown (s : State) : State :=
  (List.range 32).foldl (fun s i =>
    let m : MillNo := BitVec.ofNat 5 i
    ((s.modMill m fun v => { v with tracks := [], thrGroups := [], run := none, thrState := .idle }).linkDown m 5).modMill m Mill.warm) s

/-- Everything that a warm reset clears (R440, R441). -/
def State.warmClear (s : State) : State :=
  { s with
    tickHold := 0, slew := 0, slewPart := 0, arb := [], hostReads := [], net := [], cells := keptMarks s.cells, pmem := [], pmemAll := [], loft := [], loftErr := [], scrubs := []
    links := [], linkAll := .down, ni := {}, niCell := [], niHub := [], wains := [], hingeCache := [], plots := [], faultSeq := 0, residents := []
    hubs := s.hubs.map fun (e : Nat × Hub) => (e.1, e.2.warm)
    gstacks := s.gstacks.map fun (e : Nat × Stack) => (e.1, if e.2.state = .active then { e.2 with state := .selfref } else e.2)
    ports := s.ports.map fun (e : Nat × Port) => (e.1, ({ e.2 with views := [] } : Port))
    ranks := [], routes := [], rankWr := 0, routeWr := 0, badEnt := false, rankBusy := false
    tally := { since := s.tick }, windows := [], bridge := 0, switchEnd := none, bridgeDrop := 0, pageFaults := [], wafer := 0, jobtag := 0
    jobLoaded := false, lastSeq := 0, plan := none, failComp := [], failRtr := [], failLink := [], dormant := false
    clocks := { s.clocks with depth := 0, rate := 0x40, ssc := (0, 0x40), sscStart := s.tick, monSel := 0x7F, monDiv := 0 }
    power := { s.power with
      sustained := 33000, peak := 40000, window := 1000, comp := 0, budget := 0, module_ := 0, stopped := false, cause := 0
      hist := [], lastAt := s.tick, log := [], logNext := 0, open_ := [], charged := [] }
    regAcc := [] }

/-- A warm reset starts: KIND 2 by WARM#, 3 by command (R437 to R441). -/
def State.warmBegin (s : State) (kind : BitVec 3) : State :=
  let s := (s.startPending.refuseQueries.takeLicence).millsDown.warmClear
  let s := if s.steward.state = 0 then { s with steward := {} } else { s with steward := {} }.stewardNotice
  let s := if kind = 2 then { s with pins := { s.pins with request := false } } else s
  let s := { s with boot := { s.boot with fast := true, held := none, doing := kind, recheck := false } }
  (if s.boot.done = 1 then s else s.powerStage).refreshAlert

/-- A warm reset can start at once: bring-up is over, or a coolant stop waits for it (R423, R493). -/
def State.warmReady (s : State) : Bool := s.boot.done == 9 || s.power.stopped

/-- WARM_RESET (R437); before stage 9 it is held (R423). It completes at READY. -/
def execWarmReset (p : PortNo) (n : SlotNo) (s : State) : Out :=
  .next (s.carry p n 0x7E anyRow fun s _ =>
    if s.warmReady then (s.warmBegin 3, .wait .warm)
    else ({ s with boot := { s.boot with held := some 3 } }, .wait .warm))

/-- A warm reset that WARM# has requested starts once no mutating command runs (R438). -/
def State.pinReset (s : State) : State :=
  if s.pins.request && s.running.isNone && s.warmReady then s.warmBegin 2 else s

/-- WARM_ASSERT: WARM# has been low for 1 µs (R527); a request that waits is taken up again. -/
def execWarmAssert (s : State) : Out :=
  if s.boot.done = 0 then .next { s with pins := { s.pins with warmHigh := false } }
  else
    let request := s.pins.request || s.pins.armed
    .next { s with pins := { s.pins with warmHigh := false, armed := false, request := request } }.pinReset

/-- WARM_DEASSERT: WARM# has been high for 1 µs; EXTEST ends (R527, R530). -/
def execWarmDeassert (s : State) : Out :=
  .next { s with pins := { s.pins with warmHigh := true, armed := true, extest := false } }

/-- READY: stage 9 ends the bring-up; a warm reset that was held follows (R421, R423, R438). -/
def execReady (s : State) : Out :=
  if !s.after 8 then .next s
  else
    let s := ({ s with boot := { s.boot with done := 9, stage := 9, kind := s.boot.doing } }.stacksServe).wardNotice
    match s.boot.held with
    | some k => .next (s.warmBegin k)
    | none =>
      let warm := (s.running.map Running.what : Option Waiting) == some .warm
      let s := if warm then s.finish (okWith []) else s
      .next s.pinReset.refreshAlert

/-! ### Compute resets (R281, R439) -/

/-- The wains that hold anything. -/
def State.wainKeys (s : State) : List Nat := s.wains.map fun (e : Nat × Wain) => e.1

/-- Sync state and the registers of class K of a hub are cleared (R281). -/
def Hub.syncClear (h : Hub) : Hub :=
  { h with latches := [], waiters := [], misuse := 0, stranger := 0, fullcnt := 0, gates := [], staging := [], resviol := 0 }

/-- Steps 2 to 7 of R439, once the packets of the wains are complete. -/
def State.computeReset (s : State) : State :=
  let s := s.wainKeys.foldl (fun s k => s.clearWain 127 k) s
  let s := { s with
    wains := [], hingeCache := [], pageFaults := [], cells := keptMarks s.cells, pmem := [], plots := [], plan := none, jobLoaded := false
    residents := s.residents.map fun (r : Resident) => { r with claimed := false, holder := 127 }
    hubs := s.hubs.map fun (e : Nat × Hub) => (e.1, e.2.syncClear)
    mills := s.mills.map fun (e : Nat × Mill) =>
      (e.1, ({ e.2 with tracks := [], genAll := e.2.genAll + 1, mapCache := [], late := 0, failedCnt := 0 } : Mill))
    tally := { s.tally with counts := [], energy := [], regs := [], last := 0, prev := 0 } }
  let s := s.identAgain
  let s := s.scrubCells (fun c => !s.isHole c) []
  let s := (s.broadcastLibrary.takeLicence).stacksServe
  { s with boot := { s.boot with kind := 4 } }

/-- COMPUTE_RESET; it completes once the packets of the wains that abandon their chains have. -/
def execComputeReset (p : PortNo) (n : SlotNo) (s : State) : Out :=
  match s.abandoning p n 0x7F with
  | some _ => .next (if s.wainsQuiet s.wainKeys then s.computeReset.finish (okWith []) else s)
  | none =>
    .next (s.carry p n 0x7F anyRow fun s _ =>
      let s := (List.range 32).foldl (fun s i => s.thrAbandon (BitVec.ofNat 5 i)) s
      let s := s.stopWains s.wainKeys
      if s.wainsQuiet s.wainKeys then answered s.computeReset (okWith []) else (s, .wait .abandon))

/-! ### Ward restarts (R416, R507) -/

/-- The ward restarts (R416, R444): slots FREE, held notices lost, the heartbeat count from the start. It undoes a FW_STAGE
that runs (R510), and finishes any other command. -/
def State.wardRestart (s : State) : State :=
  let fresh (x : Port) : Port := { x.freeSlots with noticesHeld := [] }
  let dead (x : Forced) : Forced := { x with live := false }
  let field := if s.boot.done = 3 then 0 else s.boot.nextField
  let s := if s.isStaging then { s with running := none, fw := s.fw.unstage } else s
  let s := { s with
    ports := s.ports.map fun (e : Nat × Port) => (e.1, fresh e.2)
    mail := []
    running := s.running.map fun (r : Running) => { r with live := false }
    restarting := s.running.isSome
    forced := s.forced.map dead
    dump := s.dump.map fun (x : Dump) => { x with live := false }
    steward := { s.steward with since := s.tick }
    boot := { s.boot with wardrst := satAdd s.boot.wardrst 1, nextField := field } }
  s.wardStart.wardNotice.refreshAlert

/-- WARD_RESTART (R416); the ward runs from stage 2 on. -/
def execWardRestart (s : State) : Out := .next (if 2 ≤ s.boot.done then s.wardRestart else s)

/-- ACTIVATE_RESTART: ten milliseconds after FW_ACTIVATE in mode RESTART, into the other slot (R507). -/
def execActivateRestart (s : State) : Out :=
  match s.fw.activate with
  | some t =>
    if s.tick < t || s.boot.done < 2 then .next s
    else .next { s with fw := { s.fw.mark (!s.fw.running) 4 with attempts := 0 } }.wardRestart
  | none => .next s

/-! ### The dormant state (R443, R495) -/

/-- What keeps the wafer from the dormant state. -/
def State.awake (s : State) : Bool :=
  s.plots.any (fun e => e.2.state == .running) || s.wains.any (fun e => e.2.state != .idle) || s.mills.any fun e => e.2.run.isSome

/-- DORMANT_ENTER (R443). -/
def execDormantEnter (p : PortNo) (n : SlotNo) (s : State) : Out :=
  .next (s.carry p n 0x42 anyRow fun s _ =>
    if s.awake then answered s (refuse stState 0xFFFF)
    else answered { s with
      dormant := true
      net := []
      cells := keptMarks s.cells
      pmem := []
      pmemAll := []
      gstacks := s.gstacks.map fun (e : Nat × Stack) => (e.1, if e.2.state = .active then { e.2 with state := .selfref } else e.2)
      hubs := s.hubs.map fun (e : Nat × Hub) => (e.1, e.2.fresh)
      clocks := { s.clocks with lock := s.clocks.lock &&& ~~~(BitVec.ofNat 63 (2 ^ 48 - 1)) }
      tally := { s.tally with
        energy := []
        counts := s.tally.counts.filter fun (e : Nat × DWord) => 1536 ≤ e.1
        regs := s.tally.regs.filter fun (e : Nat × DWord) => 1536 ≤ e.1 } } (okWith []))

/-- The cells of a plot that hold their rectangle join it again, without a scrub. -/
def State.joinAgain (s : State) (p : PlotId) : State :=
  let q := s.plot p
  q.coords.foldl (fun s (x : Nat × Nat) => s.modCell (q.cellAt x.1 x.2) fun v => v.joins p q x) s

/-- The blocks that DORMANT_EXIT reads: configuration 0 of each plot that is not SCANNED, latches and gates. -/
def wakeBlocks (ids : List PlotId) (b : PlanBlock) : Bool :=
  b.kind == 6 || b.kind == 7 || ids.any fun p => configBlocks p.toNat 0 b

/-- A plot is LOADED again with configuration 0 (R443). -/
def State.reload (s : State) (p : PlotId) (im : PlanImage) : State :=
  let s := match im.config p.toNat 0 with
    | some c => s.takeConfig p c (im.progs.filter fun x => x.plot == p.toNat && x.config == 0)
    | none => s
  (s.standsLoaded p (im.season0 p)).modPlot p fun q => { q with state := .loaded, dryStart := none }

/-- DORMANT_EXIT (R443, R495). -/
def execDormantExit (p : PortNo) (n : SlotNo) (s : State) : Out :=
  .next (s.carry p n 0x43 anyRow fun s _ =>
    let standing := s.plotIds.filter fun p => (s.plot p).holds
    let ids := standing.filter fun p => (s.plot p).state != .scanned
    if !s.dormant then answered s (refuse stState 0xFFFF)
    else match s.reread (wakeBlocks ids) with
      | (s, .inl b) => answered s b.again
      | (s, .inr im) =>
        let lit : List FieldNo := ((List.range 48).map (BitVec.ofNat 6)).filter fun f => (s.hub f).powered && !(s.hub f).dark
        let s := (lit.foldl State.fieldLocks { s with dormant := false }).stacksServe.broadcastLibrary
        let s := ids.foldl (fun s p => s.reload p im) (standing.foldl State.joinAgain s)
        let s := s.planSync im fun _ => true
        let s := standing.foldl (fun s p =>
          if (s.plot p).state = .scanned then s.modChans (s.feedersOf p) fun o => { o with stopped := true } else s) s
        answered { s with power := { s.power with hist := [], lastAt := s.tick } } (okWith []))

end Sys2Proof.Machine
end

