-- ==== Sys2Proof/Machine/CellLoft.lean ====
section
/-! DEFINITION. Scalar and vector loft access of a cell, local and in the bay (R81, R87, R186 to R189). -/

namespace Sys2Proof.Machine

/-- The loaded bytes as the register's new value: a scalar one zero-extended, a vector one under the
lane mask (R81, R87). -/
def maskLanes (mask : BitVec 16) (old new_ : Vec512) : Vec512 :=
  BitVec.ofNat 512 (((List.range 16).map fun i =>
    (if mask.getLsbD i then bits new_ (32 * i + 31) (32 * i) else bits old (32 * i + 31) (32 * i)) *
      2 ^ (32 * i)).sum)

/-- The result of a load. -/
def loadResult (v : Cell) (a : PAddr) (dst : SReg ⊕ VReg) (bytes : List Byte) : Result :=
  match dst with
  | .inl r => { unit := .scalar, addr := a, sdst := some (r, BitVec.ofNat 32 (leNat bytes)) }
  | .inr r => { unit := .vector, addr := a,
                vdst := [(r, maskLanes v.vmask (v.v r) (BitVec.ofNat 512 (leNat bytes)))] }

/-- A load of `size` bytes: local, with the scoreboard and the MMT stream judged, or from another cell
of the bay as a READ_REQ on VC1 (R81, R159, R167, R188). -/
def loadAct (c : CellId) (dst : SReg ⊕ VReg) (base : SReg) (x : Int) (size : Nat)
    (s : State) (v : Cell) (p : PAddr) (n : Nat) : Act :=
  match s.loftPlace c (v.s base) x size with
  | .trap cause info => .trap cause info
  | .at_ d a =>
    if d = c then
      let (s', bytes, bad) := s.loftRead c a size 0
      if bad then .trapIn s' 7 (BitVec.ofInt 32 ((v.s base).toNat + x * size))
      else if !v.mayRead a size || v.streaming then .hold
      else .done (s'.modCell c fun v => v.push (loadResult v p dst bytes))
    else
      match v.freeTag with
      | none => .hold
      | some t =>
        let l : BayLoad := ⟨t, p, n, rawOf ((v.held.take n).map (·.word)),
          ((v.s base).toNat + x * size).toNat, dst, size, v.vmask⟩
        .done ((s.setCell c { v with bayLoads := v.bayLoads ++ [l] }).cellToCell c d
          (.readReq (BitVec.ofNat 54 a) (BitVec.ofNat 8 (size - 1)) t))

/-- The runs of a store to another cell are sent as WRITE_REQs on VC1 that are acknowledged. -/
def State.bayWrite (s : State) (c d : CellId) (a : Nat) : List (Nat × List Byte) → Option State
  | [] => some s
  | (off, bytes) :: l =>
    match (s.cell c).freeTag with
    | none => none
    | some t =>
      let s := (s.modCell c fun v => { v with bayStores := v.bayStores ++ [t] }).cellToCell c d
        (.writeReq (BitVec.ofNat 54 (a + off)) (BitVec.ofNat 8 (bytes.length - 1)) false t bytes)
      s.bayWrite c d a l

/-- A store: local under the scoreboard, or to another cell of the bay (R81, R163, R188). -/
def storeAct (c : CellId) (bytes : List (Option Byte)) (base : SReg) (x : Int)
    (s : State) (v : Cell) (_ : PAddr) (_ : Nat) : Act :=
  match s.loftPlace c (v.s base) x bytes.length with
  | .trap cause info => .trap cause info
  | .at_ d a =>
    if d = c then
      if v.mayWrite a bytes.length then .done (s.loftWrite c a bytes) else .hold
    else
      match s.bayWrite c d a (keptRuns bytes 0 []) with
      | none => .hold
      | some t => .done t

/-- LW (R81). -/
def execLw (c : CellId) (r a : SReg) (x : Int) (s : State) : Out :=
  .next (s.issue c (.lw c r a x) (loadAct c (.inl r) a x 4))

/-- LH: zero-extended (R81). -/
def execLh (c : CellId) (r a : SReg) (x : Int) (s : State) : Out :=
  .next (s.issue c (.lh c r a x) (loadAct c (.inl r) a x 2))

/-- SW (R81). -/
def execSw (c : CellId) (r a : SReg) (x : Int) (s : State) : Out :=
  .next (s.issue c (.sw c r a x) fun s v =>
    storeAct c ((leBytes 4 (v.s r).toNat).map some) a x s v)

/-- SH: bits 15:0 of the register (R81). -/
def execSh (c : CellId) (r a : SReg) (x : Int) (s : State) : Out :=
  .next (s.issue c (.sh c r a x) fun s v =>
    storeAct c ((leBytes 2 (v.s r).toNat).map some) a x s v)

/-- VLD under the lane mask (R87). -/
def execVld (c : CellId) (d : VReg) (a : SReg) (x : Int) (s : State) : Out :=
  .next (s.issue c (.vld c d a x) (loadAct c (.inr d) a x 64))

/-- VST under the lane mask (R87). -/
def execVst (c : CellId) (r : VReg) (a : SReg) (x : Int) (s : State) : Out :=
  .next (s.issue c (.vst c r a x) fun s v => storeAct c (maskedBytes v.vmask (v.v r)) a x s v)

end Sys2Proof.Machine
end

