-- ==== Sys2Proof/Machine/CellMatrix.lean ====
section
/-! DEFINITION. The matrix array of a cell (05): weight tiles, products, write-back and their
scoreboard ranges. -/

namespace Sys2Proof.Machine

/-! ### Operands in loft (R135, R137, R140 to R143, R167) -/

/-- `n` bytes as the array reads them: none for a byte of an uncorrectable word, zeros in an unclaimed
window (R167, R181). -/
def State.matrixRead (s : State) (c : CellId) (a n : Nat) : State × List (Option Byte) × Bool :=
  let ws := s.openWords c a n
  let bad := ws.filter fun w => 2 ≤ Store.get 0 s.loftErr w
  let (t, bytes, ue) := s.loftRead c a n 1
  (t, bytes.zipIdx.map fun (b, i) => if bad.contains (wordKey c (a + i)) then none else some b, ue)

/-- Parts of an operand read one after the other. -/
def State.matrixParts (s : State) (c : CellId) : List (Nat × Nat) → State × List (List (Option Byte)) × Bool
  | [] => (s, [], false)
  | (a, n) :: l =>
    let (s, b, ue) := s.matrixRead c a n
    let (s, bs, ue') := s.matrixParts c l
    (s, b :: bs, ue || ue')

/-- The byte at an offset of a part; an uncorrectable one reads as none. -/
def byteAt (l : List (Option Byte)) (i : Nat) : Option Byte := ((l.drop i).head?.getD (some 0))

/-- A byte as a number. -/
def byteNat (l : List (Option Byte)) (i : Nat) : Option Nat := (byteAt l i).map BitVec.toNat

/-- The code of an element at a byte offset, `hi` selecting the upper nibble of a CH4 byte; the
canonical NaN of its type where a byte is uncorrectable (R167). -/
def codeAt (t : ElemType) (l : List (Option Byte)) (off : Nat) (hi : Bool) : Nat :=
  let bytes := match t with
    | .ch16 => [byteNat l off, byteNat l (off + 1)]
    | .binary32 => [byteNat l off, byteNat l (off + 1), byteNat l (off + 2), byteNat l (off + 3)]
    | _ => [byteNat l off]
  if bytes.any Option.isNone then nanCode (fmtOf t)
  else
    let x := (bytes.filterMap id).foldr (fun b r => b + 256 * r) 0
    if t = .ch4 then (if hi then x / 16 else x % 16) else x

/-- The SC8 code at a byte offset, POISON where the byte is uncorrectable (R167). -/
def scaleAt (l : List (Option Byte)) (off : Nat) : Nat := (byteNat l off).getD 255

/-! ### Weight tiles (R136 to R139, R148) -/

/-- A tile from its image (R137). -/
def tileOf (t : ElemType) (img : List (Option Byte)) (ue : Bool) : WTile :=
  let n := 16 * rowSize t
  let nan (i : Nat) : Nat :=
    -- an uncorrectable element reads as the canonical NaN of its type
    match t with
    | .ch16 => nanCode .ch16 / 256 ^ (i % 2) % 256
    | .ch4 => 0x77
    | _ => nanCode (fmtOf t)
  let rows := (List.range n).map fun i => ((byteNat img i).getD (nan i)) * 256 ^ i
  let scales := if scaled t then ((List.range 8).map fun j => scaleAt img (n + j) * 256 ^ j).sum else 0
  { type := t, rows := BitVec.ofNat 2048 rows.sum, scales := BitVec.ofNat 64 scales, nv := ue }

/-- The weight of K position k and column j, with its scale (R119, R137). -/
def WTile.weight (w : WTile) (k j : Nat) : FVal :=
  let byte (i : Nat) : Nat := bits w.rows (8 * i + 7) (8 * i)
  let sc := bits w.scales (8 * j + 7) (8 * j)
  match w.type with
  | .ch16 => decodeF .ch16 (byte (k * 16 + 2 * j) + 256 * byte (k * 16 + 2 * j + 1))
  | .ch4 => blockValue .ch4 sc (byte (k / 2 * 8 + j) / 16 ^ (k % 2) % 16)
  | t => blockValue t sc (byte (k * 8 + j))

/-- The column's scale is POISON (R120). -/
def WTile.poison (w : WTile) (j : Nat) : Bool := scaled w.type && bits w.scales (8 * j + 7) (8 * j) == 255

/-- MLDW (R137, R138, R159, R170, R174). -/
def execMldw (c : CellId) (r : SReg) (t : ElemType) (s : State) : Out :=
  .next (s.issue c (.mldw c r t) fun s v _ _ =>
    match mldwJudge v r t with
      | .trap k x => .trap k x
      | .ready =>
        let a := v.s r
        let n := 16 * rowSize t + if scaled t then 8 else 0
        let (s, img, ue) := s.matrixRead c a.toNat n
        .done (s.modCell c fun v => { v with
          filling := some (tileOf t img ue)
          board := v.board ++ [sbEntry a.toNat n false .load] })
      | _ => .hold)

/-- SHADOW_FULL (R138, R158). -/
def execShadowFull (c : CellId) (s : State) : Out :=
  let v := s.cell c
  match v.filling with
  | some t => .next (s.setCell c ({ v with shadow := t, filling := none }.release .load))
  | none => .next s

/-- MSWAP (R139): held until the shadow tile is full and every earlier product has taken its last input
row. -/
def execMswap (c : CellId) (s : State) : Out :=
  .next (s.issue c (.mswap c) fun s v _ _ =>
    if v.swapHeld then .hold
    else .done (s.setCell c { v with working := v.shadow, shadow := v.working }))

/-! ### Shapes (R92, R134) -/

/-! ### Passes (R147, R153 to R156) -/

/-- Which input or weight a pass takes: the first plane, the second, or their exact sum. -/
inductive Sel where
  | first | second | both
  deriving DecidableEq, Repr

/-- One pass: its factors, its sign in the real tile and in the imaginary tile (true is minus), and
whether a zero lo factor contributes nothing. -/
structure Pass where
  x  : Sel
  w  : Sel
  re : Option Bool
  im : Option Bool
  xlo : Bool := false
  wlo : Bool := false
  deriving DecidableEq, Repr

/-- The passes of a mode, in order. -/
def passesOf : PassMode → List Pass
  | .real => [{ x := .first, w := .first, re := some false, im := none }]
  | .cx4 => [{ x := .first, w := .first, re := some false, im := none },
             { x := .second, w := .second, re := some true, im := none },
             { x := .first, w := .second, re := none, im := some false },
             { x := .second, w := .first, re := none, im := some false }]
  | .cx3 => [{ x := .first, w := .first, re := some false, im := some true },
             { x := .second, w := .second, re := some true, im := some true },
             { x := .both, w := .both, re := none, im := some false }]
  | .s16x3 => [{ x := .first, w := .first, re := some false, im := none },
               { x := .first, w := .second, re := some false, im := none, wlo := true },
               { x := .second, w := .first, re := some false, im := none, xlo := true }]

/-- The value of a selection, with the events of an exact sum of two (R154). -/
def selVal (s : Sel) (a b : FVal) : FVal × AFlags :=
  match s with
  | .first => (a, 0)
  | .second => (b, 0)
  | .both => sumF [a, b]

/-- One accumulator element with the events met so far; `none` before the first contribution of a
product with ACC = 0 (R146). -/
structure Accum where
  val    : Option (BitVec 40)
  events : AFlags

/-- A contribution is written first, or added with one rounding (R126, R146). -/
def Accum.add (a : Accum) (x : FVal) : Accum :=
  let (r, f) := match a.val with
    | none => roundA40 x
    | some e => addA40 e x
  ⟨some r, a.events ||| f⟩

/-- The products of one element over the positions of a slice, with their events. -/
def sliceProducts (p : Pass) (x w : Nat → FVal × FVal) : List Nat → List FVal × AFlags
  | [] => ([], 0)
  | k :: l =>
    let (xv, fx) := selVal p.x (x k).1 (x k).2
    let (wv, fw) := selVal p.w (w k).1 (w k).2
    let (rest, fr) := sliceProducts p x w l
    if (p.xlo && xv.isZero) || (p.wlo && wv.isZero) then (rest, fr)
    else
      let (m, fm) := mulF xv wv
      (m :: rest, a40Events (fx ||| fw ||| fm) ||| fr)

/-- The slice sum: exact in the forward form, rounded to A40 column by column in the transposed form
(R147); none where nothing contributes. -/
def sliceSum (tr : Bool) (ps : List FVal) : Option (FVal × AFlags) :=
  match ps with
  | [] => none
  | p :: l =>
    if tr then
      let (a, f) := roundA40 p
      let (a, f) := l.foldl (fun (a, f) q => let (b, g) := addA40 a q; (b, f ||| g)) (a, f)
      some (decodeF .a40 a.toNat, f)
    else some (let (v, f) := sumF ps; (v, a40Events f))

/-- The contributions of one slice under one pass to the real and the imaginary element. A forward slice sum enters the
addition exact and is rounded there once, as R126 and R147 say; the stage table of R150 names a rounding of its own
before it (DEDUCED, log entry 69). -/
def passAdd (tr : Bool) (p : Pass) (x w : Nat → FVal × FVal) (ks : List Nat) (a : Accum × Accum) : Accum × Accum :=
  let (ps, f) := sliceProducts p x w ks
  match sliceSum tr ps with
  | none => a
  | some (v, g) =>
    let put (sign : Option Bool) (e : Accum) : Accum :=
      match sign with
      | none => e
      | some neg =>
        let e := e.add (if neg then v.neg else v)
        { e with events := e.events ||| f ||| g }
    (put p.re a.1, put p.im a.2)

/-! ### Tiles (R145, R146) -/

/-- An element of a product: its index, and its inputs by K position for each slice. -/
structure ProdElem where
  index  : Nat
  slices : List (List Nat × (Nat → FVal × FVal) × (Nat → FVal × FVal))

/-- A product run over its elements: each pass in order, and within a pass each slice (R147). -/
def runProduct (tr accum : Bool) (pm : PassMode) (elems : List ProdElem) (re im : Tile) (extra : AFlags) : Tile × Tile :=
  let start (t : Tile) (i : Nat) : Accum := ⟨if accum then some (Store.get 0 t.elems i) else none, 0⟩
  let step (ts : Tile × Tile) (e : ProdElem) : Tile × Tile :=
    let (r, i) := (passesOf pm).foldl (fun a p =>
      e.slices.foldl (fun a (ks, x, w) => passAdd tr p x w ks a) a) (start ts.1 e.index, start ts.2 e.index)
    let put (t : Tile) (a : Accum) : Tile :=
      match a.val with
      | some v => { t with elems := Store.set 0 t.elems e.index v, events := t.events ||| a.events }
      | none => t
    (put ts.1 r, put ts.2 i)
  let (r, i) := elems.foldl step (re, im)
  ({ r with events := r.events ||| extra }, { i with events := i.events ||| extra })

/-- Hub counters 3 and 4 at a product's issue: the cycles that it takes its path, and its MACs (R99, R130, R463). -/
def State.countProduct (s : State) (c : CellId) (busy macs : Nat) : State :=
  (s.count (hubCtr (fieldOf c) 3) busy).count (hubCtr (fieldOf c) 4) macs

/-- r: the cycles of one input row (R99, R130). -/
def rowCycles (t : ElemType) : Nat := if t = .ch16 then 2 else 1

/-- The view of tiles is set (R145). -/
def Cell.setViews (v : Cell) (wide : Bool) (l : List AccNo) : Cell :=
  l.foldl (fun v a => v.setTile a { v.tile a with wide := wide }) v

/-- A product enters the array with its tiles as it will leave them (R150). -/
def Cell.enter (v : Cell) (pm : PassMode) (acc : AccNo) (wide : Bool) (re im : Tile) (readsShadow stream : Bool)
    (ranges : List (Nat × Nat)) : Cell :=
  let v := v.setViews wide (tilesOf pm acc)
  let tiles := match tilesOf pm acc with
    | [a] => [(a, { re with wide := wide })]
    | _ => [(acc, { re with wide := wide }), (imagAcc acc, { im with wide := wide })]
  { v with
    products := v.products ++ [⟨v.nextId, tiles, false, readsShadow, stream⟩]
    board := v.board ++ ranges.map fun (a, n) => sbEntry a n false (.product v.nextId)
    nextId := v.nextId + 1 }

/-! ### Stationary products (R131, R132, R140, R141) -/

/-- The value of an input under its scale code. -/
def inputVal (t : ElemType) (sc : Option Nat) (code : Nat) : FVal :=
  match sc with
  | some k => blockValue t k code
  | none => decodeF (fmtOf t) code

/-- The input of row m and array position k in a plane of feed rows: first and second value, for S16X3
the split (R140, R155). -/
def mmsInput (tr : Bool) (t : ElemType) (pm : PassMode) (m : Nat) (parts : List (List (Option Byte))) (row k : Nat) :
    FVal × FVal × AFlags :=
  let s16 := pm == .s16x3
  let f := feedRow tr s16 t
  let slots := if tr then 8 else 16
  let pair := t == .ch4
  let slot := if pair && !tr then k / 2 else k
  let off := (row + slot) % m * f + slot * f / slots
  let hi := k % 2 == 1
  let nth (i : Nat) : List (Option Byte) := (parts.drop i).head?.getD []
  if s16 then
    let (h, l, e) := splitS16 (codeAt .binary32 (nth 0) off false)
    (h, l, e)
  else
    let val (i : Nat) : FVal :=
      if scaled t then inputVal t (some (scaleAt (nth (2 * i + 1)) row)) (codeAt t (nth (2 * i)) off hi)
      else inputVal t none (codeAt t (nth i) off hi)
    (val 0, if planes pm = 2 then val 1 else .fin false 0 0, 0)

/-- A POISON scale code meets the product (R120). -/
def poisoned (t : ElemType) (codes : List Nat) : Bool := scaled t && codes.contains 255

/-- NV for the weight tiles of a product that carry it, or whose used columns are POISON (R120, R148). -/
def tileEvents (ws : List WTile) (cols : Nat) : AFlags :=
  flagIf (ws.any fun w => w.nv || (List.range cols).any w.poison) flagNV

/-- MMS (R131, R132, R140, R141, R146, R158). -/
def execMms (c : CellId) (acc : AccNo) (tr : Bool) (r : SReg) (it : ElemType) (accum : Bool) (pm : PassMode)
    (sh : SReg) (s : State) : Out :=
  .next (s.issue c (.mms c acc tr r it accum pm sh) fun s v _ _ =>
    match mmsJudge v acc tr r it pm sh with
      | .trap k x => .trap k x
      | .hold => .hold
      | .noWork => .done (s.countProduct c 1 0)
      | .viewOnly => .done ((s.setCell c (v.setViews tr (tilesOf pm acc))).countProduct c 1 0)
      | .ready =>
          let (m, n, k) := shapeOf (v.s sh)
          let a := v.s r
          let two := pm != .real
          let parts := mmsParts tr it pm m a.toNat
          let extent := partsEnd parts - a.toNat
          let (s, data, ue) := s.matrixParts c parts
          let w1 := v.working
          let w2 := if two then v.shadow else v.working
          let outs := if tr && it == .ch4 then 2 * n else n
          let x (row j : Nat) : FVal × FVal :=
            let (p, q, _) := mmsInput tr it pm m data row j
            (p, q)
          let elems := (List.range m).flatMap fun row => (List.range outs).map fun o =>
            let w (j : Nat) : FVal × FVal :=
              if tr then (w1.weight o j, w2.weight o j) else (w1.weight j o, w2.weight j o)
            let index := if !tr then row * 8 + o
              else if it == .ch4 then (2 * row + o / 16) * 16 + o % 16 else row * 16 + o
            (⟨index, [(List.range k, x row, w)]⟩ : ProdElem)
          let split := if pm = .s16x3 then
              (List.range m).foldl (fun f row => (List.range k).foldl (fun f j =>
                f ||| (mmsInput tr it pm m data row j).2.2) f) 0
            else 0
          let codes := if scaled it then (List.range (planes pm)).flatMap fun p =>
              (List.range m).map fun row => scaleAt ((data.drop (2 * p + 1)).head?.getD []) row
            else []
          let extra := flagIf (ue || poisoned it codes) flagNV ||| a40Events split |||
            tileEvents (if two then [w1, w2] else [w1]) (if tr then k else n)
          let (re, im) := runProduct tr accum pm elems (v.tile acc) (v.tile (imagAcc acc)) extra
          let passes := (passesOf pm).length
          .done ((s.modCell c fun v => v.enter pm acc tr re im two false [(a.toNat, extent)]).countProduct c
            (rowCycles it * m * passes) (m * outs * k * passes)))

/-! ### Streaming products (R133, R142 to R144) -/

/-- MMT at the head of issue: it registers its staged parts and stages them (R142); the product issues
at STAGING_COMPLETE. -/
def execMmt (c : CellId) (acc : AccNo) (r : SReg) (it wt : ElemType) (accum : Bool) (pm : PassMode) (w sh : SReg)
    (s : State) : Out :=
  .next (s.issue c (.mmt c acc r it wt accum pm w sh) fun s v _ _ =>
    if v.staging then .hold
    else match mmtJudge v acc r it wt pm w sh with
      | .trap k x => .trap k x
      | .hold => .hold
      | .noWork => .done (s.countProduct c 1 0)
      | .viewOnly => .done ((s.setCell c (v.setViews true (tilesOf pm acc))).countProduct c 1 0)
      | .ready =>
        let (m, n, k) := shapeOf (v.s sh)
        let staged := mmtStaged it wt pm m n k (v.s r).toNat (v.s w).toNat
        let ins := staged.take (if scaled it then 2 else 1)
        let ranges := ((v.s r).toNat, partsEnd ins - (v.s r).toNat) :: staged.drop ins.length
        .stay (s.setCell c { v with
          staging := true
          board := v.board ++ ranges.map fun (a, n) => sbEntry a n false .staging }))

/-- The product of a staged MMT (R133, R143, R147). In the staged scale-code parts the codes of a second input plane follow
the first plane's with no gap, and the weight codes run plane by plane and, in a plane, block by block (DESIGN
CHOICE, log entry 67). -/
def mmtProduct (c : CellId) (acc : AccNo) (r : SReg) (it wt : ElemType) (accum : Bool) (pm : PassMode) (w sh : SReg)
    (s : State) (v : Cell) : State :=
  let (m, n, k) := shapeOf (v.s sh)
  let z := mmtSizes it wt pm n k
  let a := (v.s r).toNat
  let wa := (v.s w).toNat
  let g := sliceK it
  let (s, data, ue) := s.matrixParts c (mmtStaged it wt pm m n k a wa)
  let (s, wdata, ue') := s.matrixRead c wa (mmtWeightBytes it wt pm n k)
  let nth (i : Nat) : List (Option Byte) := (data.drop i).head?.getD []
  let wcodes := nth (if scaled it then 2 else 1)
  let inCode (p row j : Nat) : Nat × FVal :=
    let sc := scaleAt (nth 1) (p * m * z.kgs + row * z.kgs + j / g)
    let base := (p * m + row) * z.rs
    let code := match it with
      | .ch4 => codeAt .ch4 (nth 0) (base + j / 2) (j % 2 == 1)
      | .ch16 => codeAt .ch16 (nth 0) (base + 2 * j) false
      | t => codeAt t (nth 0) (base + j) false
    (sc, if scaled it then blockValue it sc code else decodeF .ch16 code)
  let xs (row j : Nat) : FVal × FVal × AFlags :=
    if pm = .s16x3 then splitS16 (codeAt .binary32 (nth 0) (row * z.rs + 4 * j) false)
    else ((inCode 0 row j).2, if planes pm = 2 then (inCode 1 row j).2 else .fin false 0 0, 0)
  let weight (p j o : Nat) : Nat × FVal :=
    let b := j / g * z.ngs + o / 8
    let i := if wt = .ch4 then j % g / 2 else j % g
    let off := p * z.blocks * z.line + (b + i) % z.blocks * z.line + i * rowSize wt + o % 8 * (rowSize wt / 8)
    let sc := scaleAt wcodes ((p * z.blocks + b) * 8 + o % 8)
    let code := codeAt wt wdata off (j % 2 == 1)
    (sc, if scaled wt then blockValue wt sc code else decodeF .ch16 code)
  -- the sum of a CX3 pass is the third plane as stored (R154)
  let pmW (p : Pass) : Pass := if pm = .cx3 && p.w = .both then { p with w := .first } else p
  let wsel (p : Pass) (o j : Nat) : FVal × FVal :=
    if pm = .cx3 && p.w = .both then ((weight 2 j o).2, .fin false 0 0)
    else ((weight 0 j o).2, if z.wplanes = 1 then .fin false 0 0 else (weight 1 j o).2)
  let slices := (List.range z.kgs).map fun kg => (List.range (min g (k - kg * g))).map (kg * g + ·)
  let xEvents := if pm = .s16x3 then
      (List.range m).foldl (fun f row => (List.range k).foldl (fun f j => f ||| (xs row j).2.2) f) 0
    else 0
  let inPoison := scaled it && (List.range (planes pm * m * z.kgs)).any fun i => scaleAt (nth 1) i == 255
  let wPoison := scaled wt && (List.range z.wplanes).any fun p => (List.range n).any fun o =>
    (List.range z.kgs).any fun kg => scaleAt wcodes ((p * z.blocks + kg * z.ngs + o / 8) * 8 + o % 8) == 255
  let extra := flagIf (ue || ue' || inPoison || wPoison) flagNV ||| a40Events xEvents
  let start (t : Tile) (i : Nat) : Accum := ⟨if accum then some (Store.get 0 t.elems i) else none, 0⟩
  let step (ts : Tile × Tile) (e : Nat × Nat) : Tile × Tile :=
    let (row, o) := e
    let i := row * 16 + o
    let (p, q) := (passesOf pm).foldl (fun acc p => slices.foldl (fun acc ks =>
      passAdd false (pmW p) (fun j => ((xs row j).1, (xs row j).2.1)) (wsel p o) ks acc) acc) (start ts.1 i, start ts.2 i)
    let put (t : Tile) (a : Accum) : Tile :=
      match a.val with
      | some v => { t with elems := Store.set 0 t.elems i v, events := t.events ||| a.events }
      | none => t
    (put ts.1 p, put ts.2 q)
  let (re, im) := ((List.range m).flatMap fun row => (List.range n).map fun o => (row, o)).foldl step
    (v.tile acc, v.tile (imagAcc acc))
  let passes := (passesOf pm).length
  (s.modCell c fun v => ({ v with staging := false }.release .staging).enter pm acc true
    { re with events := re.events ||| extra } { im with events := im.events ||| extra } false true
    [(wa, mmtWeightBytes it wt pm n k)]).countProduct c (rowCycles it * m * z.kgs * z.ngs * passes) (m * n * k * passes)

/-- STAGING_COMPLETE: the MMT at the head of issue issues, and its staged range is released (R142,
R158). A pending arithmetic trap is taken before it (R51). -/
def execStagingComplete (c : CellId) (s : State) : Out :=
  let v := s.cell c
  if !v.staging || !s.canRun c || v.arithDue then .next s
  else match v.head c with
    | some (n, .instr (.mmt _ acc r it wt accum pm w sh)) =>
      .next ((((mmtProduct c acc r it wt accum pm w sh s v).modCell c fun v => v.retire n).settle c).countIssue c
        (.mmt c acc r it wt accum pm w sh))
    | _ => .next s

/-- The first product that a test holds of is changed. -/
def modFirst (t : Product → Bool) (f : Product → Product) : List Product → List Product
  | [] => []
  | p :: l => if t p then f p :: l else p :: modFirst t f l

/-- LAST_INPUT_ROW_TAKEN: the in-use range of the product is released (R139, R158). -/
def execLastInputRowTaken (c : CellId) (s : State) : Out :=
  let v := s.cell c
  match v.products.find? fun p => !p.rowsTaken with
  | some p =>
    let ps := modFirst (fun q => !q.rowsTaken) (fun q => { q with rowsTaken := true }) v.products
    .next (s.setCell c ({ v with products := ps }.release (.product p.id)))
  | none => .next s

/-- PRODUCT_COMPLETE: the last row of the oldest product is written (R150). -/
def execProductComplete (c : CellId) (s : State) : Out :=
  let v := s.cell c
  match v.products with
  | p :: l =>
    if p.rowsTaken then .next (s.setCell c (p.tiles.foldl (fun v t => v.setTile t.1 t.2) { v with products := l }))
    else .next s
  | [] => .next s

/-! ### Write-back (R127 to R129, R149) -/

/-- One element as MWB writes it, with its flags (R128, R129). -/
def wbElem (dt : ElemType) (pair : Bool) (x : BitVec 40) : List Byte × AFlags :=
  if pair then
    let (h, l, f) := pairOf x
    (leBytes 4 h ++ leBytes 4 l, f)
  else
    let (r, f) := roundF (fmtOf dt) (decodeF .a40 x.toNat)
    (leBytes (elemBits dt / 8) r, f)

/-- MWB (R127 to R129, R149, R158). -/
def execMwb (c : CellId) (acc : AccNo) (r : SReg) (dt : ElemType) (pair keep : Bool) (sh : SReg) (s : State) : Out :=
  .next (s.issue c (.mwb c acc r dt pair keep sh) fun s v p _ =>
    match mwbJudge v acc r dt pair keep sh with
      | .trap k x => .trap k x
      | .ready =>
          let (m, n, _) := shapeOf (v.s sh)
          let t := v.tile acc
          let w := if t.wide then 16 else 8
          let a := v.s r
          let z := wbSize dt pair
          let extent := mwbExtent t.wide dt pair m n
          let rows := (List.range m).map fun i =>
            let es := (List.range n).map fun j => wbElem dt pair (Store.get 0 t.elems (i * w + j))
            (a.toNat + i * w * z, es.flatMap (·.1), es.foldl (fun f e => f ||| e.2) 0)
          .done (s.setCell c { v with
            writebacks := v.writebacks ++ [⟨v.nextId, acc, p, keep, m, rows.map (fun x => (x.1, x.2.1)),
              rows.foldl (fun f x => f ||| x.2.2) t.events⟩]
            board := v.board ++ [sbEntry a.toNat extent true (.writeback v.nextId)]
            nextId := v.nextId + 1 })
      | .noWork => .done s
      | _ => .hold)

/-- View rows 0 to m − 1 of a tile cleared to +0, and its events (R149). -/
def Tile.clearRows (t : Tile) (m : Nat) : Tile :=
  { t with elems := t.elems.filter fun e => decide (m * (if t.wide then 16 else 8) ≤ e.1), events := 0 }

/-- MWB_COMPLETE: of the oldest unfinished MWB the rows are written, KEEP = 0 clears them, the flags join CL_AFLAGS and the busy range
is released (R51, R127, R149, R158). -/
def execMwbComplete (c : CellId) (s : State) : Out :=
  let v := s.cell c
  match v.writebacks with
  | [] => .next s
  | w :: l =>
    let s := w.bytes.foldl (fun s r => s.loftPut c r.1 r.2) s
    .next (s.modCell c fun v =>
      let v := ({ v with writebacks := l }.raiseFlags w.flags w.addr).release (.writeback w.id)
      if w.keep then v else v.setTile w.acc ((v.tile w.acc).clearRows w.rows))

/-- MCLR (R90, R127, R145, R151, R152). -/
def execMclr (c : CellId) (acc : AccNo) (s : State) : Out :=
  .next (s.issue c (.mclr c acc) fun s v _ _ =>
    if !v.tileFree acc then .hold
    else .done (s.setCell c (v.setTile acc { v.tile acc with elems := [], events := 0 })))

end Sys2Proof.Machine
end

