-- ==== Sys2Proof/Machine/CellScalar.lean ====
section
/-! DEFINITION. Control, scalar ALU and counter instructions of a cell (R75 to R80, R94). -/

namespace Sys2Proof.Machine

/-! ### Control, major 0x0 (R75 to R77) -/

/-- NOP (R75). -/
def execNop (c : CellId) (s : State) : Out := .next (s.issue c (.nop c) fun s _ _ _ => .done s)

/-- A call to a target: the address after the call is pushed, or STACK_OVF (R39). -/
def callTo (c : CellId) (target : PAddr) (s : State) (v : Cell) (_ : PAddr) (n : Nat) : Act :=
  if 8 ≤ v.rstack.length then .trap 3 0
  else .jump (s.setCell c { v with rstack := v.afterHead n :: v.rstack }) target

/-- RET (R39). -/
def execRet (c : CellId) (s : State) : Out :=
  .next (s.issue c (.ret c) fun s v _ _ =>
    match v.rstack with
    | [] => .trap 4 0
    | t :: l => .jump (s.setCell c { v with rstack := l }) t)

/-- JR (R75): bits 12:0 of the register. -/
def execJr (c : CellId) (r : SReg) (s : State) : Out :=
  .next (s.issue c (.jr c r) fun s v _ _ => .jump s ((v.s r).setWidth 13))

/-- CALLR (R75). -/
def execCallr (c : CellId) (r : SReg) (s : State) : Out :=
  .next (s.issue c (.callr c r) fun s v a n => callTo c ((v.s r).setWidth 13) s v a n)

/-- LEXIT (R77), correcting fetch (R43). -/
def execLexit (c : CellId) (k : CtrNo) (s : State) : Out :=
  .next (s.issue c (.lexit c k) fun s v _ n => .done (s.setCell c (v.changeLoop n k fun v => v.endLoop k)))

/-- B (R66, R75). -/
def execB (c : CellId) (disp : PAddr) (s : State) : Out :=
  .next (s.issue c (.b c disp) fun s _ a _ => .jump s (a + disp))

/-- CALL (R39, R66). -/
def execCall (c : CellId) (disp : PAddr) (s : State) : Out :=
  .next (s.issue c (.call c disp) fun s v a n => callTo c (a + disp) s v a n)

/-- BCC (R74, R75). -/
def execBcc (c : CellId) (cond : Cond) (disp : PAddr) (s : State) : Out :=
  .next (s.issue c (.bcc c cond disp) fun s v a _ => if v.cond.holds cond then .jump s (a + disp) else .done s)

/-- The trip count of LOOP (R76). -/
def Cell.trips (v : Cell) : TripCount → BitVec 24
  | .imm n => n.setWidth 24
  | .reg r => (v.s r).setWidth 24

/-- LOOP (R40, R76): sets the loop up, abandoning an earlier one on the counter (R42); a trip count of
zero skips the body as a taken branch. -/
def execLoop (c : CellId) (k : CtrNo) (len : BitVec 11) (t : TripCount) (s : State) : Out :=
  .next (s.issue c (.loop c k len t) fun s v _ n =>
    let start := v.afterHead n
    let after := start + len.setWidth 13
    let trips := v.trips t
    let v := v.endLoop k
    if trips = 0 then
      .jump (s.setCell c (v.setLoop k { v.loop k with count := 0 })) after
    else
      let v := v.setLoop k ⟨trips, start, after - 1, true⟩
      .done (s.setCell c { v with loopOrder := k :: v.loopOrder }))

/-! ### Scalar ALU, majors 0x1 and 0x2 (R78 to R80) -/

/-- A scalar result that writes Z, N, C and V. -/
def resultZNCV (a : PAddr) (d : Option (SReg × Word)) (f : CondBits) : Result :=
  { unit := .scalar, addr := a, sdst := d, zn := some (f.z, f.n), c := some f.c, v := some f.v }

/-- A scalar result that writes Z and N from the value (R80). -/
def resultZN (a : PAddr) (d : SReg) (x : Word) : Result :=
  { unit := .scalar, addr := a, sdst := some (d, x), zn := some (x == 0, x.msb) }

/-- A scalar result that writes no condition bit. -/
def resultPlain (a : PAddr) (d : SReg) (x : Word) : Result := { unit := .scalar, addr := a, sdst := some (d, x) }

/-- The issue of a scalar ALU instruction. -/
def scalarOp (c : CellId) (i : Instr) (f : Cell → PAddr → Result) (s : State) : Out :=
  .next (s.issue c i (withResult c f))

/-- ADD (R79, R80). -/
def execAdd (c : CellId) (d a : SReg) (x : Src) (s : State) : Out :=
  scalarOp c (.add c d a x)
    (fun v p => resultZNCV p (some (d, v.s a + v.src x)) (CondBits.ofAdd (v.s a) (v.src x))) s

/-- ADDI (R78). -/
def execAddi (c : CellId) (d : SReg) (imm : BitVec 6) (s : State) : Out :=
  scalarOp c (.addi c d imm)
    (fun v p => resultZNCV p (some (d, v.s d + imm.signExtend 32)) (CondBits.ofAdd (v.s d) (imm.signExtend 32))) s

/-- SUB (R79, R80). -/
def execSub (c : CellId) (d a b : SReg) (s : State) : Out :=
  scalarOp c (.sub c d a b)
    (fun v p => resultZNCV p (some (d, v.s a - v.s b)) (CondBits.ofSub (v.s a) (v.s b))) s

/-- MOV (R79). -/
def execMov (c : CellId) (d : SReg) (x : Src) (s : State) : Out :=
  scalarOp c (.mov c d x) (fun v p => resultPlain p d (v.src x)) s

/-- MOVH (R79): the immediate into bits 31:16. -/
def execMovh (c : CellId) (d : SReg) (imm : BitVec 16) (s : State) : Out :=
  scalarOp c (.movh c d imm) (fun v p => resultPlain p d (imm ++ (v.s d).setWidth 16)) s

/-- CMP (R79, R80). -/
def execCmp (c : CellId) (a : SReg) (x : Src) (s : State) : Out :=
  scalarOp c (.cmp c a x) (fun v p => resultZNCV p none (CondBits.ofSub (v.s a) (v.src x))) s

/-- AND (R79). -/
def execAnd (c : CellId) (d a : SReg) (x : Src) (s : State) : Out :=
  scalarOp c (.and c d a x) (fun v p => resultZN p d ((v.s a) &&& (v.src x))) s

/-- OR (R79). -/
def execOr (c : CellId) (d a : SReg) (x : Src) (s : State) : Out :=
  scalarOp c (.or c d a x) (fun v p => resultZN p d ((v.s a) ||| (v.src x))) s

/-- XOR (R79). -/
def execXor (c : CellId) (d a : SReg) (x : Src) (s : State) : Out :=
  scalarOp c (.xor c d a x) (fun v p => resultZN p d ((v.s a) ^^^ (v.src x))) s

/-- SHL (R79: by bits 4:0 of the second operand). -/
def execShl (c : CellId) (d a : SReg) (x : Src) (s : State) : Out :=
  scalarOp c (.shl c d a x) (fun v p => resultZN p d ((v.s a) <<< ((v.src x).toNat % 32))) s

/-- SHR (R79: logical). -/
def execShr (c : CellId) (d a : SReg) (x : Src) (s : State) : Out :=
  scalarOp c (.shr c d a x) (fun v p => resultZN p d ((v.s a) >>> ((v.src x).toNat % 32))) s

/-- SRA (R79: arithmetic). -/
def execSra (c : CellId) (d a : SReg) (x : Src) (s : State) : Out :=
  scalarOp c (.sra c d a x) (fun v p => resultZN p d ((v.s a).sshiftRight ((v.src x).toNat % 32))) s

/-- MUL (R79: low 32 bits). -/
def execMul (c : CellId) (d a : SReg) (x : Src) (s : State) : Out :=
  scalarOp c (.mul c d a x) (fun v p => resultZN p d ((v.s a) * (v.src x))) s

/-- MULH (R79: high 32 bits of the signed product). -/
def execMulh (c : CellId) (d a b : SReg) (s : State) : Out :=
  scalarOp c (.mulh c d a b) (fun v p => resultZN p d (BitVec.ofInt 32 ((v.s a).toInt * (v.s b).toInt / 2 ^ 32))) s

/-- MIN (R79: signed). -/
def execMin (c : CellId) (d a : SReg) (x : Src) (s : State) : Out :=
  scalarOp c (.min c d a x) (fun v p => resultZN p d (if (v.s a).toInt ≤ (v.src x).toInt then v.s a else v.src x)) s

/-- MAX (R79: signed). -/
def execMax (c : CellId) (d a : SReg) (x : Src) (s : State) : Out :=
  scalarOp c (.max c d a x) (fun v p => resultZN p d (if (v.s a).toInt ≤ (v.src x).toInt then v.src x else v.s a)) s

/-- MINU (R79: unsigned). -/
def execMinu (c : CellId) (d a : SReg) (x : Src) (s : State) : Out :=
  scalarOp c (.minu c d a x) (fun v p => resultZN p d (if (v.s a).toNat ≤ (v.src x).toNat then v.s a else v.src x)) s

/-- MAXU (R79: unsigned). -/
def execMaxu (c : CellId) (d a : SReg) (x : Src) (s : State) : Out :=
  scalarOp c (.maxu c d a x) (fun v p => resultZN p d (if (v.s a).toNat ≤ (v.src x).toNat then v.src x else v.s a)) s

/-! ### Loop counters, major 0x9 (R43, R94) -/

/-- CRD: the counter after the end tests of every word that issued before (R43). -/
def execCrd (c : CellId) (k : CtrNo) (d : SReg) (s : State) : Out :=
  scalarOp c (.crd c k d) (fun v p => resultPlain p d ((v.loop k).count.setWidth 32)) s

/-- CWR, correcting fetch where the loop state changes (R43). -/
def execCwr (c : CellId) (k : CtrNo) (r : SReg) (s : State) : Out :=
  .next (s.issue c (.cwr c k r) fun s v _ n =>
    .done (s.setCell c (v.changeLoop n k fun v => v.setLoop k { v.loop k with count := (v.s r).setWidth 24 })))

end Sys2Proof.Machine
end

