-- ==== Sys2Proof/Machine/CellVector.lean ====
section
/-! DEFINITION. Vector arithmetic, conversion and block instructions of a cell (R85 to R89, R111 to
R124). -/

namespace Sys2Proof.Machine

/-- One element that an instruction writes: its bit offset in the register, its width, its code and the
flags it raises. -/
structure Elem where
  off   : Nat
  width : Nat
  code  : Nat
  flags : AFlags
  deriving DecidableEq, Repr

/-- The lane of an element is not masked (R85, R87). -/
def laneOpen (mask : BitVec 16) (off : Nat) : Bool := mask.getLsbD (off / 32)

/-- A register with elements written into its unmasked lanes, and the flags of those elements. -/
def placeElems (mask : BitVec 16) : List Elem → Vec512 → Vec512 × AFlags
  | [], x => (x, 0)
  | e :: l, x =>
    if laneOpen mask e.off then
      let (y, f) := placeElems mask l (putBits x (e.off + e.width - 1) e.off e.code)
      (y, e.flags ||| f)
    else placeElems mask l x

/-- The element of a register at a bit offset. -/
def elemAt (x : Vec512) (off w : Nat) : Nat := bits x (off + w - 1) off

/-- The elements of a register of a type, computed from their offsets (R71). -/
def lanewise (w : Nat) (f : Nat → Nat × AFlags) : List Elem :=
  (List.range (512 / w)).map fun i =>
    let (r, fl) := f (i * w)
    ⟨i * w, w, r, fl⟩

/-- The issue of a vector instruction whose result is one register. -/
def vectorOp (c : CellId) (i : Instr) (d : VReg) (f : Cell → List Elem) (s : State) : Out :=
  .next (s.issue c i (withResult c fun v p =>
    let (x, fl) := placeElems v.vmask (f v) (v.v d)
    { unit := .vector, addr := p, vdst := [(d, x)], flags := fl }))

/-- An element-wise operation of two operands. -/
def binary (t : ElemType) (op : Fmt → Nat → Nat → Nat × AFlags) (a b : VReg) (v : Cell) : List Elem :=
  lanewise (elemBits t) fun o => op (fmtOf t) (elemAt (v.v a) o (elemBits t)) (elemAt (v.v b) o (elemBits t))

/-- An element-wise operation with the destination as the addend (R86). -/
def ternary (negate : Bool) (t : ElemType) (d a b : VReg) (v : Cell) : List Elem :=
  lanewise (elemBits t) fun o =>
    fmaC negate (fmtOf t) (elemAt (v.v a) o (elemBits t)) (elemAt (v.v b) o (elemBits t))
      (elemAt (v.v d) o (elemBits t))

/-- A bitwise operation over 32-bit lanes (R86). -/
def bitwise (op : Nat → Nat → Nat) (a b : VReg) (v : Cell) : List Elem :=
  lanewise 32 fun o => (op (elemAt (v.v a) o 32) (elemAt (v.v b) o 32), 0)

/-- VADD (R86, R111, R112). -/
def execVadd (c : CellId) (t : ElemType) (d a b : VReg) (s : State) : Out :=
  vectorOp c (.vadd c t d a b) d (binary t addC a b) s

/-- VSUB (R86, R111, R112). -/
def execVsub (c : CellId) (t : ElemType) (d a b : VReg) (s : State) : Out :=
  vectorOp c (.vsub c t d a b) d (binary t subC a b) s

/-- VMUL (R86, R111, R112). -/
def execVmul (c : CellId) (t : ElemType) (d a b : VReg) (s : State) : Out :=
  vectorOp c (.vmul c t d a b) d (binary t mulC a b) s

/-- VFMA (R86, R111). -/
def execVfma (c : CellId) (t : ElemType) (d a b : VReg) (s : State) : Out :=
  vectorOp c (.vfma c t d a b) d (ternary false t d a b) s

/-- VFNMA (R86, R111). -/
def execVfnma (c : CellId) (t : ElemType) (d a b : VReg) (s : State) : Out :=
  vectorOp c (.vfnma c t d a b) d (ternary true t d a b) s

/-- VMIN (R86, R114). -/
def execVmin (c : CellId) (t : ElemType) (d a b : VReg) (s : State) : Out :=
  vectorOp c (.vmin c t d a b) d (binary t (minMaxC false) a b) s

/-- VMAX (R86, R114). -/
def execVmax (c : CellId) (t : ElemType) (d a b : VReg) (s : State) : Out :=
  vectorOp c (.vmax c t d a b) d (binary t (minMaxC true) a b) s

/-- VCEQ (R86, R113). -/
def execVceq (c : CellId) (t : ElemType) (d a b : VReg) (s : State) : Out :=
  vectorOp c (.vceq c t d a b) d (binary t (cmpC .eq) a b) s

/-- VCLT (R86, R113). -/
def execVclt (c : CellId) (t : ElemType) (d a b : VReg) (s : State) : Out :=
  vectorOp c (.vclt c t d a b) d (binary t (cmpC .lt) a b) s

/-- VCLE (R86, R113). -/
def execVcle (c : CellId) (t : ElemType) (d a b : VReg) (s : State) : Out :=
  vectorOp c (.vcle c t d a b) d (binary t (cmpC .le) a b) s

/-- VAND (R86). -/
def execVand (c : CellId) (d a b : VReg) (s : State) : Out :=
  vectorOp c (.vand c d a b) d (bitwise Nat.land a b) s

/-- VOR (R86). -/
def execVor (c : CellId) (d a b : VReg) (s : State) : Out :=
  vectorOp c (.vor c d a b) d (bitwise Nat.lor a b) s

/-- VXOR (R86). -/
def execVxor (c : CellId) (d a b : VReg) (s : State) : Out :=
  vectorOp c (.vxor c d a b) d (bitwise Nat.xor a b) s

/-- TWOSUM and TWOPROD: the rounded result to vd and the error term to vd + 1, under the lane mask in
both (R85, R115). -/
def twoOp (c : CellId) (i : Instr) (op : Nat → Nat → Nat × Nat × AFlags) (d a b : VReg) (s : State) : Out :=
  .next (s.issue c i (withResult c fun v p =>
    let r (o : Nat) := op (elemAt (v.v a) o 32) (elemAt (v.v b) o 32)
    let (x, fx) := placeElems v.vmask (lanewise 32 fun o => ((r o).1, (r o).2.2)) (v.v d)
    let (y, _) := placeElems v.vmask (lanewise 32 fun o => ((r o).2.1, 0)) (v.v (d + 1))
    { unit := .vector, addr := p, vdst := [(d, x), (d + 1, y)], flags := fx }))

/-- TWOSUM (R115). -/
def execTwosum (c : CellId) (d a b : VReg) (s : State) : Out := twoOp c (.twosum c d a b) twoSumC d a b s

/-- TWOPROD (R115). -/
def execTwoprod (c : CellId) (d a b : VReg) (s : State) : Out := twoOp c (.twoprod c d a b) twoProdC d a b s

/-- The bit offset of element i of a group of 16: a 4-byte type fills the register, a packed one starts
at the part (R73, R88). -/
def groupOff (t : ElemType) (part i : Nat) : Nat :=
  match groupUnits t with
  | none => 32 * i
  | some _ => part * 64 + i * elemBits t

/-- VCVT of 16 elements (R88, R116). -/
def execVcvt (c : CellId) (part : BitVec 3) (src dst : ElemType) (d a : VReg) (s : State) : Out :=
  vectorOp c (.vcvt c part src dst d a) d (fun v =>
    (List.range 16).map fun i =>
      let (r, fl) := cvtC src dst (elemAt (v.v a) (groupOff src part.toNat i) (elemBits src))
      ⟨groupOff dst part.toNat i, elemBits dst, r, fl⟩) s

/-- The binary32 codes of `n` registers from `y` on (R89). -/
def blockCodes (v : Cell) (y : VReg) (n : Nat) : List Nat :=
  (vregsFrom y n).flatMap fun r => (List.range 16).map fun i => elemAt (v.v r) (32 * i) 32

/-- VBENC (R89, R121 to R123): the scale is chosen from every element, masked or not; a masked element
raises no flag and is not counted (R87). -/
def execVbenc (c : CellId) (bs : BlockSize) (t : ElemType) (sc : SReg) (part : BitVec 3) (x y : VReg)
    (s : State) : Out :=
  .next (s.issue c (.vbenc c bs t sc part x y) (withResult c fun v p =>
    let codes := blockCodes v y (blockGroups bs)
    let scale := blockScale t (codes.map (decodeF .b32))
    let w := elemBits t
    let rs := codes.map fun k => (k, blockElem t scale (decodeF .b32 k))
    let elems := (List.range rs.length).zip rs |>.map fun (i, k, r, fl, lost) =>
      ((⟨part.toNat * 64 + i * w, w, r, fl ||| inputFlags .b32 k⟩ : Elem), lost)
    let (z, fl) := placeElems v.vmask (elems.map (·.1)) (v.v x)
    { unit := .vector, addr := p, sdst := some (sc, BitVec.ofNat 32 scale), vdst := [(x, z)], flags := fl
      lost := (elems.filter fun e => e.2 && laneOpen v.vmask e.1.off).length }))

/-- VBDEC (R89, R118 to R120). -/
def execVbdec (c : CellId) (bs : BlockSize) (t : ElemType) (sc : SReg) (part : BitVec 3) (x y : VReg)
    (s : State) : Out :=
  .next (s.issue c (.vbdec c bs t sc part x y) (withResult c fun v p =>
    let scale := (v.s sc).toNat % 256
    let w := elemBits t
    let out := (List.range (blockGroups bs)).map fun g =>
      let elems := (List.range 16).map fun i =>
        let (r, fl) := roundF .b32 (blockValue t scale (elemAt (v.v x) (part.toNat * 64 + (16 * g + i) * w) w))
        (⟨32 * i, 32, r, fl⟩ : Elem)
      let d : VReg := BitVec.ofNat 3 (y.toNat + g)
      let (z, fl) := placeElems v.vmask elems (v.v d)
      ((d, z), fl)
    { unit := .vector, addr := p, vdst := out.map (·.1)
      flags := out.foldl (fun f e => f ||| e.2) (flagIf (scale == 255 && v.vmask != 0) flagNV) }))

end Sys2Proof.Machine
end

