-- ==== Sys2Proof/Machine/Clocks.lean ====
section
/-! DEFINITION. Crystals, the root loop, field loops and the spread profile (R469 to R478). -/

namespace Sys2Proof.Machine

/-- Bits of CK_LOCK: the field loops; the companion loops and the root loop. -/
def fieldLoops : BitVec 63 := BitVec.ofNat 63 (2 ^ 48 - 1)
def otherLoops : BitVec 63 := ~~~fieldLoops
/-- The bit of a domain. -/
def loopBit (domain : Nat) : BitVec 63 := BitVec.ofNat 63 (2 ^ domain)

/-- A crystal passes a window (R470). -/
def countOk (n : BitVec 18) : Bool := 97000 ≤ n.toNat && n.toNat ≤ 103000
/-- The crystals agree in a window (R470). -/
def agreeOk (n : BitVec 18) : Bool := 99980 ≤ n.toNat && n.toNat ≤ 100020

/-- Passes in a row after a window. -/
def passes (n : Nat) (ok : Bool) : Nat := if ok then n + 1 else 0

/-- The status of a crystal after a window of stage 3: STABLE from three passes in a row, FAILED after 40 windows
without it; the check that repeats after a holdover goes on (R470, R473). -/
def checkStatus (x : BitVec 2) (n windows : Nat) (recheck : Bool) : BitVec 2 :=
  if x = 1 then 1
  else if 3 ≤ n && (x = 0 || recheck) then 1
  else if x = 0 && 40 ≤ windows then 2
  else x

/-- The counts of a window are recorded (CK_XCOUNT). -/
def Clocks.window (c : Clocks) (xa xb ratio : BitVec 18) : Clocks :=
  { c with
    cntA := xa
    cntB := xb
    windows := c.windows + 1
    passA := passes c.passA (countOk xa)
    passB := passes c.passB (countOk xb)
    agree := agreeOk ratio }

/-- A window of stage 3; the agreement that R471 asks for is that of the window in which both are stable. -/
def Clocks.check (c : Clocks) (recheck : Bool) : Clocks :=
  let c := { c with xa := checkStatus c.xa c.passA c.windows recheck, xb := checkStatus c.xb c.passB c.windows recheck }
  if c.agree3.isNone && c.xa = 1 && c.xb = 1 then { c with agree3 := some c.agree } else c

/-- The selected crystal has failed in service: holdover, and a relock to XB where it qualifies (R472). `agreed`
is the agreement of the last window before. -/
def Clocks.holdover (c : Clocks) (agreed : Bool) (tick : Nat) : Clocks :=
  let c := { c with switches := satAdd c.switches 1, since := some tick }
  if c.sel = 0 then { c with sel := 2, xa := 2, relocking := decide (3 ≤ c.passB) && agreed }
  else { c with sel := 2, xb := 2, relocking := false }

/-- STABILITY_WINDOW: at stage 3, and in service on both crystals (R470, R472). -/
def execStabilityWindow (xa xb xbOverXa : BitVec 18) (s : State) : Out :=
  let agreed := s.clocks.agree
  let c := s.clocks.window xa xb xbOverXa
  if s.boot.done < 2 then .next s
  else if s.boot.done = 2 then .next { s with clocks := c.check s.boot.recheck }
  else
    let failed := (c.sel == 0 && !countOk xa) || (c.sel == 1 && !countOk xb)
    .next { s with clocks := (if failed then c.holdover agreed s.tick else c : Clocks) }

/-- The root loop locks to a crystal, and stage 3 ends; after a holdover the ward carries out a warm reset (R471,
R473). -/
def State.rootLocks (s : State) (c : Clocks) : State :=
  let xb := c.sel == 1
  let s := { s with
    clocks := { c with lock := c.lock ||| otherLoops, since := none, relocking := false }
    boot := { s.boot with xb := xb } }
  if s.boot.recheck then s.warmBegin 3 else s.powerStage.refreshAlert

/-- CRYSTAL_CHECK: the selection at stage 3, once each crystal is stable or failed (R471). -/
def execCrystalCheck (s : State) : Out :=
  let c := s.clocks
  if s.boot.done ≠ 2 || c.xa = 0 || c.xb = 0 then .next s
  else if c.xa = 1 && (c.xb != 1 || c.agree3 == some true) then .next (s.rootLocks { c with sel := 0 })
  else if c.xb = 1 then
    let cause : BitVec 2 := if c.xa = 1 then 3 else c.xa
    .next (s.rootLocks { c with sel := 1, xa := cause })
  else .next { s with boot := { s.boot with err := 2 } }.refreshAlert

/-- CRYSTAL_FAIL: the edges of the selected crystal have stopped for 40 FOSC cycles (R472). -/
def execCrystalFail (s : State) : Out :=
  let c := s.clocks
  if s.boot.done < 3 || 2 ≤ c.sel.toNat then .next s
  else .next { s with clocks := c.holdover c.agree s.tick }

/-- ROOT_LOOP_RELOCK: the root loop has relocked to XB (R472). -/
def execRootLoopRelock (s : State) : Out :=
  let c := s.clocks
  if c.sel = 2 && c.relocking then
    .next { s with
      clocks := { c with sel := 1, since := none, relocking := false }
      boot := { s.boot with xb := true } }
  else .next s

/-- Every hub's loop stops. -/
def State.stopLoops (s : State) : State :=
  { s with hubs := s.hubs.map fun (e : Nat × Hub) => (e.1, ({ e.2 with clkStop := true } : Hub)) }

/-- HOLDOVER_TIMEOUT: 10 ms of holdover without a relock (R473). -/
def execHoldoverTimeout (s : State) : Out :=
  let c := s.clocks
  match c.since with
  | none => .next s
  | some t =>
    if c.sel ≠ 2 || s.tick < t + 1000000 then .next s
    else .next ({ s.stopLoops with
      clocks := { c with
        sel := 3, xa := 0, xb := 0, since := none, relocking := false, windows := 0, passA := 0, passB := 0, agree3 := none
        lock := c.lock &&& otherLoops &&& ~~~(loopBit 62) }
      boot := { s.boot with stage := 3, err := 2, done := 2, recheck := true } }).refreshAlert

/-! ### Field loops (R478) -/

/-- The crossings of a field with its neighbours: cell and port. -/
def fieldCrossings (f : FieldNo) : List (CellId × Nat) :=
  (rectCells (78 * fxOf f) (64 * fyOf f) 78 64).flatMap fun c =>
    ([0, 1, 2, 3].filter fun d => (neighbour c d).any fun n => fieldOf n != f).map fun d => (c, d)

/-- Both sides of a crossing count a stitch lock error, and it goes DOWN (R236). -/
def State.stitchLost (s : State) (c : CellId) (d : Nat) : State :=
  let lost (s : State) (f : FieldNo) : State := s.modHub f fun h => { h with stitcherr := satAdd h.stitcherr 1 }
  match neighbour c d with
  | none => s
  | some n => (lost (lost s (fieldOf c)) (fieldOf n)).setLink c d .down

/-- LOOP_LOCK_LOSS: a loop loses lock in service; a field's clock stops, and its crossings go DOWN (R478). -/
def execLoopLockLoss (domain : BitVec 6) (s : State) : Out :=
  let d := domain.toNat
  let c := s.clocks
  if d = 63 || !c.lock.getLsbD d then .next s
  else
    let s := { s with clocks := { c with lock := c.lock &&& ~~~(loopBit d), relock := satAdd c.relock 1 } }
    if d < 48 then
      let s := s.modHub domain fun h => { h with clkStop := true }
      .next ((fieldCrossings domain).foldl (fun s (x : CellId × Nat) =>
        if s.linkState x.1 x.2 = .down then s else s.stitchLost x.1 x.2) s)
    else .next s

/-- FIELD_LOOP_RELOCK: the clock runs again, and the ward retrains the crossings that are DOWN (R455, R478). -/
def execFieldLoopRelock (f : FieldNo) (s : State) : Out :=
  let h := s.hub f
  if 48 ≤ f.toNat || !h.powered || h.dark || s.clocks.lock.getLsbD f.toNat || s.boot.done < 4 || s.dormant then .next s
  else
    let s := s.fieldLocks f
    .next ((fieldCrossings f).foldl (fun s (x : CellId × Nat) =>
      if s.linkState x.1 x.2 = .down && s.endsOk x.1 x.2 && !s.linksOut.contains (linkName x.1 x.2) then s.setLink x.1 x.2 .init
      else s) s)

/-! ### Spread spectrum (R476, R477) -/

/-- SSC_PERIOD_START: a profile period has passed, and the value of CK_SSC takes effect on every field. -/
def execSscPeriodStart (s : State) : Out :=
  let c := s.clocks
  if s.tick < c.sscStart + 200000 / c.rate.toNat then .next s
  else .next { s with clocks := { c with depth := c.ssc.1, rate := c.ssc.2, sscStart := s.tick } }

/-- The frequency of every field loop at the present tick, in kHz: a triangle of the period, from its top, one step of
DEPTH being 0.025 % of 940 MHz (R476). -/
def State.fieldFrequency (s : State) : Nat :=
  let c := s.clocks
  let period := 200000 / c.rate.toNat
  let x := (s.tick - c.sscStart) % max 1 period
  940000 - 235 * c.depth.toNat * (2 * min x (period - x)) / max 1 period

/-! ### The CLKMON pin (R479) -/

/-- A domain's clock runs: its loop holds lock and, for a field, the field is not dark, its clock is not stopped, and it is
not GATED without ballast; domain W falls back to FOSC (R442, R474, R491). -/
def State.domainRuns (s : State) (n : Nat) : Bool :=
  if n < 48 then
    let f : FieldNo := BitVec.ofNat 6 n
    let h := s.hub f
    h.powered && !h.dark && !h.clkStop && (!s.gated f || h.power.ballast != 0)
  else if n < 62 then s.clocks.lock.getLsbD n
  else true

/-- What the CLKMON pin shows: the source and the divisor, none where it is held low. -/
def State.clkmonPin (s : State) : Option (Nat × Nat) :=
  let n := s.clocks.monSel.toNat
  if n = 127 || (n < 64 && !s.domainRuns n) then none else some (n, s.clocks.monDiv.toNat + 1)

end Sys2Proof.Machine
end

