-- ==== Sys2Proof/Machine/Link.lean ====
section
/-! DEFINITION. Frames and events of Chonel links: what a receiver takes from a frame, what a sender
sends, replay, sparing, training and time (R313 to R335, R344). -/

namespace Sys2Proof.Machine

/-! ### Receiving -/

/-- A codeword is judged: errors are counted, and logged where they lose the frame (R323). The flag says that
the frame can be read. -/
def State.rxFrame (s : State) (m : MillNo) (g : BitVec 2) (rx : RxQuality) : State × Bool :=
  let nak (s : State) : State := s.modMill m fun v => if v.link = 7 then { v with nak := true } else v
  if !rx.decodes then
    (nak (((s.linkError m 0 g.toNat 0).modMill m fun v => { v with ue := satAdd v.ue 1 }).count (millCtr m 4) 1), false)
  else
    let s := if rx.corrected then s.modMill m fun v => { v with ce := satAdd v.ce 1 } else s
    if !rx.crcOk then (nak (s.linkError m 1 g.toNat 0), false)
    -- a reserved type is logged as a CRC error (R317)
    else if !rx.typeOk then (s.linkError m 1 g.toNat 0, false)
    else (s, true)

/-- Frames up to and including a sequence number are acknowledged. -/
def Mill.ackTo (v : Mill) (a : BitVec 16) (tick : Nat) : Mill :=
  match v.unacked.findIdx? fun (e : BitVec 16 × List Slot) => e.1 == a with
  | none => v
  | some i =>
    let gone := (v.unacked.take (i + 1)).map (·.1)
    { v with
      unacked := v.unacked.drop (i + 1)
      resend := v.resend.filter fun (e : BitVec 16 × List Slot) => !gone.contains e.1
      replays := none
      nakAt := none
      ackAt := tick }

/-- A replay starts from a sequence number, unless eight from it have passed: none where the link is to go
DOWN (R324). -/
def Mill.replay (v : Mill) (a : BitVec 16) (tick : Nat) : Option Mill :=
  match v.unacked.findIdx? fun (e : BitVec 16 × List Slot) => e.1 == a with
  | none => some v
  | some i =>
    let n := match v.replays with
      | some (x, n) => if x = a then n else 0
      | none => 0
    if 8 ≤ n then none
    else some { v with resend := v.unacked.drop i, replays := some (a, n + 1), ackAt := tick }

/-- The logical lane that a physical lane carries. -/
def logicalOf (sp0 sp1 : Option (BitVec 4)) (lane : Nat) : Option (BitVec 4) :=
  if lane = 16 then sp0
  else if lane = 17 then sp1
  else
    let n : BitVec 4 := BitVec.ofNat 4 lane
    if sp0 = some n || sp1 = some n then none else some n

/-- The physical lanes that carry a group, a spare among them. -/
def Mill.lanesOf (v : Mill) (g : Nat) : Nat :=
  (((List.range 18).filter fun p => (logicalOf v.sp0 v.sp1 p).any fun (n : BitVec 4) => n.toNat / 4 == g).map fun p => 2 ^ p).sum

/-- Groups of a bitmap. -/
def groupsIn (g : BitVec 4) : Nat := ((List.range 4).filter fun i => g.getLsbD i).length

/-- A group leaves service; the link goes DOWN where too few remain and no spare takes the lane (R328,
R329). -/
def State.dropGroup (s : State) (m : MillNo) (g : Nat) (spare : Bool) : State :=
  let bit : BitVec 4 := BitVec.ofNat 4 (2 ^ g)
  let s := s.modMill m fun v =>
    let lanes : BitVec 18 := BitVec.ofNat 18 (v.lanesOf g)
    { v with
      groups := v.groups &&& ~~~bit
      regroup := if spare then v.regroup ||| bit else v.regroup &&& ~~~bit
      locked := v.locked &&& ~~~lanes
      aligned := v.aligned &&& ~~~lanes
      since := s.tick }
  let v := s.mill m
  if !spare && groupsIn (v.groups ||| v.regroup) < bits v.cfg 13 12 + 1 then s.linkDown m 3 else s

/-- The partner asks for a spare: the sender moves the logical lane (R328). -/
def State.spareRequest (s : State) (m : MillNo) (lane : Nat) : State :=
  let v := s.mill m
  match logicalOf v.txSp0 v.txSp1 lane with
  | none => s
  | some n =>
    let moved : Option Mill :=
      if v.txSp0.isNone then some { v with txSp0 := some n }
      else if v.txSp1.isNone then some { v with txSp1 := some n }
      else none
    (s.setMill m (moved.getD v)).dropGroup m (n.toNat / 4) moved.isSome

/-- A credit return: LVC and freed slots (R317, R321). -/
def Mill.creditIn (v : Mill) (cr : BitVec 14) : Mill :=
  let i := cr.toNat / 4096
  { v with credits := v.credits.set i ((v.credits[i]?).getD 0 + cr.toNat % 4096) }

/-- The control field of a frame that can be read; `accepted` says whether the frame is (R317, R321, R324, R328, R335,
R344). -/
def State.rxControl (s : State) (m : MillNo) (ctl : FrameCtl) (accepted : Bool) : State :=
  let us := s.tick / 100 + 1
  let s := if ctl.pace && (s.mill m).paceAt != us then s.count (millCtr m 5) 1 else s
  let s := s.modMill m fun v => { v.sees s.tick with
    frameAt := if accepted then s.tick else v.frameAt
    peerPace := ctl.pace
    usec := if ctl.pace && v.paceAt != us then satAdd v.usec 1 else v.usec
    paceAt := if ctl.pace then us else v.paceAt }
  if (s.mill m).link ≠ 7 then s
  else
    let s := s.modMill m fun v => (v.creditIn ctl.cr0).creditIn ctl.cr1
    let s := s.modMill m fun v => v.ackTo (if ctl.nak then ctl.ack - 1 else ctl.ack) s.tick
    let s := if !ctl.nak then s
      else
        let v := s.mill m
        let early := match v.nakAt with
          | some (a, t) => a == ctl.ack && s.tick < t + v.rtt / 64 + 100
          | none => false
        if early || !(v.unacked.any fun (e : BitVec 16 × List Slot) => e.1 == ctl.ack) then s
        else match v.replay ctl.ack s.tick with
          | none => s.linkDown m 2
          | some v =>
            (s.setMill m { v with nakAt := some (ctl.ack, s.tick), nakrx := satAdd v.nakrx 1 }).count (millCtr m 3) 1
    if ctl.spareValid && (s.mill m).link = 7 then s.spareRequest m ctl.spareLane.toNat else s

/-- An accepted slot is kept for delivery, or dropped with its packet where the packet type is reserved
(R319, R340, R363). -/
def Mill.takeSlot (v : Mill) (x : Slot) : Mill :=
  let i := x.lvc.toNat
  let free (v : Mill) : Mill := { v with freed := v.freed.set i ((v.freed[i]?).getD 0 + 1) }
  if x.head then
    let t := flitCtype x.flit
    if 6 ≤ t || (t = 5 && flitSubtype x.flit = 7) then
      free { v with dropBad := satAdd v.dropBad 1, dropLeft := v.dropLeft.set i (flitLen x.flit) }
    else
      { v with
        inq := v.inq ++ [x]
        dropLeft := v.dropLeft.set i 0
        lastWafer := if flitPace x.flit then flitSwafer x.flit else v.lastWafer }
  else
    let n := (v.dropLeft[i]?).getD 0
    if n = 0 then { v with inq := v.inq ++ [x] } else free { v with dropLeft := v.dropLeft.set i (n - 1) }

/-- DATA (R323, R325). -/
def execData (m : MillNo) (g : BitVec 2) (ctl : FrameCtl) (rx : RxQuality) (slots : List Slot) (s : State) : Out :=
  let (s, readable) := s.rxFrame m g rx
  if !readable then .next s
  else
    let s := s.rxControl m ctl ((s.mill m).link == 7 && ctl.seq == (s.mill m).expect)
    let v := s.mill m
    if v.link ≠ 7 then .next s
    else if ctl.seq ≠ v.expect then .next (s.setMill m { v with nak := true })
    else
      let v := slots.foldl Mill.takeSlot { v with acked := ctl.seq, expect := v.expect + 1, nak := false }
      .next ((s.setMill m v).count (millCtr m 2) slots.length)

/-- IDLE (R318, R326). -/
def execIdle (m : MillNo) (g : BitVec 2) (ctl : FrameCtl) (rx : RxQuality) (s : State) : Out :=
  let (s, readable) := s.rxFrame m g rx
  if !readable then .next s
  else
    let s := s.rxControl m ctl true
    let v := s.mill m
    if v.link = 6 && ctl.seq = 0 && ctl.ack = 0xFFFF then
      .next (s.setMill m (({ v with idleGot := v.idleGot + 1 } : Mill).creditDone s.tick))
    else .next s

/-- A group that retrains alone rejoins once its lanes are found (R328). -/
def Mill.rejoinGroup (v : Mill) (g : Nat) : Mill :=
  let lanes := (List.range 18).filter fun p =>
    (logicalOf v.sp0 v.sp1 p).any (fun (n : BitVec 4) => n.toNat / 4 == g) && !v.failed.getLsbD p
  let bit : BitVec 4 := BitVec.ofNat 4 (2 ^ g)
  if v.regroup.getLsbD g && lanes.all fun p => v.locked.getLsbD p && v.aligned.getLsbD p then
    { v with regroup := v.regroup &&& ~~~bit, groups := v.groups ||| bit, spareReq := if v.regroup = bit then none else v.spareReq }
  else v

/-- A frame other than DATA and IDLE that can be read, with its control field taken (R318); none where it cannot, or where
the mill is DISABLED. -/
def State.readFrame (s : State) (m : MillNo) (g : BitVec 2) (ctl : FrameCtl) (rx : RxQuality) : State × Bool :=
  if (s.mill m).link = 0 then (s, false)
  else
    let (s, readable) := s.rxFrame m g rx
    if readable then (s.rxControl m ctl true, true) else (s, false)

/-- TRAIN (R318, R326, R344). -/
def execTrain (m : MillNo) (g : BitVec 2) (ctl : FrameCtl) (rx : RxQuality) (msg : TrainMsg) (s : State) : Out :=
  match s.readFrame m g ctl rx with
  | (s, false) => .next s
  | (s, true) =>
    let s := s.modMill m fun v => { v with peerState := msg.state, laneMap := if msg.laneMap.isEmpty then v.laneMap else msg.laneMap }
    if (s.mill m).link = 7 then
      if msg.down then .next (s.linkDown m 7) else .next (s.modMill m fun v => v.rejoinGroup g.toNat)
    else .next (s.modMill m fun v => v.alignDone s.tick)

/-- IDENT (R318, R330, R331). -/
def execIdent (m : MillNo) (x : IdentFrame) (s : State) : Out :=
  let r := x.id
  match s.readFrame m x.g x.ctl x.rx with
  | (s, false) => .next s
  | (s, true) =>
    let v := s.mill m
    let v' := { v with partner := some r }
    if v.link = 4 then
      if v.mismatch r then .next ((s.linkError m 4 0 0).setMill m { v' with reason := 4, errlog := ((s.linkError m 4 0 0).mill m).errlog })
      else .next (s.setMill m (v'.identDone s.tick))
    else if v.link = 7 then
      if v.mismatch r then .next ((s.setMill m v').linkToIdent m) else .next (s.setMill m v')
    else if v.link = 5 || v.link = 6 then
      if v.mismatch r then .next ((s.linkError m 4 0 0).modMill m fun v =>
        { v with partner := some r, reason := 4, link := 4, since := s.tick })
      else .next (s.setMill m v')
    else .next s

/-- The mill whose link the wafer's tick follows (R333). -/
def State.follows (s : State) : Option MillNo :=
  ((List.range 32).find? fun i =>
    let v := s.mill (BitVec.ofNat 5 i)
    v.link == 7 && v.role == 2).map (BitVec.ofNat 5)

/-- A signed number held to a width, at its ends where it lies outside. -/
def clampInt (w : Nat) (x : Int) : BitVec w := BitVec.ofInt w (max (-(2 ^ (w - 1) : Int)) (min (2 ^ (w - 1) - 1) x))

/-- The tick follows an offset: one beyond 10 µs is made up at once while no plot runs, any other is slewed away (R333; log
entry 75). -/
def State.adjustTick (s : State) (offset : Int) : State :=
  if offset.natAbs ≤ 64000 || !(s.plotsWith fun p => p.state == .running).isEmpty then { s with slew := offset * 125 / 2 }
  else if 0 < offset then { s with tick := s.tick + offset.natAbs / 64, slew := 0 }
  else { s with tickHold := offset.natAbs / 64, slew := 0 }

/-- TIME: the partner's request waits for its reply; a reply ends an exchange (R318, R332, R333). -/
def execTime (m : MillNo) (g : BitVec 2) (ctl : FrameCtl) (rx : RxQuality) (x : TimeFrame) (s : State) : Out :=
  match s.readFrame m g ctl rx with
  | (s, false) => .next s
  | (s, true) =>
    let v := s.mill m
    if v.link ≠ 5 && v.link ≠ 7 then .next s
    else match x.msg with
      | .request t1 => .next (s.setMill m { v with timeReply := some (t1, x.arrived) })
      | .reply t1 t2 t3 =>
        let d1 : Int := (t2.toNat : Int) - t1.toNat
        let d2 : Int := (x.arrived.toNat : Int) - t3.toNat
        let offset := (d1 - d2) / 2
        let client := v.role == 2 && v.partner.any (·.time)
        let v := { v with
          times := v.times + 1
          rtt := (d1 + d2).toNat
          offset := if client then clampInt 24 offset else v.offset }
        let s := s.setMill m (v.timeDone s.tick)
        .next (if client && s.follows == some m then s.adjustTick offset else s)

/-! ### Sending (R318, R319, R321) -/

/-- The first slot of an LVC that waits to be sent. -/
def firstOn (l : List Slot) (lvc : Nat) : Option Slot := l.find? fun x => x.lvc.toNat == lvc

/-- The LVC of the next slot to send: LVC 0, then the packet under way, then a new packet by round-robin
among LVCs 1 to 3 that hold the credits of the whole packet. -/
def Mill.nextLvc (v : Mill) : Option Nat :=
  let head (i : Nat) : Bool := (firstOn v.outq i).any (·.head)
  let ready (i : Nat) : Bool :=
    (firstOn v.outq i).any fun x => x.head && decide (1 + flitLen x.flit ≤ (v.credits[i]?).getD 0)
  if ready 0 then some 0
  else match [1, 2, 3].find? fun i => (firstOn v.outq i).isSome && !head i with
    | some i => some i
    | none => ((List.range 3).map fun i => (v.lastLvc + i) % 3 + 1).find? ready

/-- Slots are chosen for a frame. -/
def Mill.chooseSlots : Nat → Mill → Mill × List Slot
  | 0, v => (v, [])
  | fuel + 1, v =>
    match v.nextLvc with
    | none => (v, [])
    | some i =>
      match firstOn v.outq i with
      | none => (v, [])
      | some x =>
        let v := { v with
          outq := v.outq.erase x
          lastLvc := if x.head && i != 0 then i else v.lastLvc
          credits := if x.head then v.credits.set i ((v.credits[i]?).getD 0 - (1 + flitLen x.flit)) else v.credits }
        let (v, l) := Mill.chooseSlots fuel v
        (v, x :: l)

/-- Freed slots of the first two LVCs that have any are returned (R321). -/
def Mill.creditOut (v : Mill) : Mill × BitVec 14 × BitVec 14 :=
  let one (v : Mill) : Mill × BitVec 14 :=
    match [0, 1, 2, 3].find? fun i => (v.freed[i]?).getD 0 != 0 with
    | none => (v, 0)
    | some i =>
      let n := min ((v.freed[i]?).getD 0) 4095
      ({ v with freed := v.freed.set i ((v.freed[i]?).getD 0 - n) }, BitVec.ofNat 14 (i * 4096 + n))
  let (v, c0) := one v
  let (v, c1) := one v
  (v, c0, c1)

/-- The group on which a DATA frame of a sequence number goes (R318). -/
def Mill.groupOf (v : Mill) (seq : BitVec 16) : Option Nat :=
  let gs := (List.range 4).filter fun i => v.groups.getLsbD i
  if gs.isEmpty then none else gs[seq.toNat % gs.length]?

/-- A frame of a type leaves on a group with its control field (R317). -/
def State.sendFrame (s : State) (m : MillNo) (g : BitVec 2) (type : FrameType) (seq : BitVec 16) (slots : List Slot) : State :=
  let v := s.mill m
  let (v, c0, c1) := if v.link = 7 then v.creditOut else (v, 0, 0)
  let spare := (v.spareReq.filter fun l => l.2 != g.toNat).map (·.1)
  let ctl : FrameCtl := {
    spareValid := spare.isSome
    spareLane := spare.getD 0
    groups := v.groups
    cr1 := c1
    cr0 := c0
    pace := s.pacing
    nak := v.nak
    ack := if v.nak then v.expect else v.acked
    seq := seq }
  let us := s.tick / 100 + 1
  let s := if ctl.pace && v.paceSent != us then s.count (millCtr m 6) 1 else s
  s.setMill m { v with
    sent := some { type := type, group := g, ctl := ctl, slots := slots }
    paceSent := if ctl.pace then us else v.paceSent }

/-- The lane map of a mill's transmitter, by logical lane (R312). -/
def Mill.txMap (v : Mill) : List (BitVec 5) := (List.range 16).map fun n =>
  if v.txSp0 = some (BitVec.ofNat 4 n) then 16 else if v.txSp1 = some (BitVec.ofNat 4 n) then 17 else BitVec.ofNat 5 n

/-- A TRAIN frame, with the training state and lane map; `down` announces DOWN (R326, R344). -/
def State.sendTrain (s : State) (m : MillNo) (g : BitVec 2) (down : Bool) : State :=
  let s := s.sendFrame m g .train (s.mill m).seq []
  s.modMill m fun v => { v with sent := v.sent.map fun f => { f with train := some (v.link, v.txMap, down) } }

/-- A TIME frame: the reply that the partner waits for, or a request (R332; log entry 75). -/
def State.sendTime (s : State) (m : MillNo) (g : BitVec 2) : State :=
  let now_ : BitVec 70 := BitVec.ofNat 70 (s.tick * 64 + (Config.sendPhase s.drawn).toNat)
  let s := ({ s with drawn := s.drawn + 1 }).sendFrame m g .time (s.mill m).seq []
  s.modMill m fun v =>
    let msg := match v.timeReply with
      | some (t1, t2) => TimeMsg.reply t1 t2 now_
      | none => .request now_
    { v with timeReply := none, sent := v.sent.map fun f => { f with time := some msg } }

/-- A DATA frame for a group: a frame to be resent, or a new one (R318, R324); none where there is none. -/
def State.sendData (s : State) (m : MillNo) (g : BitVec 2) : Option State :=
  let v := s.mill m
  match v.resend with
  | (a, slots) :: l =>
    if v.groupOf a = some g.toNat then some ((s.setMill m { v with resend := l }).sendFrame m g .data a slots) else none
  | [] =>
    if 16384 ≤ v.unacked.length || v.groupOf v.seq ≠ some g.toNat then none
    else
      let (w, slots) := Mill.chooseSlots 19 v
      if slots.isEmpty then none
      else
        let a := v.seq
        let w := { w with seq := a + 1, unacked := w.unacked ++ [(a, slots)], ackAt := if v.unacked.isEmpty then s.tick else w.ackAt }
        let s := ((s.setMill m w).count (millCtr m 0) 1).count (millCtr m 1) slots.length
        some (s.sendFrame m g .data a slots)

/-- The slots of an identity record. -/
def identSlots (l : List Byte) : List Slot :=
  [⟨0, false, BitVec.ofNat 256 (leAt l 0 32)⟩, ⟨0, false, BitVec.ofNat 256 (leAt l 32 32)⟩]

/-- An IDENT frame (R330). -/
def State.sendIdent (s : State) (m : MillNo) (g : BitVec 2) : State :=
  (s.sendFrame m g .ident (s.mill m).seq (identSlots (s.identRecord m))).modMill m fun v => { v with identDue := false }

/-- The transmitter sends: it is not in probe mode, or one of its bursts of 2 ms lasts (R314; log entry 42). -/
def Mill.transmits (v : Mill) (tick : Nat) : Bool := !v.probe || tick < v.lastBurst + 200000

/-- FRAME_SEND (R314, R318, R326, R330, R332, R340, R344). -/
def execFrameSend (m : MillNo) (g : BitVec 2) (s : State) : Out :=
  let s := s.millTakes m
  let v := s.mill m
  let announces := v.downUntil.any fun t => s.tick < t
  if !v.transmits s.tick then .next s
  else match v.link.toNat with
  | 0 => .next (if announces then s.sendTrain m g true else s)
  | 1 => .next (if announces then s.sendTrain m g true else s)
  | 2 => .next (s.sendTrain m g false)
  | 3 => .next (s.sendTrain m g false)
  | 4 => .next ((s.sendIdent m g).modMill m fun v => v.identDone s.tick)
  | 5 => .next (if v.identDue then s.sendIdent m g else s.sendTime m g)
  | 6 =>
    if v.identDue then .next (s.sendIdent m g)
    else
      let s := s.sendFrame m g .idle 0 []
      .next (s.modMill m fun v => ({ v with idleSent := v.idleSent + 1 } : Mill).creditDone s.tick)
  | _ =>
    if v.regroup.getLsbD g.toNat then .next (s.sendTrain m g false)
    else if !v.groups.getLsbD g.toNat then .next s
    else match s.sendData m g with
      | some t => .next t
      | none =>
        if v.timeReply.isSome then .next (s.sendTime m g)
        else if v.timeDue then .next ((s.sendTime m g).modMill m fun v => { v with timeDue := false })
        else if v.identDue then .next (s.sendIdent m g)
        else .next (s.sendFrame m g .idle v.seq [])

/-! ### Timers and events of the link -/

/-- ACK_TIMER_REPLAY (R324). -/
def execAckTimerReplay (m : MillNo) (s : State) : Out :=
  let v := s.mill m
  match v.unacked with
  | [] => .next s
  | (a, _) :: _ =>
    if v.link ≠ 7 || s.tick < v.ackAt + v.rtt / 64 + 200 then .next s
    else match v.replay a s.tick with
      | none => .next (s.linkDown m 2)
      | some v => .next ((s.setMill m { v with timer := satAdd v.timer 1 }).count (millCtr m 3) 1)

/-- LINK_LOSS (R344). -/
def execLinkLoss (m : MillNo) (s : State) : Out :=
  let v := s.mill m
  if v.link = 7 && v.frameAt + 1600 ≤ s.tick then .next (s.linkDown m 1) else .next s

/-- LANE_FAILURE of a physical receive lane (R328, R329). -/
def execLaneFailure (m : MillNo) (lane : BitVec 5) (s : State) : Out :=
  let v := s.mill m
  let p := lane.toNat
  if v.link ≠ 7 || 18 ≤ p || v.failed.getLsbD p then .next s
  else
    let logical := logicalOf v.sp0 v.sp1 p
    let s := s.linkError m 2 ((logical.map fun (n : BitVec 4) => n.toNat / 4).getD 0) p
    let s := s.modMill m fun v => { v with failed := v.failed ||| BitVec.ofNat 18 (2 ^ p) }
    match logical with
    | none => .next s
    | some n =>
      let v := s.mill m
      let v := { v with sp0 := if p = 16 then none else v.sp0, sp1 := if p = 17 then none else v.sp1 }
      let moved : Option Mill :=
        if v.sp0.isNone && !v.failed.getLsbD 16 then some { v with sp0 := some n }
        else if v.sp1.isNone && !v.failed.getLsbD 17 then some { v with sp1 := some n }
        else none
      let v := { (moved.getD v) with spareReq := some (lane, n.toNat / 4) }
      .next ((s.setMill m v).dropGroup m (n.toNat / 4) moved.isSome)

/-- The limit of a training state in ticks (R326). -/
def stepLimit (link : BitVec 3) : Option Nat :=
  match link.toNat with
  | 2 => some 2000000
  | 3 => some 200000
  | 4 => some 10000
  | 5 => some 100000
  | 6 => some 10000
  | _ => none

/-- LINK_STEP_TIMEOUT (R326; R328 for a group; a link that stays in IDENT on a mismatch waits, R331). -/
def execLinkStepTimeout (m : MillNo) (s : State) : Out :=
  let v := s.mill m
  let refused := v.link == 4 && v.partner.any v.mismatch
  match (if v.link = 7 && v.regroup ≠ 0 then some 5000 else stepLimit v.link) with
  | some n => if !refused && v.since + n ≤ s.tick then .next (s.linkDown m 8) else .next s
  | none => .next s

/-- LINK_RETRY (R326). -/
def execLinkRetry (m : MillNo) (s : State) : Out :=
  let v := s.mill m
  if v.link = 1 && v.reason = 8 && v.since + 10000000 ≤ s.tick then .next (s.linkTrain m) else .next s

/-- PROBE_MODE (R314). -/
def execProbeMode (m : MillNo) (s : State) : Out :=
  let v := s.mill m
  if v.link ≠ 0 && !v.probe && v.lightAt + 100000 ≤ s.tick then
    .next (s.setMill m { v with probe := true, light := false, lastBurst := s.tick })
  else .next s

/-- PROBE_BURST (R314). -/
def execProbeBurst (m : MillNo) (s : State) : Out :=
  let v := s.mill m
  if v.probe && v.lastBurst + 50000000 ≤ s.tick then .next (s.setMill m { v with lastBurst := s.tick }) else .next s

/-- LIGHT_RETURN (R314). -/
def execLightReturn (m : MillNo) (s : State) : Out :=
  let v := s.mill m
  if v.link = 0 then .next s
  else .next (s.setMill m (v.sees s.tick))

/-- TIME_EXCHANGE (R332). -/
def execTimeExchange (m : MillNo) (s : State) : Out :=
  let v := s.mill m
  if v.link = 7 && (v.role ≠ 1 || !v.partner.any (·.time)) && v.timeAt + 10000 ≤ s.tick then
    .next (s.setMill m { v with timeDue := true, timeAt := s.tick })
  else .next s

/-- LANE_LOCK: a physical lane has clock and data lock (R326, R328). -/
def execLaneLock (m : MillNo) (lane : BitVec 5) (s : State) : Out :=
  let v := s.mill m
  if 18 ≤ lane.toNat || v.link = 0 || v.link = 1 then .next s
  else
    let v := { v.sees s.tick with locked := v.locked ||| BitVec.ofNat 18 (2 ^ lane.toNat) }
    .next (s.setMill m (if v.link = 2 && v.locked = allLanes then { v with link := 3, since := s.tick } else v))

/-- ALIGNMENT_BLOCK: a lane's block names the lane's physical number and group (R313, R524). -/
def execAlignmentBlock (m : MillNo) (lane phys : BitVec 5) (group : BitVec 2) (s : State) : Out :=
  let v := s.mill m
  let p := lane.toNat
  if 18 ≤ p || phys ≠ lane || (p < 16 && group.toNat ≠ p / 4) then .next s
  else if v.link = 3 then
    .next (s.setMill m (({ v with aligned := v.aligned ||| BitVec.ofNat 18 (2 ^ p) } : Mill).alignDone s.tick))
  else if v.link = 7 && v.regroup ≠ 0 then
    .next (s.setMill m { v with aligned := v.aligned ||| BitVec.ofNat 18 (2 ^ p) })
  else .next s

end Sys2Proof.Machine
end

