-- ==== Sys2Proof/Machine/Power.lean ====
section
/-! DEFINITION. The power estimator, budgets and holds, supply alerts, heat, the coolant and thermal stops, and the
throttle log (R480 to R499). -/

namespace Sys2Proof.Machine

/-! ### Units: terms of a field in 1/32,000,000 W, module estimates in 1/32,768,000,000 W (R480, R482) -/

def fieldUnit : Nat := 32000000
def moduleUnit : Nat := 32768000000

/-- D_f: weights in 1/16 pJ times counts, over 2 µs (R480, R481). -/
def FieldPower.dynamic (p : FieldPower) (counts : List Nat) : Int :=
  ((counts.take 12).zipIdx.map fun (x : Nat × Nat) => bits (Store.get 0 p.weights x.2) 15 0 * x.1).sum

/-- S_f: STATIC in 0.01 W and TCO in mW per °C, at T_f (R480). -/
def FieldPower.static (p : FieldPower) : Int :=
  (bits p.cal 15 0 * 320000 : Nat) + (bits p.cal 31 16 : Nat) * (p.tf.toInt - 960) * 2000

/-- A number of watts as a register of 16 bits shows it. -/
def watts (x : Int) (unit : Nat) : Nat := min 0xFFFF (x / unit).toNat

/-- Whole units, rounded up. -/
def ceilDiv (a b : Nat) : Nat := (a + b - 1) / b

/-- a_prev: the activity of the last interval in 64ths (R490). -/
def FieldPower.activity (p : FieldPower) : Nat :=
  let full := bits p.cal 47 32
  if full = 0 then Config.activityNoScale p.dyn else ceilDiv (64 * p.dyn.toNat) (full * fieldUnit)

/-! ### Budgets (R483 to R485) -/

/-- The fields that take part: powered, and not dark. -/
def State.litFields (s : State) : List FieldNo :=
  ((List.range 48).map (BitVec.ofNat 6)).filter fun f => (s.hub f).powered && !(s.hub f).dark

/-- P_c in W: the hinge, the stacks that serve and the mills that are not DISABLED (R482). -/
def State.companions (s : State) : Nat :=
  let active := ((List.range 16).filter fun k => (s.stack k).state == .active).length
  let mills := ((List.range 32).filter fun i => (s.mill (BitVec.ofNat 5 i)).link != 0).length
  s.power.hingeW + active * s.power.stackW + mills * s.power.millW

/-- P: the module estimate (R482). -/
def State.moduleEstimate (s : State) : Nat :=
  let fields := (s.litFields.map fun f => (s.hub f).power.dyn + (s.hub f).power.stat).sum
  ((fields + (s.companions * fieldUnit : Nat)) * s.power.conv).toNat

/-- The budget of the coming interval, and whether the sustained limit binds (R484). -/
def Power.budgetOf (w : Power) : Int × Bool :=
  let n := w.window / 2
  let last := (w.hist.take (n - 1)).sum
  if w.sustained * 50000 * moduleUnit ≤ (w.hist.take 50000).sum then ((w.sustained * moduleUnit : Nat), true)
  else if n * w.peak * moduleUnit < last + w.peak * moduleUnit then
    ((n * w.peak * moduleUnit : Nat) - (last : Int), false)
  else ((w.peak * moduleUnit : Nat), false)

/-- Cells of a plot in a field. -/
def Plot.cellsIn (q : Plot) (f : FieldNo) : Nat :=
  let across (a b c d : Nat) : Nat := min (a + b) (c + d) - max a c
  across q.lx.toNat q.width.toNat (78 * fxOf f) 78 * across q.ly.toNat q.height.toNat (64 * fyOf f) 64

/-- D'_f: the weights of the RUNNING plots by their cells in the field (R485). -/
def State.demand (s : State) (f : FieldNo) : Nat :=
  (s.plots.map fun (e : Nat × Plot) => if e.2.state = .running then e.2.weight.toNat * e.2.cellsIn f else 0).sum

/-- H_B of a field: the dynamic power available, times CONV, divided by demand (R485, R487). -/
def holdFor (avail : Int) (conv total demand : Nat) (p : FieldPower) (hold : Nat) : Nat :=
  if p.dyn ≤ 0 then 0
  else
    let x := avail * (demand * (64 - hold) : Nat) / ((conv * total : Nat) * p.dyn)
    min 60 (64 - x).toNat

/-! ### Holds (R486 to R491) -/

/-- Bounds of a number. -/
def clampNat (x lo hi : Nat) : Nat := max lo (min x hi)

/-- The requirements of the slope and of the supply. -/
def slopeHold (act : Nat) : Nat := 63 - max act 4
def FieldPower.supplyHold (p : FieldPower) : Nat := if p.hs then 60 else 0

/-- A cycle of a frame of 64 is held: in it no cell of the field issues, and no array takes a row or a weight line
(R486). The model's commands carry no cycle, so a held cycle is one in which the sender issues none. -/
def heldCycle (hold c : Nat) : Bool := decide (c * hold / 64 < (c + 1) * hold / 64)

/-- H of the coming interval (R490). -/
def FieldPower.newHold (p : FieldPower) (hold : Nat) : Nat :=
  min 60 (max (max p.supplyHold (slopeHold p.act)) (clampNat (max p.hb p.ht) (hold - 1) (hold + 1)))

/-- The reason that an interval is charged to (R490). -/
def FieldPower.chargeOf (p : FieldPower) (hold : Nat) (sustained : Bool) : Nat :=
  if hold = 0 then 0
  else if p.hb = hold then (if sustained then 1 else 2)
  else if slopeHold p.act = hold then 3
  else if p.ht = hold then 4
  else if p.supplyHold = hold then 6
  else 3

/-- The ballast level: one below the activity, and none once that is below 4 (R491). -/
def ballastFor (act : Nat) : Nat := if act < 5 then 0 else act - 1

/-- An alert that has been clear for 10 µs no longer holds (R489). -/
def FieldPower.settleAlert (p : FieldPower) (tick : Nat) : FieldPower :=
  match p.clearAt with
  | some t => if t ≤ tick then { p with hs := false, clearAt := none } else p
  | none => p

/-- The terms of the interval that ends. -/
def Hub.estimate (h : Hub) (counts : List Nat) : Hub :=
  let p := h.power
  let dyn := p.dynamic counts
  let stat := p.static
  let p := { p with
    dyn := dyn
    stat := stat
    est := BitVec.ofNat 32 (watts (dyn + stat) fieldUnit * 2 ^ 16 + watts dyn fieldUnit)
    reason := p.charge }
  { h with power := p }

/-- The hold of the interval that begins. -/
def Hub.throttle (h : Hub) (hb : Nat) (sustained : Bool) (tick : Nat) : Hub :=
  let p := h.power.settleAlert tick
  let act := p.activity
  let p := { p with hb := hb, act := act, ballast := ballastFor act }
  let hold := p.newHold h.hold
  { h with hold := hold, power := { p with charge := p.chargeOf hold sustained } }

/-! ### The throttle log (R497, R498) -/

/-- A field whose interval was charged: its number, the reason, H, P_f in W and T_f. -/
structure Charge where
  field  : Nat
  reason : Nat
  hold   : Nat
  watts  : Nat
  temp   : Int

/-- The charges of the interval that ends. -/
def State.charges (s : State) : List Charge :=
  s.litFields.filterMap fun f =>
    let h := s.hub f
    if h.power.reason = 0 then none
    else some ⟨f.toNat, h.power.reason, h.hold, bits h.power.est 31 16, h.power.tf.toInt⟩

/-- The charge that an open episode goes on with. -/
def ThrottleRec.charge (r : ThrottleRec) (l : List Charge) : Option Charge := l.find? fun c => c.field == r.field && c.reason == r.reason

/-- An empty record. -/
def noEpisode : ThrottleRec := ⟨0, 0, 0, 0, 0, false, 0, 0⟩

def Power.rec_ (w : Power) (n : Nat) : ThrottleRec := Store.get noEpisode w.log n

/-- An open episode at a boundary: it goes on with its charge, and closes after 10 intervals without it. -/
def Power.episode (w : Power) (l : List Charge) (now n gap : Nat) : Power :=
  let r := w.rec_ n
  match r.charge l with
  | some c =>
    { w with
      log := Store.insert w.log n { r with
        dur := (now - r.start) / 100, maxH := max r.maxH c.hold, maxP := max r.maxP c.watts, maxT := max r.maxT c.temp }
      open_ := w.open_ ++ [(n, 0)] }
  | none =>
    if 10 ≤ gap + 1 then { w with log := Store.insert w.log n { r with isOpen := false } }
    else { w with open_ := w.open_ ++ [(n, gap + 1)] }

/-- A record enters the log; the oldest of 8,192 is overwritten. -/
def Power.append (w : Power) (r : ThrottleRec) : Power :=
  { w with log := (Store.insert w.log w.logNext r).filter fun (e : Nat × ThrottleRec) => w.logNext < e.1 + 8192, logNext := w.logNext + 1 }

/-- The record of a charge that no open episode has: a new one from the start of the interval. -/
def Power.opens (w : Power) (start now : Nat) (c : Charge) : Power :=
  if w.open_.any fun (e : Nat × Nat) => (w.rec_ e.1).field == c.field && (w.rec_ e.1).reason == c.reason then w
  else
    let n := w.logNext
    let w := w.append ⟨start, (now - start) / 100, c.field, c.reason, c.hold, true, c.watts, c.temp⟩
    { w with open_ := w.open_ ++ [(n, 0)] }

/-- The log at a boundary. -/
def Power.logged (w : Power) (l : List Charge) (start now : Nat) : Power :=
  let w := w.open_.foldl (fun (w : Power) (e : Nat × Nat) => w.episode l now e.1 e.2) { w with open_ := [] }
  l.foldl (fun (w : Power) c => w.opens start now c) w

/-- The open episode of a charge. -/
def Power.episodeOf (w : Power) (c : Charge) : Nat :=
  ((w.open_.find? fun (e : Nat × Nat) => (w.rec_ e.1).field == c.field && (w.rec_ e.1).reason == c.reason).map
    fun (e : Nat × Nat) => e.1).getD noRecord

/-- POWER notices at a boundary: one for each reason that no field was charged to in the 10 ms before. -/
def State.chargeNotices (s : State) (l : List Charge) (start : Nat) : State :=
  [1, 2, 3, 4, 5, 6].foldl (fun s r =>
    match l.find? fun c => c.reason == r with
    | none => s
    | some c =>
      let quiet := match Store.find? s.power.charged r with
        | some t => decide (t + 1000000 ≤ start)
        | none => true
      let s := { s with power := { s.power with charged := Store.insert s.power.charged r s.tick } }
      if quiet then s.powerNotice r (some (BitVec.ofNat 6 c.field)) (BitVec.ofInt 16 c.temp) (s.power.episodeOf c) else s) s

/-- Hub counters 16 to 21 gain 2 µs for each charge (R463, R497). -/
def State.chargeCounts (s : State) (l : List Charge) : State :=
  l.foldl (fun s c => s.count (hubCtr (BitVec.ofNat 6 c.field) (15 + c.reason)) 2) s

/-! ### The interval (R480, R490) -/

/-- The activity that counts for a GATED field: class 11, its ballast (R495; log entry 77). -/
def ballastOnly (counts : List Nat) : List Nat := List.replicate 11 0 ++ (counts.drop 11).take 1

/-- The estimates of an interval: every field that takes part, and the module. -/
def State.estimated (s : State) (acts : List Activity) : State :=
  let s := s.litFields.foldl (fun s f =>
    let counts := ((acts.find? fun a => a.field == f).map Activity.counts).getD []
    s.modHub f fun h => h.estimate (if s.gated f then ballastOnly counts else counts)) s
  let p := s.moduleEstimate
  { s with
    tally := { s.tally with energy := s.litFields.foldl (fun (m : Store Nat) f =>
      let x := (s.hub f).power
      Store.set 0 m f.toNat (Store.get 0 m f.toNat + (x.dyn + x.stat).toNat)) s.tally.energy }
    power := { s.power with
      comp := s.companions
      module_ := watts p moduleUnit
      hist := (p :: s.power.hist).take 50000 } }

/-- The budgets and holds of the coming interval. -/
def State.throttled (s : State) : State :=
  let w := s.power
  let lit := s.litFields
  let (b, sustained) := w.budgetOf
  let static := (lit.map fun f => (s.hub f).power.stat).sum
  let avail := b - (static + (s.companions * fieldUnit : Nat)) * w.conv
  let total := (lit.map s.demand).sum
  let s := { s with power := { w with budget := watts b moduleUnit } }
  lit.foldl (fun s f =>
    s.modHub f fun h => h.throttle (holdFor avail w.conv total (s.demand f) h.power h.hold) sustained s.tick) s

/-- ESTIMATOR_INTERVAL: every 200 ticks, with the activity counts of the fields (R480 to R491, R495 to R498). -/
def execEstimatorInterval (acts : List Activity) (s : State) : Out :=
  let start := s.power.lastAt
  if s.tick < start + 200 || s.dormant || s.litFields.isEmpty then .next s
  else
    let s := s.estimated acts
    let l := s.charges
    let s := { s with power := { s.power.logged l start s.tick with lastAt := s.tick } }
    let s := (s.chargeCounts l).chargeNotices l start
    .next s.throttled.refreshAlert

/-! ### Supply alerts (R489) -/

/-- The fields that an alert names: one, or all for the input. -/
def State.alertFields (s : State) (f : Option FieldNo) : List FieldNo :=
  if s.dormant then [] else s.litFields.filter fun g => f.all fun x => x == g

/-- A supply alert: H is 60 at once, and the running interval is charged to SUPPLY. -/
def Hub.alerted (h : Hub) : Hub :=
  let p := h.power
  let charge := if h.hold = 60 && p.charge != 0 then p.charge else 6
  { h with hold := 60, power := { p with alert := true, hs := true, clearAt := none, charge := charge } }

/-- The alert clears; 10 µs later H_S is 0. -/
def Hub.cleared (h : Hub) (tick : Nat) : Hub :=
  let p := h.power
  if p.alert then { h with power := { p with alert := false, clearAt := some (tick + 1000) } }
  else { h with power := p.settleAlert tick }

/-- SUPPLY_ALERT of a field, or of every field where the 54 V input falls below 48 V. -/
def execSupplyAlert (f : Option FieldNo) (s : State) : Out := .next ((s.alertFields f).foldl (fun s g => s.modHub g Hub.alerted) s)

/-- SUPPLY_ALERT_CLEAR: the supply has recovered, and again once 10 µs have passed. -/
def execSupplyAlertClear (f : Option FieldNo) (s : State) : Out :=
  .next ((s.alertFields f).foldl (fun s g => s.modHub g fun h => h.cleared s.tick) s)

/-! ### Stops (R492, R493) -/

/-- The hottest field: T_f and the field, the lowest on a tie. -/
def State.hottest (s : State) : Int × Nat :=
  (List.range 48).foldl (fun (x : Int × Nat) f =>
    let t := (s.hub (BitVec.ofNat 6 f)).power.tf.toInt
    if x.1 < t then (t, f) else x) ((s.hub 0).power.tf.toInt, 0)

/-- A field loses its supply in a stop: no ledger entry, and no dark field. -/
def State.fieldStops (s : State) (f : FieldNo) : State :=
  let h := s.hub f
  (s.fieldLost f).setHub f { dark := h.dark, power := { cal := h.power.cal, trip := h.power.trip, weights := h.power.weights } }

/-- The mills go DOWN; those that nothing else disables are not DISABLED. -/
def State.millsOff (s : State) : State :=
  (List.range 32).foldl (fun s i =>
    let m : MillNo := BitVec.ofNat 5 i
    if s.millEnabled m then s.modMill m fun v => { v with link := 1 } else s) s

/-- A coolant stop (cause 1) or thermal stop (cause 2): R492, R493, R497, R498. -/
def State.stop (s : State) (cause : BitVec 2) : State :=
  let t : BitVec 16 := BitVec.ofInt 16 s.hottest.1
  let n := s.power.logNext
  let s := (s.litFields.foldl State.fieldStops s).millsOff.abortScan fun _ => true
  let s := { s with
    boot := { s.boot with err := 3 }
    power := { s.power.append ⟨s.tick, 0, 0xFF, 5, 0, false, 0, t.toInt⟩ with stopped := true, cause := cause, open_ := [] } }
  (s.powerNotice 5 none t n).refreshAlert

/-- COOLANT_STOP: COOL_OK has been low for 1 µs (R424, R444, R493, R499). -/
def execCoolantStop (s : State) : Out :=
  let s := { s with pins := { s.pins with coolOk := false } }
  if s.power.stopped then .next { s with power := { s.power with cause := 1 } }
  else if s.boot.done = 3 then .next { s with boot := { s.boot with err := 3, coolWait := true } }.refreshAlert
  else if s.boot.done < 3 then .next s
  else .next (s.stop 1)

/-- COOL_OK_RISE: a stage 4 that waits proceeds (R424). -/
def execCoolOkRise (s : State) : Out :=
  let s := { s with pins := { s.pins with coolOk := true } }
  if s.boot.coolWait then .next { s with boot := { s.boot with err := 0, coolWait := false } }.refreshAlert else .next s

/-- The highest of a field's sensors, with its number (R488). -/
def hottestSensor (l : List (BitVec 16)) : BitVec 16 × Nat :=
  l.zipIdx.foldl (fun (x : BitVec 16 × Nat) (y : BitVec 16 × Nat) => if x.1.toInt < y.1.toInt then y else x) (l.headD 0, 0)

/-- H_T after a reading, in 1/16 °C (R488). -/
def heatHold (ht : Nat) (t : Int) : Nat := if 1520 ≤ t then min 60 (ht + 2) else if t < 1488 then ht - 1 else ht

/-- TEMP_SENSOR_READ: the eight sensors of a field, every 100 µs (R488, R492). -/
def execTempSensorRead (f : FieldNo) (sensors : List (BitVec 16)) (s : State) : Out :=
  if !s.litFields.contains f || s.dormant || sensors.length ≠ 8 then .next s
  else
    let (t, n) := hottestSensor sensors
    let s := s.modHub f fun h =>
      { h with power := { h.power with tf := t, sensor := BitVec.ofNat 4 n, ht := heatHold h.power.ht t.toInt } }
    .next (if 1680 ≤ t.toInt && 4 ≤ s.boot.done then s.stop 2 else s)

/-! ### THROTTLE_LOG_READ (R497) -/

/-- A throttle record, 32 B. -/
def ThrottleRec.bytes (r : ThrottleRec) : List Byte :=
  padBytes (leBytes 8 r.start ++ leBytes 4 r.dur ++ leBytes 1 r.field ++ leBytes 1 r.reason ++ leBytes 1 r.maxH ++
    leBytes 1 (if r.isOpen then 1 else 0) ++ leBytes 2 r.maxP ++ leBytes 2 (BitVec.ofInt 16 r.maxT).toNat) 32

/-- THROTTLE_LOG_READ (R497). -/
def execThrottleLogRead (p : PortNo) (n : SlotNo) (s : State) : Out :=
  .next (s.carry p n 0x41 anyRow fun s l =>
    let a : DWord := BitVec.ofNat 64 (leAt l 0 8)
    let count := leAt l 12 4
    let w := s.power
    let first := max (leAt l 8 4) (w.logNext - 8192)
    if !targetOk a then answered s (badField 0)
    else if count = 0 || 8192 < count then answered s (badField 12)
    else if space a = 2 && !s.isSteward p then
      answered s (refuse stNotSteward (if s.steward.state = 0 then 0xFFFF else s.steward.port.toNat))
    else
      let k := min count (w.logNext - first)
      match s.copyOut a ((List.range k).flatMap fun i => (w.rec_ (first + i)).bytes) with
      | (s, true) => answered s (okWith (leBytes 4 k ++ leBytes 4 first ++ leBytes 4 w.logNext))
      | (s, false) => answered s (badField 0))

/-! ### Loss of power (R440, R519) -/

/-- What fuses and flash hold of a hub, a stack and a mill. -/
def Hub.unpowered (h : Hub) : Hub := { power := { cal := h.power.cal, trip := h.power.trip, weights := h.power.weights } }
def Stack.unpowered (x : Stack) : Stack := { bad := x.bad }
def Mill.unpowered (v : Mill) : Mill := { bad := v.bad }

/-- POWER_LOSS: every rail is removed (R519); flash, fuses, the pins' levels and the load identifiers given out (R228)
stay. -/
def execPowerLoss (s : State) : Out :=
  if !s.pins.input then .next s
  else .next { State.reset with
    pending := s.pending
    drawn := s.drawn
    hostMem := s.hostMem
    hubs := s.hubs.map fun (e : Nat × Hub) => (e.1, e.2.unpowered)
    gstacks := s.gstacks.map fun (e : Nat × Stack) => (e.1, e.2.unpowered)
    mills := s.mills.map fun (e : Nat × Mill) => (e.1, e.2.unpowered)
    ledger := s.ledger
    flashMap := s.flashMap
    flashEpoch := s.flashEpoch
    map := s.flashMap
    epoch := s.flashEpoch
    fuseComp := s.fuseComp
    fuseRtr := s.fuseRtr
    serial := s.serial
    licence := s.licence
    nextLoad := s.nextLoad
    clocks := { fosc := s.clocks.fosc }
    power := { conv := s.power.conv, stackW := s.power.stackW, millW := s.power.millW, hingeW := s.power.hingeW }
    fw := { a := s.fw.unstage.a, b := s.fw.unstage.b, attempts := s.fw.attempts, fuse := s.fw.fuse, settingsA := s.fw.settingsA,
            settingsB := s.fw.settingsB }
    pins := { warmHigh := s.pins.warmHigh, armed := s.pins.warmHigh, coolOk := s.pins.coolOk } }

end Sys2Proof.Machine
end

