-- ==== Sys2Proof/Machine/Pins.lean ====
section
/-! DEFINITION. The management target and JTAG (R526 to R530). -/

namespace Sys2Proof.Machine

/-! ### I3C (R529) -/

/-- The I3C read map, 28 bytes. -/
def State.i3cMap (s : State) : List Byte :=
  let (t, f) := s.hottest
  let dark := ((List.range 48).filter fun f => (s.hub (BitVec.ofNat 6 f)).dark).length
  let word (off : Nat) : Nat := ((s.hingeReg off).map fun r => r.value.toNat).getD 0
  leBytes 8 s.serial.toNat ++ leBytes 1 (bit s.licence.full) ++ leBytes 1 (s.alertBits + bit (s.alertBits == 0) * 128) ++
    leBytes 2 (word 0x30400 / 2 ^ 16) ++ leBytes 4 (word 0x30710) ++ leBytes 2 (min 0xFFFF s.power.module_) ++
    leBytes 2 (BitVec.ofInt 16 t).toNat ++ leBytes 1 f ++ leBytes 1 dark ++ leBytes 2 (Config.inputVoltage s.drawn).toNat ++
    leBytes 4 s.fw.version.toNat

/-- Bits 31:0 of the target's provisional ID, and the address at which it answers. -/
def State.i3cId (s : State) : Nat := s.serial.toNat % 2 ^ 32
def State.i3cAddress (s : State) : BitVec 7 := s.pins.i3cAddr.getD 0x5A

/-- I3C_READ: bytes from an index on; an index beyond the table reads 0. It works from the end of stage 1. -/
def execI3cRead (index count : Byte) (s : State) : Out :=
  if s.boot.done = 0 then .next s
  else
    let out := (List.range count.toNat).map fun i => ((s.i3cMap)[index.toNat + i]?).getD 0
    .next { s with pins := { s.pins with i3cOut := out }, drawn := s.drawn + 1 }

/-- DYNAMIC_ADDRESS_ASSIGNMENT: the target no longer answers at 0x5A. -/
def execDynamicAddressAssignment (a : BitVec 7) (s : State) : Out :=
  if s.boot.done = 0 then .next s else .next { s with pins := { s.pins with i3cAddr := some a } }

/-! ### JTAG (R530) -/

/-- A JTAG instruction that leaves the pins to their functions. -/
def State.jtagTakes (s : State) (i : Jtag) : State := { s with pins := { s.pins with jtag := i, extest := false } }

/-- BYPASS. -/
def execBypass (s : State) : Out := .next (s.jtagTakes .bypass)
/-- IDCODE. -/
def execIdcode (s : State) : Out := .next (s.jtagTakes .idcode)
/-- SAMPLE/PRELOAD. -/
def execSamplePreload (s : State) : Out := .next (s.jtagTakes .sample)
/-- EXTEST: while WARM# is low; at any other time it acts as BYPASS. -/
def execExtest (s : State) : Out :=
  if s.pins.warmHigh then .next (s.jtagTakes .bypass)
  else .next { s with pins := { s.pins with jtag := .extest, extest := true } }

end Sys2Proof.Machine
end

