-- ==== Sys2Proof/Machine/Requests.lean ====
section
/-! DEFINITION. Requests of the mesh and their answers: READ_REQ, WRITE_REQ, READ_RESP, WRITE_ACK and
ERROR_RESP at cells, stacks, mills and wains (R163, R181, R188, R240, R256, R260, R298). -/

namespace Sys2Proof.Machine

/-- An answer from an endpoint to a requester: inside one hub it takes no link. -/
def State.answer (s : State) (from_ dst : Endpoint) (body : Body) : State :=
  match from_, dst with
  | .hub f u _, .hub f' u' _ => s.unitSend f u f' u' body
  -- a locked-out cell's interface still answers requests (R260)
  | .cell c, .cell d => s.niSend c (.unicast (.cell d)) none body
  | .cell c, .hub f u _ => s.niSend c (.unicast (hubDest (lxOf c) f u)) none body
  | .hub f u _, .cell _ => s.hubSend f u dst body

/-- A request that a cell out of service drops counts for the plot of the sending cell (R260). -/
def State.requestDropped (s : State) (src : Endpoint) : State :=
  match src with
  | .cell c => s.fenceDrops (s.cell c).owner 1
  | _ => s

/-- The source code of an uncorrectable error that a request meets (FH_LOFT_UELOG). -/
def readerCode : Endpoint → Nat
  | .cell _ => 4
  | .hub _ _ _ => 2

/-- The stack behind a hub unit. -/
def stackOf (f : FieldNo) (u : BitVec 6) : Option Nat :=
  if u = 12 || u = 13 then stackAt f u.toNat else none

/-- The mill behind a hub unit. -/
def millOf (f : FieldNo) (u : BitVec 6) : Option MillNo :=
  if u = 14 || u = 15 then millAt f u.toNat else none

/-- A unit of a hub is out of service: it belongs to a mill that is locked out (R260, R453). -/
def State.unitOut (s : State) (f : FieldNo) (u : BitVec 6) : Bool :=
  let m := if u = 14 || u = 15 then millAt f u.toNat
    else if 16 ≤ u.toNat && u.toNat ≤ 19 then millAt f ((u.toNat - 16) / 2) else none
  m.any s.millsOut.contains

/-- A packet other than a request is dropped at a unit out of service (R260). -/
def State.unitDrops (s : State) (f : FieldNo) : State :=
  s.modHub f fun h => { h with dropcnt := satAdd h.dropcnt 1 }

/-- The endpoint holds space for the answer to one more request: of the answers that wait at it to leave, there are none, or
no more than it has space for (R244; log entry 72). -/
def State.respRoom (s : State) (dst : Endpoint) : Bool :=
  let n := (s.net.filter fun p => p.vc == 2 && !p.ejected && (p.inPort == .local || p.inPort == .hub) && sameUnit p.src dst).length
  n == 0 || n ≤ Config.respSpace

/-- The hinge's unit, through which host memory is reached (R24, R248). -/
def State.isHinge (s : State) (f : FieldNo) (u : BitVec 6) : Bool := u == 20 && f == s.hingeField && s.bridge != 2

/-- Window and offset of an address of the hinge (R289; log entry 71). -/
def hostWindow (a : MeshAddr) : BitVec 6 := BitVec.ofNat 6 (bits a 53 48)
def hostOffset (a : MeshAddr) : Nat := bits a 47 0

/-- READ_REQ at its destination (R163, R181, R240, R256, R260, R289, R298). -/
def execReadReq (src dst : Endpoint) (tag : Byte) (addr : MeshAddr) (bytes : BitVec 8) (s : State) : Out :=
  let n := bytes.toNat + 1
  let a := addr.toNat
  if !s.respRoom dst then .next s
  else s.takes (fun p => sameUnit p.src src && isFor p dst && p.body == .readReq addr bytes tag) fun s =>
  let err (s : State) (st : BitVec 4) (data : Bool) : State := s.answer dst src (.errorResp tag st data)
  match dst with
  | .cell c =>
    if (s.cell c).lockedOut || s.isHole c then .next (err (s.requestDropped src) 2 false)
    else if 2 ^ 21 < a + n then .next (err s 4 false)
    else if s.refusedRange c a n then .next (err (s.countRefused c) 5 false)
    else
      let (s, l, bad) := s.loftRead c a n (readerCode src)
      .next (if bad then err s 4 true else s.answer dst src (.readResp tag l))
  | .hub f u _ =>
    if (s.hub f).dark then .next (err s 3 false)
    else if s.unitOut f u then .next (err s 2 false)
    else if s.isHinge f u then
      match s.windowOk (hostWindow addr) (hostOffset addr) n false with
      | some _ => .next { s with hostReads := s.hostReads ++ [(src, tag, n)] }
      | none => .next (err s 4 false)
    else match stackOf f u with
      | some k =>
        if (s.stack k).state ≠ .active then .next (err s 3 false)
        else if physStack a ≠ k || !backed a || !backed (a + n - 1) then .next (err s 4 false)
        else
          let (s, l, bad) := s.granRead a n 0
          .next (if bad then err s 4 true else s.answer dst src (.readResp tag l))
      | none => .next (err s 4 false)

/-- A WRITE_REQ with its operands. -/
def writeReqOf (src dst : Endpoint) (tag : Byte) (addr : MeshAddr) (posted : Bool) (data : List Byte) (p : Packet) : Bool :=
  sameUnit p.src src && isFor p dst && p.body == .writeReq addr (BitVec.ofNat 8 (data.length - 1)) posted tag data

/-- WRITE_REQ at its destination (R163, R181, R240, R256, R260, R289, R298). A write to a mill's unit at address 0 is a
remote request (R339), which REMOTE_REQUEST takes; data is 1 to 256 B (R240). -/
def execWriteReq (src dst : Endpoint) (tag : Byte) (addr : MeshAddr) (posted : Bool) (data : List Byte) (s : State) : Out :=
  let n := data.length
  let a := addr.toNat
  let remote := match dst with
    | .hub f u _ => (millOf f u).isSome && a == 0 && !(s.hub f).dark && !s.unitOut f u
    | .cell _ => false
  if n = 0 || 256 < n || remote || !s.respRoom dst then .next s
  else s.takes (writeReqOf src dst tag addr posted data) fun s =>
  let err (s : State) (st : BitVec 4) : State := s.answer dst src (.errorResp tag st false)
  let ack (s : State) : State := if posted then s else s.answer dst src (.writeAck tag)
  match dst with
  | .cell c =>
    if (s.cell c).lockedOut || s.isHole c then .next (err (s.requestDropped src) 2)
    else if 2 ^ 21 < a + n then .next (err s 4)
    else if s.refusedRange c a n then .next (err (s.countRefused c) 5)
    else .next (ack (s.loftWrite c a (data.map some)))
  | .hub f u _ =>
    if (s.hub f).dark then .next (err s 3)
    else if s.unitOut f u then .next (err s 2)
    else if s.isHinge f u then
      match s.windowOk (hostWindow addr) (hostOffset addr) n true with
      | some x => .next (ack (s.windowWrite x (hostOffset addr) data))
      | none => .next (err s 4)
    else match stackOf f u with
      | some k =>
        if (s.stack k).state ≠ .active then .next (err s 3)
        else if physStack a ≠ k || !backed a || !backed (a + n - 1) then .next (err s 4)
        else .next (ack (s.granWrite a data))
      | none => .next (err s 4)

/-- A load from another cell of the bay is written (R81, R87, R188). -/
def Cell.bayData (v : Cell) (l : BayLoad) (bytes : List Byte) : Cell :=
  let v := { v with bayLoads := v.bayLoads.filter fun x => x.tag != l.tag }
  let x := leNat (padBytes bytes l.size)
  match l.dst with
  | .inl r => v.setS r (BitVec.ofNat 32 x)
  | .inr r => v.setV r (maskLanes l.mask (v.v r) (BitVec.ofNat 512 x))

/-- The first answer that passes a test leaves the mesh. -/
def answerFor (dst : Endpoint) (body : Body) (p : Packet) : Bool := isFor p dst && p.body == body

/-- READ_RESP at its requester. -/
def execReadResp (dst : Endpoint) (tag : Byte) (data : List Byte) (s : State) : Out :=
  s.takes (answerFor dst (.readResp tag data)) fun s =>
  match dst with
  | .cell c =>
    let v := s.cell c
    match v.bayLoads.find? fun l => l.tag == tag with
    | some l => .next ((s.setCell c (v.bayData l data)).settle c)
    | none => .next s
  | .hub f u _ =>
    if s.unitOut f u then .next (s.unitDrops f)
    else match wainAt f u with
      | some k => .next (s.wainData k tag data)
      | none => .next s

/-- WRITE_ACK at its requester (R189, R293, R342). -/
def execWriteAck (dst : Endpoint) (tag : Byte) (s : State) : Out :=
  s.takes (answerFor dst (.writeAck tag)) fun s =>
  match dst with
  | .cell c => .next (s.modCell c fun v => { v with bayStores := v.bayStores.filter fun t => t != tag })
  | .hub f u _ =>
    if s.unitOut f u then .next (s.unitDrops f)
    else match wainAt f u, millOf f u with
      | some k, _ => .next (s.wainAck k tag)
      | none, some m => .next (s.deliveryEnds m tag none)
      | none, none => .next s

/-- A bay load whose value the spec does not state takes a free value (log entry 9). -/
def State.bayFree (s : State) (c : CellId) (l : BayLoad) : State :=
  let s' := { s with drawn := s.drawn + 1 }
  s'.modCell c fun v => v.bayData l (leBytes l.size (Config.bayValue s.drawn).toNat)

/-- ERROR_RESP at its requester (R167, R181, R256, R296, R306, R342). -/
def execErrorResp (dst : Endpoint) (tag : Byte) (status : BitVec 4) (data : Bool) (s : State) : Out :=
  s.takes (answerFor dst (.errorResp tag status data)) fun s =>
  match dst with
  | .cell c =>
    let v := s.cell c
    match v.bayLoads.find? fun l => l.tag == tag with
    | some l =>
      if status = 4 && data then
        let v := { v with bayLoads := v.bayLoads.filter fun x => x.tag != tag }
        .next ((s.setCell c v).precise c 7 l.addr (BitVec.ofNat 32 l.window) l.raw)
      else if status = 5 then .next ((s.setCell c (v.bayData l [])).settle c)
      else .next ((s.bayFree c l).settle c)
    | none => .next (s.setCell c { v with bayStores := v.bayStores.filter fun t => t != tag })
  | .hub f u _ =>
    if s.unitOut f u then .next (s.unitDrops f)
    else match wainAt f u, millOf f u with
    | some k, _ => .next ((s.wainErrResp k tag status data).thrWain k)
    | none, some m => .next (s.deliveryEnds m tag (some (status, data)))
    | none, none => .next s

/-- HOST_COMPLETION: the host answers a read of a wain, and the hinge's unit sends the answer on (R289, R403). -/
def execHostCompletion (id : WainId) (tag : Byte) (ok : Bool) (bytes : List Byte) (s : State) : Out :=
  let e : Endpoint := .hub (wainField id) (wainUnit id) 0
  match s.hostReads.find? fun x => sameUnit x.1 e && x.2.1 == tag with
  | none => .next s
  | some x =>
    let s := { s with hostReads := s.hostReads.erase x }
    .next (s.answer (.hub s.hingeField 20 0) x.1 (if ok then .readResp tag (padBytes bytes x.2.2) else .errorResp tag 4 false))

end Sys2Proof.Machine
end

