-- ==== Sys2Proof/Machine/Dispatch.lean ====
section
/-! DEFINITION. The dispatcher: one arm for each command. -/

namespace Sys2Proof.Machine

def exec (i : Instr) (s : State) : Host.Outcome State Fault Refusal :=
  match i with
  | .fetch c => Sys2Proof.Machine.execFetch c s
  | .arithTrap c => Sys2Proof.Machine.execArithTrap c s
  | .unitCompletion c u => Sys2Proof.Machine.execUnitCompletion c u s
  | .nop c => Sys2Proof.Machine.execNop c s
  | .ret c => Sys2Proof.Machine.execRet c s
  | .jr c s0 => Sys2Proof.Machine.execJr c s0 s
  | .callr c s0 => Sys2Proof.Machine.execCallr c s0 s
  | .lexit c k => Sys2Proof.Machine.execLexit c k s
  | .b c disp => Sys2Proof.Machine.execB c disp s
  | .call c disp => Sys2Proof.Machine.execCall c disp s
  | .bcc c cond disp => Sys2Proof.Machine.execBcc c cond disp s
  | .loop c k len n => Sys2Proof.Machine.execLoop c k len n s
  | .add c d a x => Sys2Proof.Machine.execAdd c d a x s
  | .addi c d imm => Sys2Proof.Machine.execAddi c d imm s
  | .sub c d a b => Sys2Proof.Machine.execSub c d a b s
  | .mov c d x => Sys2Proof.Machine.execMov c d x s
  | .movh c d imm => Sys2Proof.Machine.execMovh c d imm s
  | .cmp c a x => Sys2Proof.Machine.execCmp c a x s
  | .and c d a x => Sys2Proof.Machine.execAnd c d a x s
  | .or c d a x => Sys2Proof.Machine.execOr c d a x s
  | .xor c d a x => Sys2Proof.Machine.execXor c d a x s
  | .shl c d a x => Sys2Proof.Machine.execShl c d a x s
  | .shr c d a x => Sys2Proof.Machine.execShr c d a x s
  | .sra c d a x => Sys2Proof.Machine.execSra c d a x s
  | .mul c d a x => Sys2Proof.Machine.execMul c d a x s
  | .mulh c d a b => Sys2Proof.Machine.execMulh c d a b s
  | .min c d a x => Sys2Proof.Machine.execMin c d a x s
  | .max c d a x => Sys2Proof.Machine.execMax c d a x s
  | .minu c d a x => Sys2Proof.Machine.execMinu c d a x s
  | .maxu c d a x => Sys2Proof.Machine.execMaxu c d a x s
  | .lw c r a x => Sys2Proof.Machine.execLw c r a x s
  | .lh c r a x => Sys2Proof.Machine.execLh c r a x s
  | .sw c r a x => Sys2Proof.Machine.execSw c r a x s
  | .sh c r a x => Sys2Proof.Machine.execSh c r a x s
  | .pop c vec r q => Sys2Proof.Machine.execPop c vec r q s
  | .peek c vec r q => Sys2Proof.Machine.execPeek c vec r q s
  | .push c vec r o => Sys2Proof.Machine.execPush c vec r o s
  | .drop c q => Sys2Proof.Machine.execDrop c q s
  | .waiteFlag c k => Sys2Proof.Machine.execWaiteFlag c k s
  | .waiteLatch c l => Sys2Proof.Machine.execWaiteLatch c l s
  | .waiteDFlag c k p d => Sys2Proof.Machine.execWaiteDFlag c k p d s
  | .waiteDLatch c l p d => Sys2Proof.Machine.execWaiteDLatch c l p d s
  | .waitt c p => Sys2Proof.Machine.execWaitt c p s
  | .waittDeadline c => Sys2Proof.Machine.execWaittDeadline c s
  | .waiteDDeadline c => Sys2Proof.Machine.execWaiteDDeadline c s
  | .setl c l => Sys2Proof.Machine.execSetl c l s
  | .clrl c l => Sys2Proof.Machine.execClrl c l s
  | .claim c d l => Sys2Proof.Machine.execClaim c d l s
  | .sende c t k => Sys2Proof.Machine.execSende c t k s
  | .vadd c t d a b => Sys2Proof.Machine.execVadd c t d a b s
  | .vsub c t d a b => Sys2Proof.Machine.execVsub c t d a b s
  | .vmul c t d a b => Sys2Proof.Machine.execVmul c t d a b s
  | .vfma c t d a b => Sys2Proof.Machine.execVfma c t d a b s
  | .vfnma c t d a b => Sys2Proof.Machine.execVfnma c t d a b s
  | .vmin c t d a b => Sys2Proof.Machine.execVmin c t d a b s
  | .vmax c t d a b => Sys2Proof.Machine.execVmax c t d a b s
  | .vceq c t d a b => Sys2Proof.Machine.execVceq c t d a b s
  | .vclt c t d a b => Sys2Proof.Machine.execVclt c t d a b s
  | .vcle c t d a b => Sys2Proof.Machine.execVcle c t d a b s
  | .vand c d a b => Sys2Proof.Machine.execVand c d a b s
  | .vor c d a b => Sys2Proof.Machine.execVor c d a b s
  | .vxor c d a b => Sys2Proof.Machine.execVxor c d a b s
  | .twosum c d a b => Sys2Proof.Machine.execTwosum c d a b s
  | .twoprod c d a b => Sys2Proof.Machine.execTwoprod c d a b s
  | .vld c d a x => Sys2Proof.Machine.execVld c d a x s
  | .vst c v a x => Sys2Proof.Machine.execVst c v a x s
  | .vcvt c part src dst d a => Sys2Proof.Machine.execVcvt c part src dst d a s
  | .vbenc c bs t s0 part x y => Sys2Proof.Machine.execVbenc c bs t s0 part x y s
  | .vbdec c bs t s0 part x y => Sys2Proof.Machine.execVbdec c bs t s0 part x y s
  | .mldw c a t => Sys2Proof.Machine.execMldw c a t s
  | .shadowFull c => Sys2Proof.Machine.execShadowFull c s
  | .mswap c => Sys2Proof.Machine.execMswap c s
  | .mms c acc tr a it accum pm shape => Sys2Proof.Machine.execMms c acc tr a it accum pm shape s
  | .mmt c acc a it wt accum pm w shape => Sys2Proof.Machine.execMmt c acc a it wt accum pm w shape s
  | .productComplete c => Sys2Proof.Machine.execProductComplete c s
  | .mwb c acc a dt pair keep shape => Sys2Proof.Machine.execMwb c acc a dt pair keep shape s
  | .mwbComplete c => Sys2Proof.Machine.execMwbComplete c s
  | .mclr c acc => Sys2Proof.Machine.execMclr c acc s
  | .crd c k s0 => Sys2Proof.Machine.execCrd c k s0 s
  | .cwr c k s0 => Sys2Proof.Machine.execCwr c k s0 s
  | .tpush c o kind code => Sys2Proof.Machine.execTpush c o kind code s
  | .ttest c d q => Sys2Proof.Machine.execTtest c d q s
  | .wgo c w a => Sys2Proof.Machine.execWgo c w a s
  | .wstat c w d => Sys2Proof.Machine.execWstat c w d s
  | .csrr c d off => Sys2Proof.Machine.execCsrr c d off s
  | .csrw c s0 off => Sys2Proof.Machine.execCsrw c s0 off s
  | .tret c => Sys2Proof.Machine.execTret c s
  | .tretSkip c => Sys2Proof.Machine.execTretSkip c s
  | .halt c => Sys2Proof.Machine.execHalt c s
  | .trap c code => Sys2Proof.Machine.execTrap c code s
  | .stream c src q dplot chan splot flits => Sys2Proof.Machine.execStream c src q dplot chan splot flits s
  | .credit c count season chan ack plot src q => Sys2Proof.Machine.execCredit c count season chan ack plot src q s
  | .creditReturn c q => Sys2Proof.Machine.execCreditReturn c q s
  | .spillRefill c q => Sys2Proof.Machine.execSpillRefill c q s
  | .packetForward r x => Sys2Proof.Machine.execPacketForward r x s
  | .linkInitComplete c port => Sys2Proof.Machine.execLinkInitComplete c port s
  | .stitchLockError c port => Sys2Proof.Machine.execStitchLockError c port s
  | .readReq src dst tag addr bytes => Sys2Proof.Machine.execReadReq src dst tag addr bytes s
  | .writeReq src dst tag addr posted data => Sys2Proof.Machine.execWriteReq src dst tag addr posted data s
  | .readResp dst tag data => Sys2Proof.Machine.execReadResp dst tag data s
  | .writeAck dst tag => Sys2Proof.Machine.execWriteAck dst tag s
  | .errorResp dst tag status data => Sys2Proof.Machine.execErrorResp dst tag status data s
  | .event c k => Sys2Proof.Machine.execEvent c k s
  | .latchOpSet l src => Sys2Proof.Machine.execLatchOpSet l src s
  | .latchOpClr l src => Sys2Proof.Machine.execLatchOpClr l src s
  | .latchOpClaim l c ctag => Sys2Proof.Machine.execLatchOpClaim l c ctag s
  | .waitreg l c deadline => Sys2Proof.Machine.execWaitreg l c deadline s
  | .waitdereg l c => Sys2Proof.Machine.execWaitdereg l c s
  | .wake c l => Sys2Proof.Machine.execWake c l s
  | .claimresp c ctag old => Sys2Proof.Machine.execClaimresp c ctag old s
  | .waitfull c l => Sys2Proof.Machine.execWaitfull c l s
  | .waitregRetry c => Sys2Proof.Machine.execWaitregRetry c s
  | .arrive g src round => Sys2Proof.Machine.execArrive g src round s
  | .complete g round => Sys2Proof.Machine.execComplete g round s
  | .gateTimeout g => Sys2Proof.Machine.execGateTimeout g s
  | .gateEnable g => Sys2Proof.Machine.execGateEnable g s
  | .gateDisable g => Sys2Proof.Machine.execGateDisable g s
  | .remoteLatchHandoff m => Sys2Proof.Machine.execRemoteLatchHandoff m s
  | .tallyPeriod => Sys2Proof.Machine.execTallyPeriod s
  | .tallyCapture => Sys2Proof.Machine.execTallyCapture s
  | .syncDumpCapture => Sys2Proof.Machine.execSyncDumpCapture s
  | .descriptorFetch w => Sys2Proof.Machine.execDescriptorFetch w s
  | .wainRangeRegister w => Sys2Proof.Machine.execWainRangeRegister w s
  | .wainPacketIssue w => Sys2Proof.Machine.execWainPacketIssue w s
  | .mapEntryRead w => Sys2Proof.Machine.execMapEntryRead w s
  | .wainFaulted w => Sys2Proof.Machine.execWainFaulted w s
  | .descriptorComplete w => Sys2Proof.Machine.execDescriptorComplete w s
  | .correctedWriteBack c => Sys2Proof.Machine.execCorrectedWriteBack c s
  | .loftPatrolScrub c word => Sys2Proof.Machine.execLoftPatrolScrub c word s
  | .granaryPatrolScrub s0 unit => Sys2Proof.Machine.execGranaryPatrolScrub s0 unit s
  | .scrubComplete c => Sys2Proof.Machine.execScrubComplete c s
  | .cycleStall p => Sys2Proof.Machine.execCycleStall p s
  | .dryEnd p => Sys2Proof.Machine.execDryEnd p s
  | .scanCapture p scanFail => Sys2Proof.Machine.execScanCapture p scanFail s
  | .cellProbe f silent routerDead => Sys2Proof.Machine.execCellProbe f silent routerDead s
  | .fieldTrip f vcell vloft => Sys2Proof.Machine.execFieldTrip f vcell vloft s
  | .data m g ctl rx slots => Sys2Proof.Machine.execData m g ctl rx slots s
  | .idle m g ctl rx => Sys2Proof.Machine.execIdle m g ctl rx s
  | .train m g ctl rx msg => Sys2Proof.Machine.execTrain m g ctl rx msg s
  | .ident m x => Sys2Proof.Machine.execIdent m x s
  | .time m g ctl rx x => Sys2Proof.Machine.execTime m g ctl rx x s
  | .frameSend m g => Sys2Proof.Machine.execFrameSend m g s
  | .ackTimerReplay m => Sys2Proof.Machine.execAckTimerReplay m s
  | .linkLoss m => Sys2Proof.Machine.execLinkLoss m s
  | .laneFailure m lane => Sys2Proof.Machine.execLaneFailure m lane s
  | .linkStepTimeout m => Sys2Proof.Machine.execLinkStepTimeout m s
  | .linkRetry m => Sys2Proof.Machine.execLinkRetry m s
  | .probeMode m => Sys2Proof.Machine.execProbeMode m s
  | .probeBurst m => Sys2Proof.Machine.execProbeBurst m s
  | .timeExchange m => Sys2Proof.Machine.execTimeExchange m s
  | .remoteRequest m r => Sys2Proof.Machine.execRemoteRequest m r s
  | .remoteTimeout m index => Sys2Proof.Machine.execRemoteTimeout m index s
  | .write m h bytes => Sys2Proof.Machine.execWrite m h bytes s
  | .rack m h => Sys2Proof.Machine.execRack m h s
  | .rnak m h => Sys2Proof.Machine.execRnak m h s
  | .latch m h => Sys2Proof.Machine.execLatch m h s
  | .gate m h => Sys2Proof.Machine.execGate m h s
  | .threshStepStart m => Sys2Proof.Machine.execThreshStepStart m s
  | .harvestComplete m => Sys2Proof.Machine.execHarvestComplete m s
  | .up m h elems => Sys2Proof.Machine.execUp m h elems s
  | .upend m h checksum => Sys2Proof.Machine.execUpend m h checksum s
  | .abort m h f => Sys2Proof.Machine.execAbort m h f s
  | .down m h elems => Sys2Proof.Machine.execDown m h elems s
  | .downend m h crc => Sys2Proof.Machine.execDownend m h crc s
  | .stop m h f => Sys2Proof.Machine.execStop m h f s
  | .rerun m h => Sys2Proof.Machine.execRerun m h s
  | .nodeTimeout m => Sys2Proof.Machine.execNodeTimeout m s
  | .winnow m => Sys2Proof.Machine.execWinnow m s
  | .threshStatusRecord m => Sys2Proof.Machine.execThreshStatusRecord m s
  | .tableWrite src c offset payload => Sys2Proof.Machine.execTableWrite src c offset payload s
  | .hubRegisterWrite src f offset payload => Sys2Proof.Machine.execHubRegisterWrite src f offset payload s
  | .fenceNotice src u => Sys2Proof.Machine.execFenceNotice src u s
  | .pmem src f rect addr words => Sys2Proof.Machine.execPmem src f rect addr words s
  | .vecdef src f rect => Sys2Proof.Machine.execVecdef src f rect s
  | .nitab src f rect offset payload => Sys2Proof.Machine.execNitab src f rect offset payload s
  | .scrub src f rect => Sys2Proof.Machine.execScrub src f rect s
  | .slotPost p n => Sys2Proof.Machine.execSlotPost p n s
  | .slotFree p n => Sys2Proof.Machine.execSlotFree p n s
  | .identify p n => Sys2Proof.Machine.execIdentify p n s
  | .mapQuery p n => Sys2Proof.Machine.execMapQuery p n s
  | .mapRebuild p n => Sys2Proof.Machine.execMapRebuild p n s
  | .planLoad p n => Sys2Proof.Machine.execPlanLoad p n s
  | .planUnload p n => Sys2Proof.Machine.execPlanUnload p n s
  | .plotStart p n => Sys2Proof.Machine.execPlotStart p n s
  | .plotStopHalt p n => Sys2Proof.Machine.execPlotStopHalt p n s
  | .plotStopDry p n => Sys2Proof.Machine.execPlotStopDry p n s
  | .plotScanOut p n => Sys2Proof.Machine.execPlotScanOut p n s
  | .plotScanIn p n => Sys2Proof.Machine.execPlotScanIn p n s
  | .plotMove p n => Sys2Proof.Machine.execPlotMove p n s
  | .plotReset p n => Sys2Proof.Machine.execPlotReset p n s
  | .hostWindowAdd p n => Sys2Proof.Machine.execHostWindowAdd p n s
  | .hostWindowDel p n => Sys2Proof.Machine.execHostWindowDel p n s
  | .viewportSet p n => Sys2Proof.Machine.execViewportSet p n s
  | .granaryMap p n => Sys2Proof.Machine.execGranaryMap p n s
  | .faultResume p n => Sys2Proof.Machine.execFaultResume p n s
  | .latchSet p n => Sys2Proof.Machine.execLatchSet p n s
  | .syncDump p n => Sys2Proof.Machine.execSyncDump p n s
  | .tallyRead p n => Sys2Proof.Machine.execTallyRead p n s
  | .tallyConfig p n => Sys2Proof.Machine.execTallyConfig p n s
  | .powerLimitSet p n => Sys2Proof.Machine.execPowerLimitSet p n s
  | .throttleLogRead p n => Sys2Proof.Machine.execThrottleLogRead p n s
  | .dormantEnter p n => Sys2Proof.Machine.execDormantEnter p n s
  | .dormantExit p n => Sys2Proof.Machine.execDormantExit p n s
  | .fwStage p n => Sys2Proof.Machine.execFwStage p n s
  | .fwActivate p n => Sys2Proof.Machine.execFwActivate p n s
  | .activateRestart => Sys2Proof.Machine.execActivateRestart s
  | .fwConfirm p n => Sys2Proof.Machine.execFwConfirm p n s
  | .licenceInstall p n => Sys2Proof.Machine.execLicenceInstall p n s
  | .attest p n => Sys2Proof.Machine.execAttest p n s
  | .fence p n => Sys2Proof.Machine.execFence p n s
  | .rejoin p n => Sys2Proof.Machine.execRejoin p n s
  | .rejoinLinkTimeout c port => Sys2Proof.Machine.execRejoinLinkTimeout c port s
  | .ledgerRead p n => Sys2Proof.Machine.execLedgerRead p n s
  | .ledgerRevive p n => Sys2Proof.Machine.execLedgerRevive p n s
  | .stewardClaim p n => Sys2Proof.Machine.execStewardClaim p n s
  | .stewardRelease p n => Sys2Proof.Machine.execStewardRelease p n s
  | .heartbeat p n => Sys2Proof.Machine.execHeartbeat p n s
  | .stewardLapse => Sys2Proof.Machine.execStewardLapse s
  | .residentDeclare p n => Sys2Proof.Machine.execResidentDeclare p n s
  | .residentRelease p n => Sys2Proof.Machine.execResidentRelease p n s
  | .warmReset p n => Sys2Proof.Machine.execWarmReset p n s
  | .computeReset p n => Sys2Proof.Machine.execComputeReset p n s
  | .bar2Read p offset len => Sys2Proof.Machine.execBar2Read p offset len s
  | .bar2Write p offset bytes => Sys2Proof.Machine.execBar2Write p offset bytes s
  | .noticeConsWrite p v => Sys2Proof.Machine.execNoticeConsWrite p v s
  | .hgRankWr p w => Sys2Proof.Machine.execHgRankWr p w s
  | .hgRouteWr p w => Sys2Proof.Machine.execHgRouteWr p w s
  | .ckSscWrite p v => Sys2Proof.Machine.execCkSscWrite p v s
  | .ckClkmonWrite p v => Sys2Proof.Machine.execCkClkmonWrite p v s
  | .registerWrite r offset w => Sys2Proof.Machine.execRegisterWrite r offset w s
  | .portReset p => Sys2Proof.Machine.execPortReset p s
  | .perstAssert p => Sys2Proof.Machine.execPerstAssert p s
  | .perstDeassert p => Sys2Proof.Machine.execPerstDeassert p s
  | .wardRestart => Sys2Proof.Machine.execWardRestart s
  | .wardFirmwareStart => Sys2Proof.Machine.execWardFirmwareStart s
  | .coldBringup => Sys2Proof.Machine.execColdBringup s
  | .crystalCheck => Sys2Proof.Machine.execCrystalCheck s
  | .stabilityWindow xa xb xbOverXa => Sys2Proof.Machine.execStabilityWindow xa xb xbOverXa s
  | .fieldPowerUp f vcell vloft => Sys2Proof.Machine.execFieldPowerUp f vcell vloft s
  | .linkTraining failed stacksFailed => Sys2Proof.Machine.execLinkTraining failed stacksFailed s
  | .selfTest verdicts hubFail extendedPass => Sys2Proof.Machine.execSelfTest verdicts hubFail extendedPass s
  | .mapBuild => Sys2Proof.Machine.execMapBuild s
  | .hubTableBroadcast => Sys2Proof.Machine.execHubTableBroadcast s
  | .ready => Sys2Proof.Machine.execReady s
  | .warmAssert => Sys2Proof.Machine.execWarmAssert s
  | .coolantStop => Sys2Proof.Machine.execCoolantStop s
  | .coolOkRise => Sys2Proof.Machine.execCoolOkRise s
  | .tempSensorRead f sensors => Sys2Proof.Machine.execTempSensorRead f sensors s
  | .estimatorInterval acts => Sys2Proof.Machine.execEstimatorInterval acts s
  | .supplyAlert f => Sys2Proof.Machine.execSupplyAlert f s
  | .supplyAlertClear f => Sys2Proof.Machine.execSupplyAlertClear f s
  | .powerLoss => Sys2Proof.Machine.execPowerLoss s
  | .crystalFail => Sys2Proof.Machine.execCrystalFail s
  | .holdoverTimeout => Sys2Proof.Machine.execHoldoverTimeout s
  | .loopLockLoss domain => Sys2Proof.Machine.execLoopLockLoss domain s
  | .fieldLoopRelock f => Sys2Proof.Machine.execFieldLoopRelock f s
  | .i3cRead index count => Sys2Proof.Machine.execI3cRead index count s
  | .bypass => Sys2Proof.Machine.execBypass s
  | .idcode => Sys2Proof.Machine.execIdcode s
  | .samplePreload => Sys2Proof.Machine.execSamplePreload s
  | .extest => Sys2Proof.Machine.execExtest s
  | .lastInputRowTaken c => Sys2Proof.Machine.execLastInputRowTaken c s
  | .stagingComplete c => Sys2Proof.Machine.execStagingComplete c s
  | .laneLock m lane => Sys2Proof.Machine.execLaneLock m lane s
  | .alignmentBlock m lane phys group => Sys2Proof.Machine.execAlignmentBlock m lane phys group s
  | .lightReturn m => Sys2Proof.Machine.execLightReturn m s
  | .registerRead r offset wide => Sys2Proof.Machine.execRegisterRead r offset wide s
  | .warmDeassert => Sys2Proof.Machine.execWarmDeassert s
  | .rootLoopRelock => Sys2Proof.Machine.execRootLoopRelock s
  | .sscPeriodStart => Sys2Proof.Machine.execSscPeriodStart s
  | .cellInternalCheck c => Sys2Proof.Machine.execCellInternalCheck c s
  | .hostCompletion w tag ok bytes => Sys2Proof.Machine.execHostCompletion w tag ok bytes s
  | .pcieLinkDown p => Sys2Proof.Machine.execPcieLinkDown p s
  | .pcieLinkUp p width speed => Sys2Proof.Machine.execPcieLinkUp p width speed s
  | .dynamicAddressAssignment a => Sys2Proof.Machine.execDynamicAddressAssignment a s
  | .rankBroadcastDone => Sys2Proof.Machine.execRankBroadcastDone s

end Sys2Proof.Machine
end

