-- ==== Sys2Proof/Machine/Wire.lean ====
section
/-! DEFINITION. How packets and frames stand on their links, bit by bit: mesh headers, type words and the sideband (R234, R238,
R240, R264, R420, R436), and the frame of a Chonel link with its tags, control field and CRC (R316, R317). Packets and frames
are held by their fields (State.net, Mill.sent); these are the words that the fields stand for. -/

namespace Sys2Proof.Machine

/-- A field of a word: a number with its lowest bit. -/
def fieldSum (l : List (Nat × Nat)) : Nat := (l.map fun x => x.1 * 2 ^ x.2).sum

/-- A Bool as a bit's value. -/
def bitOf (b : Bool) : Nat := if b then 1 else 0

/-! ### Mesh headers (R238, R240) -/

/-- The LATCH_OP code (R263). -/
def latchOpCode : LatchOp → Nat
  | .set => 0
  | .clr => 1
  | .claim => 2
  | .waitreg => 3
  | .waitdereg => 4
  | .wake => 5
  | .claimresp => 6
  | .waitfull => 7

/-- The type word, from header bit 128; none for the types whose layout the spec does not give: GATE_OP, EVENT, and packets
from mill to mill (log entry 78). -/
def typeWord : Body → Option (BitVec 128)
  | .stream q dp ch sp _ => some (BitVec.ofNat 128 (fieldSum [(q.toNat, 0), (dp.toNat, 3), (ch.toNat, 10), (sp.toNat, 12)]))
  | .credit n x ch ack p => some (BitVec.ofNat 128 (fieldSum [(n.toNat, 0), (x.toNat, 13), (ch.toNat, 17), (bitOf ack, 19), (p.toNat, 20)]))
  | .readReq a n _ => some (BitVec.ofNat 128 (fieldSum [(a.toNat % 2 ^ 42, 0), (n.toNat, 42)]))
  | .writeReq a n posted _ _ => some (BitVec.ofNat 128 (fieldSum [(a.toNat % 2 ^ 42, 0), (n.toNat, 42), (bitOf posted, 50)]))
  | .readResp _ d => some (BitVec.ofNat 128 (if d.length ≤ 16 then leAt d 0 16 else 0))
  | .writeAck _ => some 0
  | .errorResp _ st data => some (BitVec.ofNat 128 (fieldSum [(st.toNat, 0), (bitOf data, 4)]))
  | .latchOp op l old deadline remote ctag => some (BitVec.ofNat 128 (fieldSum [(latchOpCode op, 0), (l.toNat, 3), (bitOf old, 20),
      (bitOf deadline, 21), (bitOf remote.isSome, 22), ((remote.getD 0).toNat, 23), (ctag.toNat, 48)]))
  | .control sub off _ => some (BitVec.ofNat 128 (fieldSum [(sub.toNat, 0), (off.toNat, 8)]))
  | .gateOp .. => none
  | .event _ => none
  | .forward .. => none
  | .reserved _ => none

/-- RECT and the corners of a row broadcast, which the type word of CONTROL adds (R436). -/
def rectWord : Option Rect → BitVec 128
  | none => 0
  | some r => BitVec.ofNat 128 (fieldSum [(1, 40), (r.lxLo.toNat, 41), (r.lxHi.toNat, 51), (r.lyLo.toNat, 61), (r.lyHi.toNat, 70)])

/-- TAG: types 2 to 6 carry one. -/
def bodyTag : Body → Byte
  | .readReq _ _ t => t
  | .writeReq _ _ _ t _ => t
  | .readResp t _ => t
  | .writeAck t => t
  | .errorResp t _ _ => t
  | .forward _ _ t _ => t
  | _ => 0

/-- DKIND. -/
def dkind : Dest → Nat
  | .unicast (.cell _) => 0
  | .unicast (.hub _ _ _) => 1
  | .multicast _ _ _ => 2
  | .reserved => 3

/-- SKIND. -/
def skind : Endpoint → Nat
  | .cell _ => 0
  | .hub _ _ _ => 1

/-- The header flit of a packet with its type word (R238). -/
def headerFlit (p : Packet) (word : BitVec 128) : Flit256 :=
  BitVec.ofNat 256 (fieldSum [(p.len.toNat, 0), (bodyType p.body, 4), (dkind p.dest, 8), (skind p.src, 10), (bitOf p.waypt.isSome, 11),
    (destBits p.dest, 12), (endBits p.src, 31), ((p.waypt.getD 0).toNat, 50), ((bodyTag p.body).toNat, 72), (word.toNat, 128)])

/-- The payload flits of a body, with the class and season that the sideband of a STREAM's carry (R197, R234). -/
def payloadFlits : Body → List (Flit256 × BitVec 3 × Season)
  | .stream _ _ _ _ fl => fl.map fun f => (f.data, f.cls, f.season)
  | b =>
    let data := match b with
      | .writeReq _ _ _ _ d => d
      | .readResp _ d => d
      | .control _ _ d => d
      | _ => []
    (List.range (bodyLen b)).map fun i => (BitVec.ofNat 256 (leAt data (32 * i) 32), 0, 0)

/-! ### The sideband (R234) -/

/-- PAR: even parity over each 32-bit group of the data. -/
def parityBits (f : Flit256) : Byte :=
  BitVec.ofNat 8 (fieldSum ((List.range 8).map fun i => (popcount (f.toNat / 2 ^ (32 * i)) 32 % 2, i)))

/-- What travels beside a flit: a flit's marks, and a credit return with its VC and leg class. -/
structure Sideband where
  valid  : Bool
  vc     : BitVec 2
  leg    : Bool
  head   : Bool
  cls    : BitVec 3
  season : Season
  credit : Option (BitVec 2 × Bool)
  par    : Byte
  deriving DecidableEq, Repr

/-- The sideband's 24 bits. -/
def Sideband.bits (x : Sideband) : BitVec 24 :=
  BitVec.ofNat 24 (fieldSum [(bitOf x.valid, 0), (x.vc.toNat, 1), (bitOf x.leg, 3), (bitOf x.head, 4), (x.cls.toNat, 5), (x.season.toNat, 8),
    (bitOf x.credit.isSome, 12), (bitOf (x.credit.any fun c => c.2), 13),
    ((match x.credit with
      | some c => c.1.toNat
      | none => 0), 14), (x.par.toNat, 16)])

/-- The sideband that its bits spell. -/
def sidebandOf (w : BitVec 24) : Sideband :=
  { valid := w.getLsbD 0
    vc := w.extractLsb' 1 2
    leg := w.getLsbD 3
    head := w.getLsbD 4
    cls := w.extractLsb' 5 3
    season := w.extractLsb' 8 4
    credit := if w.getLsbD 12 then some (w.extractLsb' 14 2, w.getLsbD 13) else none
    par := w.extractLsb' 16 8 }

/-- A received flit agrees with its PAR (R255). -/
def parOk (f : Flit256) (x : Sideband) : Bool := x.par == parityBits f

/-- An idle token: VALID = 0 and HEAD = 1. -/
def idleToken (credit : Option (BitVec 2 × Bool)) : Sideband := ⟨false, 0, false, true, 0, 0, credit, parityBits 0⟩

/-- The sideband of a packet's flit, with no credit return beside it. -/
def sideOf (p : Packet) (head : Bool) (f : Flit256) (cls : BitVec 3) (season : Season) : Sideband :=
  ⟨true, p.vc, p.leg, head, cls, season, none, parityBits f⟩

/-- A packet as the flits of a link, the header first (R237). -/
def packetFlits (p : Packet) : Option (List (Flit256 × Sideband)) :=
  (typeWord p.body).map fun w =>
    let h := headerFlit p w
    (h, sideOf p true h 0 0) :: (payloadFlits p.body).map fun (x : Flit256 × BitVec 3 × Season) => (x.1, sideOf p false x.1 x.2.1 x.2.2)

/-! ### Chonel frames (R316, R317) -/

/-- Codes of the frame types. -/
def frameCode : FrameType → Nat
  | .data => 0
  | .idle => 1
  | .train => 2
  | .ident => 3
  | .time => 4

/-- The control field's 92 bits. -/
def ctlBits (t : FrameType) (c : FrameCtl) : BitVec 92 :=
  BitVec.ofNat 92 (fieldSum [(frameCode t, 0), (c.seq.toNat, 3), (c.ack.toNat, 19), (bitOf c.nak, 35), (bitOf c.pace, 36), (c.cr0.toNat, 37),
    (c.cr1.toNat, 51), (c.groups.toNat, 65), (c.spareLane.toNat, 69), (bitOf c.spareValid, 74)])

/-- The frame type of a control field: none for the reserved codes. -/
def frameTypeOf (w : BitVec 92) : Option FrameType :=
  match (w.extractLsb' 0 3).toNat with
  | 0 => some .data
  | 1 => some .idle
  | 2 => some .train
  | 3 => some .ident
  | 4 => some .time
  | _ => none

/-- The fields of a control field. -/
def ctlOf (w : BitVec 92) : FrameCtl :=
  { spareValid := w.getLsbD 74
    spareLane := w.extractLsb' 69 5
    groups := w.extractLsb' 65 4
    cr1 := w.extractLsb' 51 14
    cr0 := w.extractLsb' 37 14
    pace := w.getLsbD 36
    nak := w.getLsbD 35
    ack := w.extractLsb' 19 16
    seq := w.extractLsb' 3 16 }

/-- A slot's tag; a slot without a flit has tag 0. -/
def slotTag (x : Slot) : Nat := fieldSum [(bitOf x.head, 4), (x.lvc.toNat, 5), (1, 7)]

/-- A frame's bits 5,107 to 0: slots, tags and control. -/
def TxFrame.body (f : TxFrame) : Nat :=
  let slots := (f.slots.take 19).zipIdx
  (slots.map fun (x : Slot × Nat) => x.1.flit.toNat * 2 ^ (256 * x.2)).sum +
    (slots.map fun (x : Slot × Nat) => slotTag x.1 * 2 ^ (4864 + 8 * x.2)).sum + (ctlBits f.type f.ctl).toNat * 2 ^ 5016

/-- CRC-32C over the low `n` bits of a number, bit 0 first (R316; the order is log entry 23). -/
def crcBits (x : Nat) (n : Nat) : Word :=
  let bit (c : Word) (i : Nat) : Word :=
    if c.getLsbD 0 != x.testBit i then (c >>> 1) ^^^ 0x82F63B78 else c >>> 1
  ~~~((List.range n).foldl bit 0xFFFFFFFF)

/-- A frame of 5,140 bits. -/
def TxFrame.bits (f : TxFrame) : BitVec 5140 := BitVec.ofNat 5140 (f.body + (crcBits f.body 5108).toNat * 2 ^ 5108)

/-- The CRC of a received frame matches (R316). -/
def frameCrcOk (w : BitVec 5140) : Bool := w.toNat / 2 ^ 5108 == (crcBits (w.toNat % 2 ^ 5108) 5108).toNat

end Sys2Proof.Machine
end

