-- ==== Sys2Proof/Safety.lean ====
section
/-! DEFINITION. The terms in which claims about the block are stated: when an instruction of a cell's program
comes to issue and what its issue leaves, when the ward starts a mailbox message and what its answer leaves, and
the forms that memories keep. -/

namespace Sys2Proof.Machine

/-! ### Issue (02) -/

/-- The instruction `i`, of `n` words from address `a` on, comes to issue in cell `c` (R30, R32): the cell may
run, no arithmetic trap waits, the words at the head of the hold are the instruction's and neither their parity nor
CL_BKPT stops them (R38, R52), its sources are written and its destinations are not awaited. -/
structure State.ComesToIssue (s : State) (c : CellId) (i : Instr) (a : PAddr) (n : Nat) : Prop where
  runs    : s.canRun c = true
  noTrap  : (s.cell c).arithDue = false
  first   : (s.cell c).held.head?.map HeldWord.addr = some a
  words   : (s.cell c).head c = some (n, .instr i)
  unbroken : (s.cell c).headBreaks n = false
  sources : (s.cell c).sourcesReady (regUse i) = true
  dests   : (s.cell c).destsFree (regUse i) = true

/-- What the issue leaves once the instruction has taken effect: its words retire with their loop end tests, the
head that follows may trap of itself, and the issue is counted. -/
def State.afterIssue (t : State) (c : CellId) (i : Instr) (n : Nat) : State :=
  ((t.modCell c fun v => v.retire n).settle c).countIssue c i

/-- What a taken branch leaves: its words retire, the hold is empty, and fetch goes on at the target. -/
def State.afterBranch (t : State) (c : CellId) (i : Instr) (n : Nat) (target : PAddr) : State :=
  (t.modCell c fun v => v.branch n target).countIssue c i

/-- What a precise trap of the instruction leaves (R53, R55). -/
def State.afterTrap (s : State) (c : CellId) (a : PAddr) (n cause : Nat) (info : Word) : State :=
  s.precise c cause a info (rawOf (((s.cell c).held.take n).map (·.word)))

/-- The result that a scalar ALU instruction hands to the scalar unit, by the tables of R79, R80 and R94: the
destination with its value, and the condition bits that it writes. -/
def aluResult (v : Cell) (a : PAddr) : Instr → Option Result
  | .add _ d x y => some (resultZNCV a (some (d, v.s x + v.src y)) (CondBits.ofAdd (v.s x) (v.src y)))
  | .addi _ d k => some (resultZNCV a (some (d, v.s d + k.signExtend 32)) (CondBits.ofAdd (v.s d) (k.signExtend 32)))
  | .sub _ d x y => some (resultZNCV a (some (d, v.s x - v.s y)) (CondBits.ofSub (v.s x) (v.s y)))
  | .cmp _ x y => some (resultZNCV a none (CondBits.ofSub (v.s x) (v.src y)))
  | .mov _ d x => some (resultPlain a d (v.src x))
  | .movh _ d k => some (resultPlain a d (BitVec.ofNat 32 (k.toNat * 65536 + (v.s d).toNat % 65536)))
  | .and _ d x y => some (resultZN a d (v.s x &&& v.src y))
  | .or _ d x y => some (resultZN a d (v.s x ||| v.src y))
  | .xor _ d x y => some (resultZN a d (v.s x ^^^ v.src y))
  | .shl _ d x y => some (resultZN a d (BitVec.ofNat 32 ((v.s x).toNat * 2 ^ ((v.src y).toNat % 32))))
  | .shr _ d x y => some (resultZN a d (BitVec.ofNat 32 ((v.s x).toNat / 2 ^ ((v.src y).toNat % 32))))
  | .sra _ d x y => some (resultZN a d (BitVec.ofInt 32 ((v.s x).toInt / 2 ^ ((v.src y).toNat % 32))))
  | .mul _ d x y => some (resultZN a d (BitVec.ofNat 32 ((v.s x).toNat * (v.src y).toNat)))
  | .mulh _ d x y => some (resultZN a d (BitVec.ofInt 32 ((v.s x).toInt * (v.s y).toInt / 2 ^ 32)))
  | .min _ d x y => some (resultZN a d (if (v.s x).toInt ≤ (v.src y).toInt then v.s x else v.src y))
  | .max _ d x y => some (resultZN a d (if (v.s x).toInt < (v.src y).toInt then v.src y else v.s x))
  | .minu _ d x y => some (resultZN a d (if (v.s x).toNat ≤ (v.src y).toNat then v.s x else v.src y))
  | .maxu _ d x y => some (resultZN a d (if (v.s x).toNat < (v.src y).toNat then v.src y else v.s x))
  | .crd _ k d => some (resultPlain a d (BitVec.ofNat 32 (v.loop k).count.toNat))
  | _ => none

/-- A load: its destination, address register, offset and size (R81, R87). -/
def loadOf : Instr → Option ((SReg ⊕ VReg) × SReg × Int × Nat)
  | .lw _ r b x => some (.inl r, b, x, 4)
  | .lh _ r b x => some (.inl r, b, x, 2)
  | .vld _ d b x => some (.inr d, b, x, 64)
  | _ => none

/-- A store: the bytes that it stores, none for a byte of a masked lane, its address register and offset (R81,
R87). -/
def storeOf (v : Cell) : Instr → Option (List (Option Byte) × SReg × Int)
  | .sw _ r b x => some ((List.range 4).map fun k => some ((v.s r).extractLsb' (8 * k) 8), b, x)
  | .sh _ r b x => some ((List.range 2).map fun k => some ((v.s r).extractLsb' (8 * k) 8), b, x)
  | .vst _ r b x => some ((List.range 64).map fun k =>
      if v.vmask.getLsbD (k / 4) then some ((v.v r).extractLsb' (8 * k) 8) else none, b, x)
  | _ => none

/-- The register and the elements that a vector instruction of one destination writes (R86, R88). -/
def vectorElems (v : Cell) : Instr → Option (VReg × List Elem)
  | .vadd _ t d a b => some (d, binary t addC a b v)
  | .vsub _ t d a b => some (d, binary t subC a b v)
  | .vmul _ t d a b => some (d, binary t mulC a b v)
  | .vfma _ t d a b => some (d, ternary false t d a b v)
  | .vfnma _ t d a b => some (d, ternary true t d a b v)
  | .vmin _ t d a b => some (d, binary t (minMaxC false) a b v)
  | .vmax _ t d a b => some (d, binary t (minMaxC true) a b v)
  | .vceq _ t d a b => some (d, binary t (cmpC .eq) a b v)
  | .vclt _ t d a b => some (d, binary t (cmpC .lt) a b v)
  | .vcle _ t d a b => some (d, binary t (cmpC .le) a b v)
  | .vand _ d a b => some (d, bitwise Nat.land a b v)
  | .vor _ d a b => some (d, bitwise Nat.lor a b v)
  | .vxor _ d a b => some (d, bitwise Nat.xor a b v)
  | .vcvt _ part src dst d a => some (d, (List.range 16).map fun k =>
      let (r, f) := cvtC src dst (elemAt (v.v a) (groupOff src part.toNat k) (elemBits src))
      ⟨groupOff dst part.toNat k, elemBits dst, r, f⟩)
  | _ => none

/-! ### Mailboxes (14) -/

/-- The message that a ward command carries out: its port, its slot and its opcode (R409). -/
def mailOf : Instr → Option (PortNo × SlotNo × Nat)
  | .identify p n => some (p, n, 0x01)
  | .mapQuery p n => some (p, n, 0x02)
  | .mapRebuild p n => some (p, n, 0x03)
  | .planLoad p n => some (p, n, 0x10)
  | .planUnload p n => some (p, n, 0x11)
  | .plotStart p n => some (p, n, 0x12)
  | .plotStopHalt p n => some (p, n, 0x13)
  | .plotStopDry p n => some (p, n, 0x13)
  | .plotScanOut p n => some (p, n, 0x14)
  | .plotScanIn p n => some (p, n, 0x15)
  | .plotMove p n => some (p, n, 0x16)
  | .plotReset p n => some (p, n, 0x17)
  | .hostWindowAdd p n => some (p, n, 0x20)
  | .hostWindowDel p n => some (p, n, 0x21)
  | .viewportSet p n => some (p, n, 0x22)
  | .granaryMap p n => some (p, n, 0x23)
  | .faultResume p n => some (p, n, 0x24)
  | .latchSet p n => some (p, n, 0x30)
  | .syncDump p n => some (p, n, 0x31)
  | .tallyRead p n => some (p, n, 0x32)
  | .tallyConfig p n => some (p, n, 0x33)
  | .powerLimitSet p n => some (p, n, 0x40)
  | .throttleLogRead p n => some (p, n, 0x41)
  | .dormantEnter p n => some (p, n, 0x42)
  | .dormantExit p n => some (p, n, 0x43)
  | .fwStage p n => some (p, n, 0x50)
  | .fwActivate p n => some (p, n, 0x51)
  | .fwConfirm p n => some (p, n, 0x52)
  | .licenceInstall p n => some (p, n, 0x53)
  | .attest p n => some (p, n, 0x54)
  | .fence p n => some (p, n, 0x60)
  | .rejoin p n => some (p, n, 0x61)
  | .ledgerRead p n => some (p, n, 0x62)
  | .ledgerRevive p n => some (p, n, 0x63)
  | .stewardClaim p n => some (p, n, 0x70)
  | .stewardRelease p n => some (p, n, 0x71)
  | .heartbeat p n => some (p, n, 0x72)
  | .residentDeclare p n => some (p, n, 0x78)
  | .residentRelease p n => some (p, n, 0x79)
  | .warmReset p n => some (p, n, 0x7E)
  | .computeReset p n => some (p, n, 0x7F)
  | _ => none

/-- The payloads of a command's row: PLOT_STOP has one row for each mode, byte 1 telling them apart (R194). -/
def mailRow : Instr → List Byte → Bool
  | .plotStopHalt _ _, l => leAt l 1 1 != 1
  | .plotStopDry _ _, l => leAt l 1 1 == 1
  | _, _ => true

/-- The state in which the ward starts a message: every POSTED slot is ACCEPTED, and the message leaves the mail. -/
def State.mailStarted (s : State) (p : PortNo) (n : SlotNo) : State :=
  let s := s.acceptAll
  { s with mail := s.mail.erase (p, n) }

/-- The ward comes to a message of a slot (R406): it waits with this opcode, the ward serves it, and where it is
mutating no other one runs or stands before it. -/
structure State.ComesToMail (s : State) (p : PortNo) (n : SlotNo) (o : OpInfo) : Prop where
  row     : opInfo o.code = some o
  waits   : s.mail.contains (p, n) = true
  opcode  : opcodeOf ((s.port p).opword n) = o.code
  serves  : s.wardServes o.code = true
  order   : o.mutating = true → s.running = none ∧ s.firstMutating = some (p, n)

/-- The general checks pass: length, steward, the wafer, bytes that no field names. -/
def State.MailPasses (s : State) (p : PortNo) (n : SlotNo) (o : OpInfo) : Prop :=
  s.acceptAll.generalCheck o p ((s.port p).reqLen n) ((s.port p).payload n) = none

/-- What the answer to a message leaves. -/
def State.mailAnswer (t s : State) (p : PortNo) (n : SlotNo) (o : OpInfo) (a : Answer) : State :=
  t.complete p n ((s.port p).opword n) true o.mutating a

/-! ### Threshing (12) -/

/-- A THRESH packet with this header belongs to the step that the mill runs (R359, R363): its job, wafer, mill, group and step,
with the place `i` of its tensor `x` in the group. -/
structure State.ThreshTakes (s : State) (m : MillNo) (h : ChonelHdr) (r : ThrRun) (g : ThrGroup) (i : Nat) (x : ThrTensor) :
    Prop where
  job     : h.jobtag = s.jobtag
  wafer   : h.dwafer = s.wafer
  mill    : h.dmill = m
  group   : (s.mill m).thrGroups.find? (fun g => g.tensors.any fun t => t.id.toNat == hdrTensor h) = some g
  current : (s.mill m).runGroup = some (r, g)
  step    : hdrStep h = r.step % 2 ^ 16
  index   : g.tensors.findIdx? (fun t => t.id.toNat == hdrTensor h) = some i
  tensor  : g.tensors[i]? = some x

/-! ### Memories -/

/-- Every memory keeps its canonical form: the lofts, the granary, host memory and the mailboxes. -/
def State.MemoriesWf (s : State) : Prop :=
  s.loft.wf = true ∧ s.granary.wf = true ∧ s.hostMem.wf = true ∧ ∀ e ∈ s.ports, e.2.mbox.wf = true

end Sys2Proof.Machine
end

