-- ==== Sys2Proof/Certificates/Slice0/Obligations.lean ====
section
/-! DEFINITION. The statements for the provers: what the commands of each family do, what they leave alone, and
what holds of the machine as a whole. -/

open Sys2Proof Sys2Proof.Machine

/-! ### The queue of commands, and reset -/

/-- A step takes the command at the front of the queue and runs it on the state with the queue's rest. -/
def Obligations.StepTakesFront : Prop :=
  ∀ (i : Instr) (l : List Instr) (s : State), step { s with pending := i :: l } = exec i { s with pending := l }

/-- A step on an empty queue is one tick of the 10 ns counter (log entry 1): the tick moves on by one, with the part of
the offset that the hinge slews away (R333; log entry 75), or a hold of the counter runs down by one; the watchdogs of
RUNNING plots count or start again (R220), and closing windows with no packets go (R307). But for the performance
counters (R463), nothing else changes. -/
def Obligations.EmptyQueueTicks : Prop :=
  ∀ s : State, s.pending = [] → ∃ t : State, step s = .next t ∧
    (s.tickHold ≠ 0 → t.tick = s.tick ∧ t.tickHold = s.tickHold - 1 ∧ t.slew = s.slew ∧ t.slewPart = s.slewPart ∧
      t.plots = s.plots ∧ t.tally = s.tally) ∧
    (s.tickHold = 0 → t.tickHold = 0 ∧ (s.slew = 0 → t.tick = s.tick + 1 ∧ t.slew = 0 ∧ t.slewPart = s.slewPart) ∧
      (0 < s.slew → t.slew = s.slew - 1) ∧ (s.slew < 0 → t.slew = s.slew + 1) ∧
      (t.tick : Int) * 4000 + t.slewPart = (s.tick : Int) * 4000 + s.slewPart + 4000 + (s.slew - t.slew) ∧
      (∀ p, (s.plot p).state ≠ .running → t.plot p = s.plot p) ∧
      (∀ p, (s.plot p).state = .running → (s.plot p).wdog.msb = false →
        (t.plot p).unheld = max (s.plot p).progress (s.plot p).unheld + 1) ∧
      (∀ p, (s.plot p).state = .running → (s.plot p).wdog.msb = true → (t.plot p).unheld =
        if (s.plot p).scanning = true ∨ ∀ c ∈ (s.plot p).cells, s.isHeld c = false then t.tick else (s.plot p).unheld)) ∧
    (∀ p, t.plot p = { s.plot p with unheld := (t.plot p).unheld }) ∧
    t.windows = s.windows.filter (fun e => !e.2.closing || s.windowBusy (BitVec.ofNat 6 e.1)) ∧
    t = { s with tick := t.tick, tickHold := t.tickHold, slew := t.slew, slewPart := t.slewPart, plots := t.plots,
                 windows := t.windows, tally := { s.tally with counts := t.tally.counts } }

/-- No command stops the block: every command answers a next state (95_what_each_step_holds.md; log entry 28). -/
def Obligations.NoCommandStops : Prop := ∀ (i : Instr) (s : State), ∃ t : State, exec i s = .next t

/-! ### Issue and completion of a cell's instructions (02, 03) -/

/-- A scalar ALU instruction that comes to issue hands the scalar unit the result of R79 and R80, and its words
retire; a result is written at the unit's completion. -/
def Claims.ScalarAluIssues : Prop :=
  ∀ (s : State) (c : CellId) (i : Instr) (a : PAddr) (n : Nat) (r : Result),
    s.ComesToIssue c i a n → i.cellOf = some c → aluResult (s.cell c) a i = some r →
      exec i s = .next ((s.modCell c fun v => v.push r).afterIssue c i n)

/-- The scalar operations that write C and V (R79). -/
def Claims.writesCarry : Instr → Bool
  | .add _ _ _ _ => true
  | .addi _ _ _ => true
  | .sub _ _ _ _ => true
  | .cmp _ _ _ => true
  | _ => false

/-- The condition bits of ADD, SUB and CMP in whole numbers (R80): C is the carry out of bit 31, or no borrow, V is
signed overflow, Z and N are the zero and the sign of the result. -/
def Claims.ScalarConditionBits : Prop :=
  ∀ x y : Word,
    ((CondBits.ofAdd x y).c = true ↔ 2 ^ 32 ≤ x.toNat + y.toNat) ∧
    ((CondBits.ofAdd x y).v = true ↔ x.toInt + y.toInt < -2147483648 ∨ 2147483647 < x.toInt + y.toInt) ∧
    ((CondBits.ofAdd x y).z = true ↔ (x + y).toNat = 0) ∧ ((CondBits.ofAdd x y).n = true ↔ (x + y).toInt < 0) ∧
    ((CondBits.ofSub x y).c = true ↔ y.toNat ≤ x.toNat) ∧
    ((CondBits.ofSub x y).v = true ↔ x.toInt - y.toInt < -2147483648 ∨ 2147483647 < x.toInt - y.toInt) ∧
    ((CondBits.ofSub x y).z = true ↔ x = y) ∧ ((CondBits.ofSub x y).n = true ↔ (x - y).toInt < 0)

/-- Condition bits after a scalar operation's issue and its unit's completion (R80): ADD sets C to the carry out of bit 31; SUB
and CMP set C where the first operand is not below the second as an unsigned value; all three set V on signed overflow; an
operation that writes no C and V leaves them unchanged. -/
def Claims.ConditionBits : Prop :=
  Claims.ScalarConditionBits ∧
  ∀ (s : State) (c : CellId) (i : Instr) (a : PAddr) (n : Nat) (r : Result),
    s.ComesToIssue c i a n → i.cellOf = some c → aluResult (s.cell c) a i = some r →
    (∀ x ∈ (s.cell c).results, x.unit ≠ .scalar) →
    ∃ t u : State, exec i s = .next t ∧ exec (.unitCompletion c .scalar) t = .next u ∧
      (∀ d x y, i = .add c d x y → (u.cell c).cond = CondBits.ofAdd ((s.cell c).s x) ((s.cell c).src y)) ∧
      (∀ d k, i = .addi c d k → (u.cell c).cond = CondBits.ofAdd ((s.cell c).s d) (k.signExtend 32)) ∧
      (∀ d x y, i = .sub c d x y → (u.cell c).cond = CondBits.ofSub ((s.cell c).s x) ((s.cell c).s y)) ∧
      (∀ x y, i = .cmp c x y → (u.cell c).cond = CondBits.ofSub ((s.cell c).s x) ((s.cell c).src y)) ∧
      (Claims.writesCarry i = false → (u.cell c).cond.c = (s.cell c).cond.c ∧ (u.cell c).cond.v = (s.cell c).cond.v)

/-- Scalar ALU instructions (R79, R80): what they hand to the scalar unit, and the condition bits. -/
def Obligations.ScalarAlu : Prop := Claims.ScalarAluIssues ∧ Claims.ConditionBits

/-- A unit writes the result of its oldest instruction (R31): the registers and condition bits that the result
names, its sticky flags joined to CL_AFLAGS (R50), CL_BLCOUNT, and a pending arithmetic trap where CL_AFTRAP
enables a flag (R51). Nothing else of the state changes before the head of the hold settles. -/
def Claims.UnitCompletionWrites : Prop :=
  ∀ (s : State) (c : CellId) (u : ExecUnit) (l₁ l₂ : List Result) (r : Result),
    (s.cell c).results = l₁ ++ r :: l₂ → r.unit = u → (∀ x ∈ l₁, x.unit ≠ u) →
    ∃ t : State, exec (.unitCompletion c u) s = .next (t.settle c) ∧
      (t.cell c).results = l₁ ++ l₂ ∧
      (∀ d, (t.cell c).s d = match r.sdst with
        | some (e, x) => if d = e then x else (s.cell c).s d
        | none => (s.cell c).s d) ∧
      (∀ d, (t.cell c).v d = ((r.vdst.reverse.find? fun e => e.1 == d).map (·.2)).getD ((s.cell c).v d)) ∧
      (t.cell c).cond = { z := (r.zn.map (·.1)).getD (s.cell c).cond.z, n := (r.zn.map (·.2)).getD (s.cell c).cond.n,
                          c := r.c.getD (s.cell c).cond.c, v := r.v.getD (s.cell c).cond.v } ∧
      (t.cell c).aflags = (s.cell c).aflags ||| r.flags ∧
      (t.cell c).blcount.toNat = min ((s.cell c).blcount.toNat + r.lost) (2 ^ 32 - 1) ∧
      (t.cell c).arith = (if r.flags &&& (s.cell c).aftrap ≠ 0 ∧ (s.cell c).arith = none then some r.addr
        else (s.cell c).arith) ∧
      t.cell c = { s.cell c with results := (t.cell c).results, sregs := (t.cell c).sregs, vregs := (t.cell c).vregs,
                                 cond := (t.cell c).cond, aflags := (t.cell c).aflags,
                                 blcount := (t.cell c).blcount, arith := (t.cell c).arith } ∧
      (∀ d, d ≠ c → t.cell d = s.cell d) ∧ t = { s with cells := t.cells }

/-- A scalar ALU instruction's value after its issue and its unit's completion: the destination register holds the
value of R79, and every other register of every cell is unchanged. -/
def Claims.ScalarAluWrites : Prop :=
  ∀ (s : State) (c : CellId) (i : Instr) (a : PAddr) (n : Nat) (r : Result),
    s.ComesToIssue c i a n → i.cellOf = some c → aluResult (s.cell c) a i = some r →
    (∀ x ∈ (s.cell c).results, x.unit ≠ .scalar) →
    ∃ t u : State, exec i s = .next t ∧ exec (.unitCompletion c .scalar) t = .next u ∧
      (∀ d, (u.cell c).s d = match r.sdst with
        | some (e, x) => if d = e then x else (s.cell c).s d
        | none => (s.cell c).s d) ∧
      (∀ d, (u.cell c).v d = (s.cell c).v d) ∧
      ∀ e, e ≠ c → (u.cell e).sregs = (s.cell e).sregs ∧ (u.cell e).vregs = (s.cell e).vregs

/-- Completion of a unit's oldest instruction (R31, R50, R51), and the value of a scalar ALU instruction after it. -/
def Obligations.UnitCompletions : Prop :=
  Claims.UnitCompletionWrites ∧ Claims.ScalarAluWrites

/-- The words of an instruction retire: the program counter, the hold, the loop counters and the order of active
loops change, and nothing else; where no active loop ends at a word, the counters stay and execution goes on at the
word after the last one (R40, R60). -/
def Claims.RetireFrame : Prop :=
  ∀ (v : Cell) (n : Nat),
    v.retire n = { v with pc := (v.retire n).pc, held := (v.retire n).held, loops := (v.retire n).loops,
                          loopOrder := (v.retire n).loopOrder } ∧
    ∀ (l : List HeldWord) (w : HeldWord), v.held.take n = l ++ [w] →
      (∀ x ∈ v.held.take n, ∀ k ∈ v.loopOrder, (v.loop k).active = true → (v.loop k).stop ≠ x.addr) →
      (v.retire n).pc = w.addr + 1 ∧ (v.retire n).loops = v.loops ∧ (v.retire n).loopOrder = v.loopOrder

/-- The end test of the loop set up most recently, at the last word of its body (R40, R41): a counter above 1 is
decremented and execution goes on at the body's start; a counter of 0 or 1 becomes 0, the loop exits, and the next
loop is tested. No test is made while a trap handler runs (R53). -/
def Claims.LoopEndTest : Prop :=
  ∀ (v : Cell) (k : CtrNo) (l : List CtrNo) (addr : PAddr),
    (v.intrap = true → v.leaveWord addr = (v, addr + 1)) ∧
    (v.intrap = false → v.loopOrder = k :: l → (v.loop k).active = true → (v.loop k).stop = addr →
      (1 < (v.loop k).count.toNat →
        (v.leaveWord addr).2 = (v.loop k).start ∧
        ((v.leaveWord addr).1.loop k).count.toNat = (v.loop k).count.toNat - 1 ∧
        ((v.leaveWord addr).1.loop k).active = true ∧
        (∀ j, j ≠ k → (v.leaveWord addr).1.loop j = v.loop j) ∧ (v.leaveWord addr).1.loopOrder = k :: l) ∧
      ((v.loop k).count.toNat ≤ 1 →
        (∀ j ∈ l, (v.loop j).active = true → (v.loop j).stop ≠ addr) → k ∉ l →
        (v.leaveWord addr).2 = addr + 1 ∧ ((v.leaveWord addr).1.loop k).count = 0 ∧
        ((v.leaveWord addr).1.loop k).active = false ∧ (∀ j, j ≠ k → (v.leaveWord addr).1.loop j = v.loop j) ∧
        (v.leaveWord addr).1.loopOrder = l)) ∧
    (v.leaveWord addr).1 = { v with loops := (v.leaveWord addr).1.loops, loopOrder := (v.leaveWord addr).1.loopOrder }

/-- The word after an instruction is the one after its last word (R39, R66, R67), in program order the instruction's
length past its first word. -/
def Claims.WordAfter : Prop :=
  ∀ (v : Cell) (l : List HeldWord) (w : HeldWord) (n : Nat),
    (v.held.take n = l ++ [w] → l.length + 1 = n → v.afterHead n = w.addr + 1) ∧
    (∀ a : PAddr, v.held.take n = l ++ [w] → l.length + 1 = n →
      (∀ i x, (l ++ [w])[i]? = some x → x.addr = a + BitVec.ofNat 13 i) → v.afterHead n = a + BitVec.ofNat 13 n)

/-- Control instructions (R39, R66, R74 to R77): where each one goes on, what calls and returns do to the return
stack, and the traps STACK_OVF and STACK_UNF, which leave the stack unchanged. -/
def Claims.ControlIssues : Prop :=
  ∀ (s : State) (c : CellId) (a : PAddr) (n : Nat),
    (s.ComesToIssue c (.nop c) a n → exec (.nop c) s = .next (s.afterIssue c (.nop c) n)) ∧
    (∀ t l, s.ComesToIssue c (.ret c) a n → (s.cell c).rstack = t :: l →
      exec (.ret c) s = .next ((s.modCell c fun v => { v with rstack := l }).afterBranch c (.ret c) n t)) ∧
    (s.ComesToIssue c (.ret c) a n → (s.cell c).rstack = [] → exec (.ret c) s = .next (s.afterTrap c a n 4 0)) ∧
    (∀ r, s.ComesToIssue c (.jr c r) a n →
      exec (.jr c r) s = .next (s.afterBranch c (.jr c r) n (((s.cell c).s r).setWidth 13))) ∧
    (∀ r, s.ComesToIssue c (.callr c r) a n →
      exec (.callr c r) s = .next (if 8 ≤ (s.cell c).rstack.length then s.afterTrap c a n 3 0
        else (s.modCell c fun v => { v with rstack := (s.cell c).afterHead n :: v.rstack }).afterBranch c (.callr c r) n
          (((s.cell c).s r).setWidth 13))) ∧
    (∀ disp, s.ComesToIssue c (.call c disp) a n →
      exec (.call c disp) s = .next (if 8 ≤ (s.cell c).rstack.length then s.afterTrap c a n 3 0
        else (s.modCell c fun v => { v with rstack := (s.cell c).afterHead n :: v.rstack }).afterBranch c
          (.call c disp) n (a + disp))) ∧
    (∀ disp, s.ComesToIssue c (.b c disp) a n →
      exec (.b c disp) s = .next (s.afterBranch c (.b c disp) n (a + disp))) ∧
    (∀ k disp, s.ComesToIssue c (.bcc c k disp) a n →
      exec (.bcc c k disp) s = .next (if (s.cell c).cond.holds k then s.afterBranch c (.bcc c k disp) n (a + disp)
        else s.afterIssue c (.bcc c k disp) n))

/-- The words that stay held where an instruction of `n` words changes a counter's loop: the words that follow it are
discarded where fetch has made an end test of that loop for one of them (R43). -/
def Claims.heldFor (v : Cell) (n : Nat) (k : CtrNo) : List HeldWord :=
  if Cell.tested k (v.held.drop n) (Cell.leaveWords (v.held.take n) v v.pc).1 then v.held.take n else v.held

/-- Loop counters (R40, R42, R43, R76, R77, R94): LOOP sets the loop up on its counter, abandoning an earlier one,
and a trip count of zero skips the body; LEXIT makes the loop inactive; CWR writes the count; the words that fetch took
by an end test that the change overtakes are discarded. -/
def Claims.LoopCounterIssues : Prop :=
  ∀ (s : State) (c : CellId) (a : PAddr) (n : Nat) (k : CtrNo),
    (∀ len t, s.ComesToIssue c (.loop c k len t) a n → (s.cell c).trips t = 0 →
      ∃ v : Cell, exec (.loop c k len t) s = .next ((s.setCell c v).afterBranch c (.loop c k len t) n
          ((s.cell c).afterHead n + len.setWidth 13)) ∧
        (v.loop k).count = 0 ∧ (v.loop k).active = false ∧ v.loopOrder = (s.cell c).loopOrder.filter (· != k) ∧
        (∀ j, j ≠ k → v.loop j = (s.cell c).loop j) ∧
        v = { s.cell c with loops := v.loops, loopOrder := v.loopOrder }) ∧
    (∀ len t, s.ComesToIssue c (.loop c k len t) a n → (s.cell c).trips t ≠ 0 →
      ∃ v : Cell, exec (.loop c k len t) s = .next ((s.setCell c v).afterIssue c (.loop c k len t) n) ∧
        v.loop k = ⟨(s.cell c).trips t, (s.cell c).afterHead n, (s.cell c).afterHead n + len.setWidth 13 - 1, true⟩ ∧
        v.loopOrder = k :: (s.cell c).loopOrder.filter (· != k) ∧
        (∀ j, j ≠ k → v.loop j = (s.cell c).loop j) ∧
        v = { s.cell c with loops := v.loops, loopOrder := v.loopOrder }) ∧
    (s.ComesToIssue c (.lexit c k) a n →
      ∃ v : Cell, exec (.lexit c k) s = .next ((s.setCell c v).afterIssue c (.lexit c k) n) ∧
        v.loop k = { (s.cell c).loop k with active := false } ∧
        v.loopOrder = (s.cell c).loopOrder.filter (· != k) ∧ (∀ j, j ≠ k → v.loop j = (s.cell c).loop j) ∧
        v.held = Claims.heldFor (s.cell c) n k ∧
        v = { s.cell c with loops := v.loops, loopOrder := v.loopOrder, held := v.held }) ∧
    (∀ r, s.ComesToIssue c (.cwr c k r) a n →
      ∃ v : Cell, exec (.cwr c k r) s = .next ((s.setCell c v).afterIssue c (.cwr c k r) n) ∧
        v.loop k = { (s.cell c).loop k with count := ((s.cell c).s r).setWidth 24 } ∧
        (∀ j, j ≠ k → v.loop j = (s.cell c).loop j) ∧
        v.held = Claims.heldFor (s.cell c) n k ∧ v = { s.cell c with loops := v.loops, held := v.held })

/-- Control flow and the loop counters (R39 to R43, R60, R66, R74 to R77, R94). -/
def Obligations.ControlAndLoops : Prop :=
  Claims.RetireFrame ∧ Claims.LoopEndTest ∧ Claims.WordAfter ∧ Claims.ControlIssues ∧ Claims.LoopCounterIssues

/-! ### Traps, returns, fetch and the CSRs (02) -/

/-- What takes a cell away from an MMT that stages its inputs abandons the staging and releases its ranges (R142; log
entry 34); a cell that stages nothing stays as it is. -/
def Claims.StagingAbandoned : Prop :=
  ∀ v : Cell, (v.staging = false → v.abandon = v) ∧
    (v.staging = true → v.abandon = { v with staging := false, board := v.board.filter fun e => e.owner != .staging })

/-- Trap entry (R53): cause, EPC, INFO and RAW are recorded, INTRAP is set, the held words are discarded, and the
cell goes on at the vector entry of the cause. While a handler runs, the cell stops in FAULTED instead, keeping the
record of the first trap, and the fault is numbered (R55, R445). No other cell and nothing but cells changes on an
entry. -/
def Claims.TrapEntry : Prop :=
  ∀ (s : State) (c : CellId) (a : PAddr) (n cause : Nat) (info : Word), cause < 16 →
    ((s.cell c).intrap = false →
      (s.afterTrap c a n cause info).cell c =
        { (s.cell c).abandon with
                        cause := BitVec.ofNat 32 cause, epc := a, info := info,
                        raw := rawOf (((s.cell c).held.take n).map (·.word)), intrap := true, held := [],
                        pc := BitVec.ofNat 13 cause } ∧
      (∀ d, d ≠ c → (s.afterTrap c a n cause info).cell d = s.cell d) ∧
      s.afterTrap c a n cause info = { s with cells := (s.afterTrap c a n cause info).cells }) ∧
    ((s.cell c).intrap = true →
      ((s.afterTrap c a n cause info).cell c).run = .faulted ∧ ((s.afterTrap c a n cause info).cell c).wait = none ∧
      ((s.afterTrap c a n cause info).cell c).doubleTrap = true ∧
      ((s.afterTrap c a n cause info).cell c).info = (s.cell c).info ∧
      ((s.afterTrap c a n cause info).cell c).raw = (s.cell c).raw ∧
      ((s.afterTrap c a n cause info).cell c).cause = (s.cell c).cause ∧
      ((s.afterTrap c a n cause info).cell c).epc = (s.cell c).epc ∧
      (s.afterTrap c a n cause info).faultSeq = s.faultSeq + 1)

/-- The words of CL_TRAP_RAW: W0, W1 and W2 from bit 0, and their number from bit 42 (02, CL_TRAP_RAW). -/
def Claims.TrapRawFields : Prop :=
  ∀ (w₀ w₁ w₂ : Word14),
    bits (rawOf [w₀, w₁, w₂]) 13 0 = w₀.toNat ∧ bits (rawOf [w₀, w₁, w₂]) 27 14 = w₁.toNat ∧
    bits (rawOf [w₀, w₁, w₂]) 41 28 = w₂.toNat ∧ bits (rawOf [w₀, w₁, w₂]) 43 42 = 3 ∧
    bits (rawOf [w₀, w₁]) 13 0 = w₀.toNat ∧ bits (rawOf [w₀, w₁]) 27 14 = w₁.toNat ∧
    bits (rawOf [w₀, w₁]) 41 28 = 0 ∧ bits (rawOf [w₀, w₁]) 43 42 = 2 ∧
    bits (rawOf [w₀]) 13 0 = w₀.toNat ∧ bits (rawOf [w₀]) 41 14 = 0 ∧ bits (rawOf [w₀]) 43 42 = 1

/-- Trap entry and what CL_TRAP_RAW holds (R53, R55). -/
def Claims.TrapEntries : Prop :=
  Claims.StagingAbandoned ∧ Claims.TrapEntry ∧ Claims.TrapRawFields

/-- TRAP takes SWTRAP with its code (R97); TRET and TRET.SKIP clear INTRAP and go on at CL_TRAP_EPC, or past the
trapping instruction's words (R54), and outside a handler raise RSV_SUB (R56); ARITH_TRAP takes the pending
arithmetic trap with the address of the next instruction and that of the one that set the flag (R51), but not while
a handler runs (R55) or the cell does not issue (R57). -/
def Claims.TrapsAndReturns : Prop :=
  ∀ (s : State) (c : CellId) (a : PAddr) (n : Nat),
    (∀ code, s.ComesToIssue c (.trap c code) a n →
      exec (.trap c code) s = .next (s.afterTrap c a n 13 (code.setWidth 32))) ∧
    (s.ComesToIssue c (.tret c) a n → (s.cell c).intrap = true → ∃ t : State, exec (.tret c) s = .next t ∧
      t.cell c = { s.cell c with intrap := false, pc := (s.cell c).epc, held := [], pushed := none } ∧
      (∀ d, d ≠ c → t.cell d = s.cell d) ∧ t = { s with cells := t.cells, tally := t.tally }) ∧
    (s.ComesToIssue c (.tretSkip c) a n → (s.cell c).intrap = true → ∃ t : State, exec (.tretSkip c) s = .next t ∧
      t.cell c = { s.cell c with intrap := false, held := [], pushed := none
                                 pc := (s.cell c).epc + BitVec.ofNat 13 (bits (s.cell c).raw 43 42) } ∧
      (∀ d, d ≠ c → t.cell d = s.cell d) ∧ t = { s with cells := t.cells, tally := t.tally }) ∧
    (s.ComesToIssue c (.tret c) a n → (s.cell c).intrap = false → exec (.tret c) s = .next (s.afterTrap c a n 2 0)) ∧
    (s.ComesToIssue c (.tretSkip c) a n → (s.cell c).intrap = false →
      exec (.tretSkip c) s = .next (s.afterTrap c a n 2 0)) ∧
    (∀ x, (s.cell c).arith = some x → s.canRun c = true → (s.cell c).intrap = false →
      ∃ t : State, exec (.arithTrap c) s = .next t ∧
        t.cell c = { (s.cell c).abandon with arith := none, cause := 11, epc := (s.cell c).pc, info := x.setWidth 32, raw := 0,
                                             intrap := true, held := [], pc := 11 } ∧
        (∀ d, d ≠ c → t.cell d = s.cell d) ∧ t = { s with cells := t.cells }) ∧
    ((s.cell c).arith = none ∨ s.canRun c = false ∨ (s.cell c).intrap = true → exec (.arithTrap c) s = .next s)

/-- Trap entry, traps taken by instructions and by flags, and returns from a handler (R51, R53 to R56, R97). -/
def Obligations.TrapsAndReturns : Prop := Claims.TrapEntries ∧ Claims.TrapsAndReturns

/-- FETCH brings one word into the hold, with the verdict of its parity check, while the hold has fewer than four
(R38, R69): from the program counter where nothing is held. HALT waits for earlier instructions (R60), then the
cell is HALTED, and its plot DONE where every other cell of it is HALTED (R195); a HALT of the library's
report-and-halt routine reports the trap (R37; log entry 17). -/
def Claims.FetchAndHalt : Prop :=
  ∀ (s : State) (c : CellId) (a : PAddr) (n : Nat),
    (s.canRun c = true → (s.cell c).held.length < 4 →
      ∃ t : State, exec (.fetch c) s = .next (t.settle c) ∧
        (∃ w, t.cell c = { s.cell c with held := (s.cell c).held ++ [w] } ∧
          w.addr = (s.cell c).fetchAddr ∧ ((s.cell c).held = [] → w.addr = (s.cell c).pc) ∧
          w.word.toNat = (s.pmemWord c w.addr).toNat % 2 ^ 14 ∧
          (w.parityOk = true ↔ popcount (s.pmemWord c w.addr).toNat 15 % 2 = 0)) ∧
        (∀ d, d ≠ c → t.cell d = s.cell d) ∧ t = { s with cells := t.cells }) ∧
    (s.canRun c = true → 4 ≤ (s.cell c).held.length → exec (.fetch c) s = .next (s.settle c)) ∧
    (s.canRun c = false → exec (.fetch c) s = .next s) ∧
    (s.ComesToIssue c (.halt c) a n → (s.cell c).idle = false → exec (.halt c) s = .next s) ∧
    (s.ComesToIssue c (.halt c) a n → (s.cell c).idle = true → (s.cell c).intrap = true → 0x1C00 ≤ a.toNat →
      ∃ t : State, exec (.halt c) s = .next (t.afterIssue c (.halt c) n) ∧
        t = (s.setCell c { s.cell c with run := .halted, reported := true }).cellTrapFault c (s.cell c).cause.toNat false
          (s.cell c).epc ∧
        (t.cell c).run = .halted ∧ (t.cell c).reported = true ∧ (t.cell c).intrap = true ∧
        t.faultSeq = s.faultSeq + 1) ∧
    (s.ComesToIssue c (.halt c) a n → (s.cell c).idle = true → ((s.cell c).intrap = false ∨ a.toNat < 0x1C00) →
      ∃ t : State, exec (.halt c) s = .next (t.afterIssue c (.halt c) n) ∧
        t.cell c = { s.cell c with run := .halted } ∧ (∀ d, d ≠ c → t.cell d = s.cell d) ∧
        ((s.plot (s.cell c).owner).state = .running →
          (∀ d ∈ (s.plot (s.cell c).owner).cells, d ≠ c → (s.cell d).run = .halted) →
          (t.plot (s.cell c).owner).state = .done ∧ (t.plot (s.cell c).owner).events.getLsbD 0 = true) ∧
        ((s.plot (s.cell c).owner).state ≠ .running ∨
            (∃ d ∈ (s.plot (s.cell c).owner).cells, d ≠ c ∧ (s.cell d).run ≠ .halted) →
          t = { s with cells := t.cells }))

/-- The head of the hold traps of itself before it issues (R38, R52, R100): a breakpoint first, outside a handler, then a
failed parity check, then a reserved encoding. A word that fails is counted by the hub when it is part of the head
(log entry 64), and a failing word at the vector entry of PMEM_PARITY stops the cell. Nothing else of a head settles. -/
def Claims.HeadSettles : Prop :=
  ∀ (s : State) (c : CellId) (w : HeldWord) (l : List HeldWord), s.canRun c = true → (s.cell c).arithDue = false →
    (s.cell c).held = w :: l →
    (∀ sp n, (s.cell c).head c = some (n, sp) → (∀ x ∈ (s.cell c).held.take n, x.parityOk = true) →
      ((s.cell c).bkptEn = true → (s.cell c).bkptAddr = w.addr → (s.cell c).intrap = false →
        s.settle c = s.afterTrap c w.addr n 14 0) ∧
      ((s.cell c).bkptEn = false ∨ (s.cell c).bkptAddr ≠ w.addr ∨ (s.cell c).intrap = true →
        (∀ i, sp = .instr i → s.settle c = s) ∧
        (∀ k, sp = .reserved k → s.settle c = s.afterTrap c w.addr n k 0))) ∧
    ((s.cell c).head c = none → (∀ x ∈ (s.cell c).held, x.parityOk = true) → s.settle c = s) ∧
    (∀ l₁ x l₂, (s.cell c).held = l₁ ++ x :: l₂ → (∀ y ∈ l₁, y.parityOk = true) → x.parityOk = false →
      (∀ sp n, (s.cell c).head c = some (n, sp) → l₁.length < n) →
      ((s.cell c).bkptEn = true → (s.cell c).bkptAddr = w.addr → (s.cell c).intrap = false →
        s.settle c = s.precise c 14 w.addr 0 (rawOf ((l₁ ++ [x]).map (·.word)))) ∧
      ((s.cell c).bkptEn = false ∨ (s.cell c).bkptAddr ≠ w.addr ∨ (s.cell c).intrap = true →
        s.settle c =
          let t := s.modHub (fieldOf c) fun h => { h with pmemErrs := h.pmemErrs + 1 }
          if x.addr = 12 then t.cellStops c 12 w.addr false
          else t.precise c 12 w.addr 0 (rawOf ((l₁ ++ [x]).map (·.word)))))

/-- FETCH, the head of the hold, and HALT (R38, R52, R60, R69, R100; log entries 17 and 64). -/
def Obligations.FetchAndHalt : Prop := Claims.FetchAndHalt ∧ Claims.HeadSettles

/-- What each offset of the CSRs reads as (02, Cell CSRs): CL_STATUS from its fields, the registers, and the halves of
CL_TRAP_RAW and CL_TICK; the high half that a read of the low half captured comes first (R10). -/
def Claims.CsrValues : Prop :=
  ∀ (s : State) (v : Cell),
    (∃ x, s.csr v 0x000 = some x ∧ (v.rstack.length ≤ 8 → bits x 3 0 = v.rstack.length ∧
      (∀ k : CtrNo, x.getLsbD (4 + k.toNat) = (v.loop k).active) ∧ x.getLsbD 8 = v.intrap ∧
      x.getLsbD 9 = v.arith.isSome ∧ bits x 31 10 = 0)) ∧
    s.csr v 0x004 = some v.self ∧ s.csr v 0x008 = some v.plot ∧ s.csr v 0x010 = some v.cause ∧
    s.csr v 0x014 = some (v.epc.setWidth 32) ∧ s.csr v 0x018 = some v.info ∧
    s.csr v 0x020 = some (v.raw.extractLsb' 0 32) ∧ s.csr v 0x024 = some (v.raw.extractLsb' 32 32) ∧
    s.csr v 0x030 = some (v.aflags.setWidth 32) ∧ s.csr v 0x034 = some (v.aftrap.setWidth 32) ∧
    s.csr v 0x038 = some v.blcount ∧ s.csr v 0x040 = some (v.evflags.setWidth 32) ∧
    s.csr v 0x044 = some (v.evlost.setWidth 32) ∧ s.csr v 0x048 = some (v.vmask.setWidth 32) ∧
    s.csr v 0x050 = some (BitVec.ofNat 32 ((if v.bkptEn then 2 ^ 31 else 0) + v.bkptAddr.toNat)) ∧
    s.csr v 0x058 = some s.libver ∧
    s.csr v 0x060 = some ((BitVec.ofNat 64 s.tick).extractLsb' 0 32) ∧
    s.csr v 0x064 = some ((BitVec.ofNat 64 s.tick).extractLsb' 32 32) ∧
    (∀ off, off ∉ [0x000, 0x004, 0x008, 0x010, 0x014, 0x018, 0x020, 0x024, 0x030, 0x034, 0x038, 0x040, 0x044, 0x048, 0x050,
      0x058, 0x060, 0x064] → s.csr v off = none) ∧
    (∀ lo h, v.csrSnap = some (lo, h) → s.csrValue v (lo + 4) = some h) ∧
    (∀ off, (∀ lo h, v.csrSnap = some (lo, h) → off ≠ lo + 4) → s.csrValue v off = s.csr v off)

/-- CSR access (R6, R10, R97): CSRR returns the register, clears CL_BLCOUNT and CL_EVLOST, and at the low half of a 64-bit
register captures the high half; CSRW writes the fields that a program may write, and clears bits of CL_AFLAGS written as
1; an offset that is not listed raises BAD_CSR. -/
def Claims.CsrInstructions : Prop :=
  ∀ (s : State) (c : CellId) (a : PAddr) (n : Nat) (off : BitVec 16),
    (∀ d x, s.ComesToIssue c (.csrr c d off) a n → s.csrValue (s.cell c) off.toNat = some x →
      ∃ v : Cell, exec (.csrr c d off) s = .next ((s.setCell c v).afterIssue c (.csrr c d off) n) ∧
        v.results = (s.cell c).results ++ [{ unit := .scalar, addr := a, sdst := some (d, x) }] ∧
        v = { s.cell c with results := v.results
                            csrSnap := if off = 0x20 then some (0x20, (s.cell c).raw.extractLsb' 32 32)
                              else if off = 0x60 then some (0x60, s.tick64.extractLsb' 32 32) else none
                            blcount := if off = 0x38 then 0 else (s.cell c).blcount
                            evlost := if off = 0x44 then 0 else (s.cell c).evlost }) ∧
    (∀ d, s.ComesToIssue c (.csrr c d off) a n → s.csrValue (s.cell c) off.toNat = none →
      exec (.csrr c d off) s = .next (s.afterTrap c a n 10 0)) ∧
    (∀ r, s.ComesToIssue c (.csrw c r off) a n → s.csr (s.cell c) off.toNat = none →
      exec (.csrw c r off) s = .next (s.afterTrap c a n 10 0)) ∧
    (∀ r, s.ComesToIssue c (.csrw c r off) a n → s.csr (s.cell c) off.toNat ≠ none →
      exec (.csrw c r off) s = .next ((s.setCell c { s.cell c with
        csrSnap := none
        epc := if off = 0x14 then ((s.cell c).s r).setWidth 13 else (s.cell c).epc
        aflags := if off = 0x30 then (s.cell c).aflags &&& ~~~(((s.cell c).s r).setWidth 6) else (s.cell c).aflags
        aftrap := if off = 0x34 then ((s.cell c).s r).setWidth 6 else (s.cell c).aftrap
        evflags := if off = 0x40 then ((s.cell c).s r).setWidth 16 else (s.cell c).evflags
        vmask := if off = 0x48 then ((s.cell c).s r).setWidth 16 else (s.cell c).vmask
        bkptEn := if off = 0x50 then ((s.cell c).s r).msb else (s.cell c).bkptEn
        bkptAddr := if off = 0x50 then ((s.cell c).s r).setWidth 13 else (s.cell c).bkptAddr }).afterIssue c
          (.csrw c r off) n))

/-- CSR access (R6, R10, R97; 02, Cell CSRs). -/
def Obligations.CsrAccess : Prop := Claims.CsrValues ∧ Claims.CsrInstructions

/-- Wain issue (R96): WGO hands a chain to a wain that the cell's plot owns, at a LOFT address of the cell; an idle wain runs
it, but for one that a run-dry stops (R310), and the field is GATED no more (R442). It is held while the wain holds four
chains or is in ERROR. WSTAT reads WN_STATUS; a wain of another owner raises TARGET, and an address
beyond the loft or not a multiple of 64 raises LOFT_RANGE or LOFT_ALIGN. -/
def Obligations.WainIssue : Prop :=
  ∀ (s : State) (c : CellId) (a : PAddr) (n : Nat) (w : BitVec 3) (r : SReg),
    (s.ComesToIssue c (.wgo c w r) a n →
      (s.wain (wainKey (.hub (fieldOf c) w))).owner = (s.cell c).owner → (s.cell c).owner.toNat < 96 →
      (0x1FFFFF < ((s.cell c).s r).toNat → exec (.wgo c w r) s = .next (s.afterTrap c a n 5 ((s.cell c).s r))) ∧
      (((s.cell c).s r).toNat ≤ 0x1FFFFF → ((s.cell c).s r).toNat % 64 ≠ 0 →
        exec (.wgo c w r) s = .next (s.afterTrap c a n 6 ((s.cell c).s r))) ∧
      (((s.cell c).s r).toNat ≤ 0x1FFFFF → ((s.cell c).s r).toNat % 64 = 0 →
        (4 ≤ (s.wain (wainKey (.hub (fieldOf c) w))).chains.length ∨
          (s.wain (wainKey (.hub (fieldOf c) w))).state = .error → exec (.wgo c w r) s = .next s) ∧
        ((s.wain (wainKey (.hub (fieldOf c) w))).chains.length < 4 →
          (s.wain (wainKey (.hub (fieldOf c) w))).state ≠ .error →
          ∃ x : Wain, exec (.wgo c w r) s =
              .next (((s.rouse (fieldOf c)).setWain (wainKey (.hub (fieldOf c) w)) x).afterIssue c (.wgo c w r) n) ∧
            x.chains = (s.wain (wainKey (.hub (fieldOf c) w))).chains ++
              [ownLoft (s.cell c).px (s.cell c).py ((s.cell c).s r).toNat] ∧
            ((s.wain (wainKey (.hub (fieldOf c) w))).state = .idle →
              x = { s.wain (wainKey (.hub (fieldOf c) w)) with
                      state := if (s.wain (wainKey (.hub (fieldOf c) w))).dryReq then .stopped else .running
                      chains := x.chains, descAddr := ownLoft (s.cell c).px (s.cell c).py ((s.cell c).s r).toNat
                      progress := 0, desc := none, packets := [], issued := 0 }) ∧
            ((s.wain (wainKey (.hub (fieldOf c) w))).state ≠ .idle →
              x = { s.wain (wainKey (.hub (fieldOf c) w)) with chains := x.chains })))) ∧
    (s.ComesToIssue c (.wstat c w r) a n →
      (s.wain (wainKey (.hub (fieldOf c) w))).owner = (s.cell c).owner → (s.cell c).owner.toNat < 96 →
      exec (.wstat c w r) s = .next ((s.modCell c fun v => v.push
        { unit := .scalar, addr := a, sdst := some (r, (s.wain (wainKey (.hub (fieldOf c) w))).status) }).afterIssue c
          (.wstat c w r) n)) ∧
    ((s.wain (wainKey (.hub (fieldOf c) w))).owner ≠ (s.cell c).owner ∨ 96 ≤ (s.cell c).owner.toNat →
      (s.ComesToIssue c (.wgo c w r) a n → exec (.wgo c w r) s = .next (s.afterTrap c a n 9 (w.setWidth 32))) ∧
      (s.ComesToIssue c (.wstat c w r) a n → exec (.wstat c w r) s = .next (s.afterTrap c a n 9 (w.setWidth 32))))

/-! ### Loft access of a cell (03, 06) -/

/-- Where a loft access goes (R81, R186, R187): the sum of the address register and the scaled offset, formed
without wrapping; LOFT_RANGE below 0 or beyond the window, then LOFT_ALIGN; the cell's own loft outside a bay, and in a
bay 64 B units dealt over the bay's 24 cells, except the library's save area, which is the cell's own. -/
def Claims.LoftPlaces : Prop :=
  ∀ (s : State) (c : CellId) (base : Word) (x : Int) (size : Nat), 0 < size →
    let sum : Int := base.toNat + x * size
    let bay := (s.plot (s.cell c).owner).bay
    (sum < 0 ∨ (if bay then 0x3000000 else 0x200000) ≤ sum → s.loftPlace c base x size = .trap 5 (BitVec.ofInt 32 sum)) ∧
    (0 ≤ sum → sum < (if bay then 0x3000000 else 0x200000) → sum % size ≠ 0 →
      s.loftPlace c base x size = .trap 6 (BitVec.ofInt 32 sum)) ∧
    (0 ≤ sum → sum % size = 0 → bay = false → sum < 0x200000 → s.loftPlace c base x size = .at_ c sum.toNat) ∧
    (0x1FFFC0 ≤ sum → sum < 0x200000 → sum % size = 0 → s.loftPlace c base x size = .at_ c sum.toNat) ∧
    (0 ≤ sum → sum < 0x3000000 → sum % size = 0 → bay = true → ¬(0x1FFFC0 ≤ sum ∧ sum < 0x200000) →
      ∀ unit k, sum.toNat = (unit * 24 + k) * 64 + sum.toNat % 64 → k < 24 →
        s.loftPlace c base x size = .at_ ((s.plot (s.cell c).owner).cellAt
          ((s.cell c).px / 4 * 4 + k % 4) ((s.cell c).py / 6 * 6 + k / 4)) (unit * 64 + sum.toNat % 64))

/-- LW, LH and VLD (R81, R87, R159, R167 to R169, R188): an address that is refused traps; a local load reads the
loft and hands its unit the bytes, zero-extended or under the lane mask; it traps on an uncorrectable word; it is held by
the scoreboard or an MMT's weight stream; a load from another cell of the bay is sent as a read request. -/
def Claims.LoadIssues : Prop :=
  ∀ (s : State) (c : CellId) (i : Instr) (a : PAddr) (n : Nat) (dst : SReg ⊕ VReg) (b : SReg) (x : Int) (size : Nat),
    s.ComesToIssue c i a n → i.cellOf = some c → loadOf i = some (dst, b, x, size) →
    (∀ k y, s.loftPlace c ((s.cell c).s b) x size = .trap k y → exec i s = .next (s.afterTrap c a n k y)) ∧
    (∀ p, s.loftPlace c ((s.cell c).s b) x size = .at_ c p →
      (∀ t bytes, s.loftRead c p size 0 = (t, bytes, false) → (s.cell c).mayRead p size = true →
        (s.cell c).streaming = false →
        exec i s = .next ((t.modCell c fun v => v.push (loadResult v a dst bytes)).afterIssue c i n)) ∧
      (∀ t bytes, s.loftRead c p size 0 = (t, bytes, true) → exec i s = .next (t.precise c 7 a
        (BitVec.ofInt 32 (((s.cell c).s b).toNat + x * size)) (rawOf (((s.cell c).held.take n).map (·.word))))) ∧
      (∀ t bytes, s.loftRead c p size 0 = (t, bytes, false) →
        (s.cell c).mayRead p size = false ∨ (s.cell c).streaming = true → exec i s = .next s)) ∧
    (∀ d p, s.loftPlace c ((s.cell c).s b) x size = .at_ d p → d ≠ c →
      ((s.cell c).freeTag = none → exec i s = .next s) ∧
      (∀ tag, (s.cell c).freeTag = some tag →
        exec i s = .next (((s.modCell c fun v => { v with bayLoads := v.bayLoads ++
          [{ tag := tag, addr := a, len := n, raw := rawOf (((s.cell c).held.take n).map (·.word))
             window := (((s.cell c).s b).toNat + x * size).toNat, dst := dst, size := size, mask := (s.cell c).vmask }] }).cellToCell
          c d (.readReq (BitVec.ofNat 54 p) (BitVec.ofNat 8 (size - 1)) tag)).afterIssue c i n)))

/-- A read of the loft that meets no recorded error and no unclaimed window returns the bytes that stand there, and but
for the count of the 64 B units read (R463) changes nothing (R161, R166, R181); one that meets an uncorrectable word is
bad, and counted (R167). A masked lane of a vector load keeps its old value, the others take the new (R87); a scalar
load extends its bytes with zeros (R81). -/
def Claims.LoftReads : Prop :=
  (∀ (s : State) (c : CellId) (p size source : Nat), s.refusedRange c p size = false →
    (∀ w ∈ wordsOf c p size, Store.get 0 s.loftErr w = 0) →
    s.loftRead c p size source = (s.countUnits c 6 p size, s.loft.readBytes (loftKey c p) size, false)) ∧
  (∀ (s : State) (c : CellId) (p size source : Nat), s.refusedRange c p size = false →
    (∃ w ∈ wordsOf c p size, 2 ≤ Store.get 0 s.loftErr w) →
    (s.loftRead c p size source).2.2 = true ∧
    ((s.hub (fieldOf c)).uecnt.toNat < 2 ^ 32 - 1 →
      (s.hub (fieldOf c)).uecnt.toNat < ((s.loftRead c p size source).1.hub (fieldOf c)).uecnt.toNat)) ∧
  (∀ (v : Cell) (a : PAddr) (r : SReg) (l : List Byte),
    loadResult v a (.inl r) l = { unit := .scalar, addr := a, sdst := some (r, BitVec.ofNat 32 (leNat l)) }) ∧
  (∀ (mask : BitVec 16) (old new : Vec512) (k : Nat), k < 16 →
    bits (maskLanes mask old new) (32 * k + 31) (32 * k) =
      if mask.getLsbD k then bits new (32 * k + 31) (32 * k) else bits old (32 * k + 31) (32 * k))

/-- Loads from the loft and from a bay's window (R81, R87, R180). -/
def Obligations.Loads : Prop :=
  Claims.LoftPlaces ∧ Claims.LoadIssues ∧ Claims.LoftReads

/-- SW, SH and VST (R81, R87, R163, R169, R188): an address that is refused traps; a local store is held by the
scoreboard, and else writes the loft; a store to another cell of the bay sends its bytes as write requests. -/
def Claims.StoreIssues : Prop :=
  ∀ (s : State) (c : CellId) (i : Instr) (a : PAddr) (n : Nat) (bytes : List (Option Byte)) (b : SReg) (x : Int),
    s.ComesToIssue c i a n → i.cellOf = some c → storeOf (s.cell c) i = some (bytes, b, x) →
    (∀ k y, s.loftPlace c ((s.cell c).s b) x bytes.length = .trap k y → exec i s = .next (s.afterTrap c a n k y)) ∧
    (∀ p, s.loftPlace c ((s.cell c).s b) x bytes.length = .at_ c p →
      ((s.cell c).mayWrite p bytes.length = false → exec i s = .next s) ∧
      ((s.cell c).mayWrite p bytes.length = true → exec i s = .next ((s.loftWrite c p bytes).afterIssue c i n))) ∧
    (∀ d p, s.loftPlace c ((s.cell c).s b) x bytes.length = .at_ d p → d ≠ c →
      (s.bayWrite c d p (keptRuns bytes 0 []) = none → exec i s = .next s) ∧
      (∀ t, s.bayWrite c d p (keptRuns bytes 0 []) = some t → exec i s = .next (t.afterIssue c i n)))

/-- A store to another cell of the bay: the bytes that the mask keeps leave in runs, each as one write request that is
acknowledged, under a tag that the cell has free (R188, R189). -/
def Claims.BayWrites : Prop :=
  (∀ (s : State) (c d : CellId) (p : Nat), s.bayWrite c d p [] = some s) ∧
  (∀ (s : State) (c d : CellId) (p off : Nat) (bytes : List Byte) (l : List (Nat × List Byte)),
    ((s.cell c).freeTag = none → s.bayWrite c d p ((off, bytes) :: l) = none) ∧
    (∀ tag, (s.cell c).freeTag = some tag → s.bayWrite c d p ((off, bytes) :: l) =
      ((s.modCell c fun v => { v with bayStores := v.bayStores ++ [tag] }).cellToCell c d
        (.writeReq (BitVec.ofNat 54 (p + off)) (BitVec.ofNat 8 (bytes.length - 1)) false tag bytes)).bayWrite c d p l)) ∧
  (∀ (bytes : List (Option Byte)) (k : Nat) (y : Byte), bytes[k]? = some (some y) ↔
    ∃ e ∈ keptRuns bytes 0 [], e.1 ≤ k ∧ e.2[k - e.1]? = some y)

/-- The bytes of a local store and their frame: an address of the loft memory holds the byte that the store puts
there, or what it held before. The stored bytes begin at the address that R81 gives, and a masked lane stores none. -/
def Claims.StoreWrites : Prop :=
  ∀ (s : State) (c : CellId) (i : Instr) (a : PAddr) (n : Nat) (bytes : List (Option Byte)) (b : SReg) (x : Int) (p : Nat),
    s.ComesToIssue c i a n → i.cellOf = some c → storeOf (s.cell c) i = some (bytes, b, x) →
    s.loftPlace c ((s.cell c).s b) x bytes.length = .at_ c p → (s.cell c).mayWrite p bytes.length = true →
    s.refusedRange c p bytes.length = false →
    ∃ t : State, exec i s = .next t ∧
      (∀ k y, bytes[k]? = some (some y) → t.loft.read (loftKey c p + k) = y) ∧
      (∀ k, bytes[k]? = some none → t.loft.read (loftKey c p + k) = s.loft.read (loftKey c p + k)) ∧
      (∀ q, q < loftKey c p ∨ loftKey c p + bytes.length ≤ q → t.loft.read q = s.loft.read q) ∧
      t.granary = s.granary ∧ t.hostMem = s.hostMem ∧ ∀ r, (t.cell c).s r = (s.cell c).s r ∧ ∀ e, (t.cell c).v e = (s.cell c).v e

/-- An unclaimed resident window refuses a store: its bytes stay, the bytes outside it are stored, and the hub counts
one violation (R181). The partial words outside it are merged as any (R163), and nothing else changes. -/
def Claims.ResidentRefuses : Prop :=
  ∀ (s : State) (c : CellId) (p : Nat) (bytes : List Byte), s.refusedRange c p bytes.length = true →
    (∀ k y, bytes[k]? = some y → (s.loftWrite c p (bytes.map some)).loft.read (loftKey c p + k) =
      if s.inUnclaimed c (p + k) then s.loft.read (loftKey c p + k) else y) ∧
    (∀ q, q < loftKey c p ∨ loftKey c p + bytes.length ≤ q →
      (s.loftWrite c p (bytes.map some)).loft.read q = s.loft.read q) ∧
    ((s.loftWrite c p (bytes.map some)).hub (fieldOf c)).resviol.toNat = min ((s.hub (fieldOf c)).resviol.toNat + 1) (2 ^ 32 - 1) ∧
    s.loftWrite c p (bytes.map some) =
      { s with loft := (s.loftWrite c p (bytes.map some)).loft, hubs := (s.loftWrite c p (bytes.map some)).hubs
               loftErr := (s.loftWrite c p (bytes.map some)).loftErr, scrubs := (s.loftWrite c p (bytes.map some)).scrubs
               tally := (s.loftWrite c p (bytes.map some)).tally, ports := (s.loftWrite c p (bytes.map some)).ports }

/-- Stores to the loft and to a bay's window, and what they leave alone (R81, R87, R180). -/
def Obligations.Stores : Prop :=
  Claims.StoreIssues ∧ Claims.BayWrites ∧ Claims.StoreWrites ∧ Claims.ResidentRefuses

/-! ### Vector instructions (03, 04) -/

/-- A vector instruction that comes to issue hands the vector unit one result: the elements of R86, R88, R111 to R116
under the lane mask, with the flags of the elements that it writes. -/
def Claims.VectorIssues : Prop :=
  ∀ (s : State) (c : CellId) (i : Instr) (a : PAddr) (n : Nat) (d : VReg) (l : List Elem),
    s.ComesToIssue c i a n → i.cellOf = some c → vectorElems (s.cell c) i = some (d, l) →
    exec i s = .next ((s.modCell c fun v => v.push
      { unit := .vector, addr := a, vdst := [(d, (placeElems v.vmask l (v.v d)).1)]
        flags := (placeElems v.vmask l (v.v d)).2 }).afterIssue c i n)

/-- Elements placed under a lane mask (R85, R87): a lane whose mask bit is clear keeps its bytes and raises no flag;
32-bit elements in open lanes are written. -/
def Claims.LaneMaskKeeps : Prop :=
  ∀ (mask : BitVec 16) (f : Nat → Nat × AFlags) (x : Vec512) (k : Nat), k < 16 →
    (mask.getLsbD k = false →
      bits (placeElems mask (lanewise 32 f) x).1 (32 * k + 31) (32 * k) = bits x (32 * k + 31) (32 * k)) ∧
    (mask.getLsbD k = true → (f (32 * k)).1 < 2 ^ 32 →
      bits (placeElems mask (lanewise 32 f) x).1 (32 * k + 31) (32 * k) = (f (32 * k)).1) ∧
    (mask = 0 → (placeElems mask (lanewise 32 f) x).2 = 0)

/-- Vector instructions of one destination, under the lane mask (R85 to R88). -/
def Obligations.VectorElements : Prop :=
  Claims.VectorIssues ∧ Claims.LaneMaskKeeps

/-- The binary32 operands of a lane, and the flags that the open lanes raise together. -/
def Claims.lane (x : Vec512) (k : Nat) : Nat := bits x (32 * k + 31) (32 * k)
def Claims.openFlags (mask : BitVec 16) (f : Nat → AFlags) : AFlags :=
  (List.range 16).foldl (fun x k => if mask.getLsbD k then x ||| f k else x) 0

/-- The issue of an instruction of two binary32 results (R85, R115): the rounded result goes to the destination and the
error to the next register; a masked lane keeps both old values and raises no flag. -/
def Claims.PairIssues (s : State) (c : CellId) (i : Instr) (a : PAddr) (n : Nat) (op : Nat → Nat → Nat × Nat × AFlags)
    (d x y : VReg) : Prop :=
  let r (k : Nat) := op (Claims.lane ((s.cell c).v x) k) (Claims.lane ((s.cell c).v y) k)
  ∃ p q : Vec512, exec i s = .next ((s.modCell c fun v => v.push
      { unit := .vector, addr := a, vdst := [(d, p), (d + 1, q)]
        flags := Claims.openFlags (s.cell c).vmask fun k => (r k).2.2 }).afterIssue c i n) ∧
    ∀ k, k < 16 →
      Claims.lane p k = (if (s.cell c).vmask.getLsbD k then (r k).1 % 2 ^ 32 else Claims.lane ((s.cell c).v d) k) ∧
      Claims.lane q k = (if (s.cell c).vmask.getLsbD k then (r k).2.1 % 2 ^ 32 else Claims.lane ((s.cell c).v (d + 1)) k)

/-- TWOSUM and TWOPROD (R85, R115). -/
def Claims.PairsIssue : Prop :=
  ∀ (s : State) (c : CellId) (a : PAddr) (n : Nat) (d x y : VReg),
    (s.ComesToIssue c (.twosum c d x y) a n → Claims.PairIssues s c (.twosum c d x y) a n twoSumC d x y) ∧
    (s.ComesToIssue c (.twoprod c d x y) a n → Claims.PairIssues s c (.twoprod c d x y) a n twoProdC d x y)

/-- VBENC (R87, R89, R121 to R123): the scale code goes to the scalar register, and the elements of the block, each in its
place of the part, to the destination, whose other bits stay; an element in a masked lane stays too, raises no flag and
is not counted. -/
def Claims.BlockEncodes : Prop :=
  ∀ (s : State) (c : CellId) (a : PAddr) (n : Nat) (bs : BlockSize) (t : ElemType) (sc : SReg) (part : BitVec 3) (x y : VReg),
    s.ComesToIssue c (.vbenc c bs t sc part x y) a n →
    let codes := blockCodes (s.cell c) y (blockGroups bs)
    let scale := blockScale t (codes.map (decodeF .b32))
    let off (i : Nat) := part.toNat * 64 + i * elemBits t
    let isOpen (i : Nat) := (s.cell c).vmask.getLsbD (off i / 32)
    ∃ p : Vec512, exec (.vbenc c bs t sc part x y) s = .next ((s.modCell c fun v => v.push
        { unit := .vector, addr := a, sdst := some (sc, BitVec.ofNat 32 scale), vdst := [(x, p)]
          flags := codes.zipIdx.foldl (fun f e => if isOpen e.2 then
            f ||| ((blockElem t scale (decodeF .b32 e.1)).2.1 ||| inputFlags .b32 e.1) else f) 0
          lost := (codes.zipIdx.filter fun e => isOpen e.2 && (blockElem t scale (decodeF .b32 e.1)).2.2).length
          }).afterIssue c (.vbenc c bs t sc part x y) n) ∧
      (∀ i k, codes[i]? = some k → off i + elemBits t ≤ 512 →
        elemAt p (off i) (elemBits t) = if isOpen i then (blockElem t scale (decodeF .b32 k)).1 % 2 ^ elemBits t
          else elemAt ((s.cell c).v x) (off i) (elemBits t)) ∧
      ∀ j, j < part.toNat * 64 ∨ off codes.length ≤ j → p.getLsbD j = ((s.cell c).v x).getLsbD j

/-- VBDEC (R87, R89, R118 to R120): each group of 16 elements of the part, under the scale code in the scalar register,
goes to one register, its masked lanes staying; the open lanes raise their flags, and a scale code of 255 raises NV
unless every lane is masked. -/
def Claims.BlockDecodes : Prop :=
  ∀ (s : State) (c : CellId) (a : PAddr) (n : Nat) (bs : BlockSize) (t : ElemType) (sc : SReg) (part : BitVec 3) (x y : VReg),
    s.ComesToIssue c (.vbdec c bs t sc part x y) a n →
    let scale := ((s.cell c).s sc).toNat % 256
    let value (g k : Nat) := roundF .b32 (blockValue t scale
      (elemAt ((s.cell c).v x) (part.toNat * 64 + (16 * g + k) * elemBits t) (elemBits t)))
    let reg (g : Nat) : VReg := BitVec.ofNat 3 (y.toNat + g)
    ∃ z : Nat → Vec512, exec (.vbdec c bs t sc part x y) s = .next ((s.modCell c fun v => v.push
        { unit := .vector, addr := a, vdst := (List.range (blockGroups bs)).map fun g => (reg g, z g)
          flags := (List.range (blockGroups bs)).foldl
            (fun f g => f ||| Claims.openFlags (s.cell c).vmask fun k => (value g k).2)
            (if scale = 255 ∧ (s.cell c).vmask ≠ 0 then flagNV else 0) }).afterIssue c (.vbdec c bs t sc part x y) n) ∧
      ∀ g k, g < blockGroups bs → k < 16 → Claims.lane (z g) k =
        if (s.cell c).vmask.getLsbD k then (value g k).1 % 2 ^ 32 else Claims.lane ((s.cell c).v (reg g)) k

/-- TWOSUM, TWOPROD, VBENC and VBDEC at issue (R85, R87, R89, R115, R118 to R123). -/
def Obligations.VectorPairsAndBlocks : Prop :=
  Claims.PairsIssue ∧ Claims.BlockEncodes ∧ Claims.BlockDecodes

/-! ### Queues, tokens and credits (07) -/

/-- POP, PEEK, DROP and TTEST (R82, R95, R198, R201, R209): a queue that is not enabled, or a width that is not its
own, raises QUEUE_CFG; with no whole element at the head the instruction is held; POP and PEEK hand over the element,
or the token word, with C telling a token; POP and DROP remove it; TTEST hands over the class. -/
def Claims.QueueTakes : Prop :=
  ∀ (s : State) (c : CellId) (a : PAddr) (n : Nat) (vec : Bool) (r : BitVec 4) (q : QueueNo),
    (s.ComesToIssue c (.pop c vec r q) a n →
      ((((s.cell c).queue q).en && ((s.cell c).queue q).vec == vec) = false →
        exec (.pop c vec r q) s = .next (s.afterTrap c a n 8 0)) ∧
      ((((s.cell c).queue q).en && ((s.cell c).queue q).vec == vec) = true →
        (headElem ((s.cell c).queue q).buf = none → exec (.pop c vec r q) s = .next s) ∧
        ∀ e, headElem ((s.cell c).queue q).buf = some e → exec (.pop c vec r q) s =
          .next ((removeHead c q e n (s.modCell c fun v => v.push (headResult vec r a e))).afterIssue c (.pop c vec r q) n))) ∧
    (s.ComesToIssue c (.peek c vec r q) a n →
      ((((s.cell c).queue q).en && ((s.cell c).queue q).vec == vec) = false →
        exec (.peek c vec r q) s = .next (s.afterTrap c a n 8 0)) ∧
      ((((s.cell c).queue q).en && ((s.cell c).queue q).vec == vec) = true →
        (headElem ((s.cell c).queue q).buf = none → exec (.peek c vec r q) s = .next s) ∧
        ∀ e, headElem ((s.cell c).queue q).buf = some e → exec (.peek c vec r q) s =
          .next ((s.modCell c fun v => v.push (headResult vec r a e)).afterIssue c (.peek c vec r q) n))) ∧
    (s.ComesToIssue c (.drop c q) a n →
      (((s.cell c).queue q).en = false → exec (.drop c q) s = .next (s.afterTrap c a n 8 0)) ∧
      (((s.cell c).queue q).en = true →
        (headElem ((s.cell c).queue q).buf = none → exec (.drop c q) s = .next s) ∧
        ∀ e, headElem ((s.cell c).queue q).buf = some e →
          exec (.drop c q) s = .next ((removeHead c q e n s).afterIssue c (.drop c q) n))) ∧
    (s.ComesToIssue c (.ttest c r q) a n →
      (((s.cell c).queue q).en = false → exec (.ttest c r q) s = .next (s.afterTrap c a n 8 0)) ∧
      (((s.cell c).queue q).en = true →
        (headElem ((s.cell c).queue q).buf = none → exec (.ttest c r q) s = .next s) ∧
        ∀ f l, headElem ((s.cell c).queue q).buf = some (f :: l) → exec (.ttest c r q) s =
          .next ((s.modCell c fun v => v.push
            { unit := .scalar, addr := a, sdst := some (r, BitVec.ofNat 32 (classCode f)) }).afterIssue c (.ttest c r q) n)))

/-- What POP and PEEK hand over (R82, R197, R209): the data of a scalar element, both flits of a vector element, or for a
token the token word, 2^31 with the class that TTEST gives, in every lane of a vector; C tells a token. -/
def Claims.HeadValues : Prop :=
  ∀ (r : BitVec 4) (a : PAddr) (f g : SFlit) (l : List SFlit),
    (isToken f = false → headResult false r a (f :: l) =
      { unit := .scalar, addr := a, sdst := some (r, f.data.setWidth 32), c := some false }) ∧
    (isToken f = true → headResult false r a (f :: l) =
      { unit := .scalar, addr := a, sdst := some (r, BitVec.ofNat 32 (0x80000000 + classCode f)), c := some true }) ∧
    (isToken f = false → headResult true r a (f :: g :: l) =
      { unit := .vector, addr := a, vdst := [(qvreg r, g.data ++ f.data)], c := some false }) ∧
    (isToken f = true → ∃ x : Vec512, headResult true r a (f :: l) =
        { unit := .vector, addr := a, vdst := [(qvreg r, x)], c := some true } ∧
      ∀ k, k < 16 → bits x (32 * k + 31) (32 * k) = 0x80000000 + classCode f)

/-- A head that leaves a queue frees its slots (R206); a data element changes nothing else of the cell, and a token sets
its flag and then ends its counter's loop (R210). The plot makes progress (R219). -/
def Claims.HeadLeavesQueue : Prop :=
  ∀ (s : State) (c : CellId) (q : QueueNo) (f : SFlit) (l : List SFlit) (n : Nat),
    headElem ((s.cell c).queue q).buf = some (f :: l) →
    ((removeHead c q (f :: l) n s).cell c).queue q = { (s.cell c).queue q with
      buf := ((s.cell c).queue q).buf.drop (l.length + 1), freed := ((s.cell c).queue q).freed + (l.length + 1) } ∧
    (∀ j, j ≠ q → ((removeHead c q (f :: l) n s).cell c).queue j = (s.cell c).queue j) ∧
    (∀ d, d ≠ c → (removeHead c q (f :: l) n s).cell d = s.cell d) ∧
    (isToken f = false →
      (removeHead c q (f :: l) n s).cell c = { s.cell c with queues := ((removeHead c q (f :: l) n s).cell c).queues }) ∧
    (isToken f = true → ∀ k, ((s.cell c).queue q).tokFlag (tokKind f) = some k →
      ((removeHead c q (f :: l) n s).cell c).evflags.getLsbD k.toNat = true) ∧
    (isToken f = true → ((s.cell c).queue q).tokFlag (tokKind f) = none →
      ((removeHead c q (f :: l) n s).cell c).evflags = (s.cell c).evflags) ∧
    (isToken f = true → ∀ k, ((s.cell c).queue q).tokCtr (tokKind f) = some k →
      (((removeHead c q (f :: l) n s).cell c).loop k).active = false ∧
      ∀ j, j ≠ k → ((removeHead c q (f :: l) n s).cell c).loop j = (s.cell c).loop j) ∧
    (isToken f = true → ((s.cell c).queue q).tokCtr (tokKind f) = none →
      ((removeHead c q (f :: l) n s).cell c).loops = (s.cell c).loops) ∧
    (removeHead c q (f :: l) n s).cell c =
      { s.cell c with queues := ((removeHead c q (f :: l) n s).cell c).queues
                      evflags := ((removeHead c q (f :: l) n s).cell c).evflags
                      evlost := ((removeHead c q (f :: l) n s).cell c).evlost
                      loops := ((removeHead c q (f :: l) n s).cell c).loops
                      loopOrder := ((removeHead c q (f :: l) n s).cell c).loopOrder
                      held := ((removeHead c q (f :: l) n s).cell c).held } ∧
    ((s.cell c).owner.toNat < 96 → (s.plot (s.cell c).owner).state ≠ .empty →
      ((removeHead c q (f :: l) n s).plot (s.cell c).owner).progress = s.tick) ∧
    removeHead c q (f :: l) n s =
      { s with cells := (removeHead c q (f :: l) n s).cells, plots := (removeHead c q (f :: l) n s).plots }

/-- Instructions that read queues (R82, R95, R198, R201, R206, R209, R210, R219). -/
def Obligations.QueueReads : Prop :=
  Claims.QueueTakes ∧ Claims.HeadValues ∧ Claims.HeadLeavesQueue

/-- PUSH and TPUSH (R94, R197, R198, R204, R208): a channel that is not enabled, or a width that is not its own, raises
QUEUE_CFG; without the credits that the element needs, or on a stopped channel, the instruction is held; else the
credits are spent and the flits, with their classes and the cell's season, are sent on the channel. -/
def Claims.QueueGives : Prop :=
  ∀ (s : State) (c : CellId) (a : PAddr) (n : Nat) (o : ChanNo),
    (∀ vec r, s.ComesToIssue c (.push c vec r o) a n →
      ((((s.cell c).chan o).en && ((s.cell c).chan o).vec == vec) = false →
        exec (.push c vec r o) s = .next (s.afterTrap c a n 8 0)) ∧
      ((((s.cell c).chan o).en && ((s.cell c).chan o).vec == vec) = true →
        (((s.cell c).chan o).credits < (if vec then 2 else 1) ∨ ((s.cell c).chan o).stopped = true →
          exec (.push c vec r o) s = .next s) ∧
        ((if vec then 2 else 1) ≤ ((s.cell c).chan o).credits → ((s.cell c).chan o).stopped = false →
          exec (.push c vec r o) s = .next ((((s.modCell c fun v => v.setChan o
              { v.chan o with credits := (v.chan o).credits - (if vec then 2 else 1) }).sendFlits c o
            (if vec then [⟨1, (s.cell c).season, ((s.cell c).v (qvreg r)).extractLsb' 0 256⟩,
                          ⟨2, (s.cell c).season, ((s.cell c).v (qvreg r)).extractLsb' 256 256⟩]
             else [⟨0, (s.cell c).season, ((s.cell c).s r).setWidth 256⟩])).progress (s.cell c).owner).afterIssue c
              (.push c vec r o) n)))) ∧
    (∀ kind code, s.ComesToIssue c (.tpush c o kind code) a n →
      (((s.cell c).chan o).en = false → exec (.tpush c o kind code) s = .next (s.afterTrap c a n 8 0)) ∧
      (((s.cell c).chan o).en = true →
        (((s.cell c).chan o).credits = 0 ∨ ((s.cell c).chan o).stopped = true →
          exec (.tpush c o kind code) s = .next s) ∧
        (0 < ((s.cell c).chan o).credits → ((s.cell c).chan o).stopped = false →
          exec (.tpush c o kind code) s = .next ((((s.modCell c fun v => v.setChan o
              { v.chan o with credits := (v.chan o).credits - 1 }).sendFlits c o
            [⟨3, (s.cell c).season, BitVec.ofNat 256 (kind.toNat + 4 * code.toNat)⟩]).progress (s.cell c).owner).afterIssue c
              (.tpush c o kind code) n))))

/-- The packet that a cell's interface injects (R238, R239, R253): from its own cell ID, at its own router's local input,
by the waypoint given, or for a unicast destination by the first detour entry that holds the target. -/
def Claims.injected (s : State) (c : CellId) (dest : Dest) (wp : Option CellId) (body : Body) : Packet :=
  { src := .cell ((s.niOf c).self.getD c), dest := dest, waypt := wp, vc := bodyVc body
    len := BitVec.ofNat 4 (bodyLen body), body := body, pos := c, inPort := .local, leg := false, parityOk := true, ejected := false }

/-- A channel sends its flits in a stream packet to the queue of its destination, or along its span (R203, R205, R258); a
locked-out cell sends nothing (R261), nor does a channel to a plot that holds no cells. -/
def Claims.ChannelSends : Prop :=
  ∀ (s : State) (c d : CellId) (o : ChanNo) (l : List CellId) (flits : List SFlit),
    let body := Body.stream ((s.cell c).chan o).dqueue (s.feedPlot c ((s.cell c).chan o)) o (s.cell c).owner flits
    ((s.cell c).lockedOut = true → s.chanSend c o flits = s) ∧
    (((s.cell c).chan o).destKind ≠ 2 → s.feeds c ((s.cell c).chan o) = [] → s.chanSend c o flits = s) ∧
    (((s.cell c).chan o).destKind ≠ 2 → s.feeds c ((s.cell c).chan o) = d :: l → (s.cell c).lockedOut = false →
      ∃ wp, s.chanSend c o flits = { s with net := s.net ++ [Claims.injected s c (.unicast (.cell d)) wp body] } ∧
        (∀ w, s.chanWay c ((s.cell c).chan o) = some w → wp = some w) ∧
        (s.chanWay c ((s.cell c).chan o) = none → wp = detourFor (s.niOf c).detours (lxOf d, lyOf d))) ∧
    (((s.cell c).chan o).destKind = 2 → (s.cell c).lockedOut = false → s.chanSend c o flits = { s with
      net := s.net ++ [Claims.injected s c (.multicast false ((s.cell c).chan o).dir (BitVec.ofNat 10 ((s.cell c).chan o).span))
        none body] }) ∧
    bodyVc body = 3 ∧ bodyLen body = flits.length

/-- Flits of consecutive pushes on a channel share a packet of up to 8 payload flits, which a token closes (R205; log
entry 13): they join the last open packet where the instruction before was a PUSH to the channel, and what does not fit
goes in a packet of its own. -/
def Claims.FlitsGather : Prop :=
  ∀ (s : State) (c : CellId) (o : ChanNo) (flits : List SFlit),
    ((s.cell c).pushed ≠ some o ∨ (∀ p ∈ s.net, openPacket c o p = false) → s.sendFlits c o flits = s.chanSend c o flits) ∧
    (∀ l₁ p l₂ q dp o' sp fl, (s.cell c).pushed = some o → s.net = l₁ ++ p :: l₂ → openPacket c o p = true →
      (∀ x ∈ l₂, openPacket c o x = false) → p.body = .stream q dp o' sp fl →
      let joined (k : Nat) : Packet := { p with body := .stream q dp o' sp (fl ++ flits.take k)
                                                len := BitVec.ofNat 4 (fl ++ flits.take k).length }
      (fl.length + flits.length ≤ 8 →
        s.sendFlits c o flits = { s with net := l₁ ++ joined flits.length :: l₂ }) ∧
      (8 < fl.length + flits.length → s.sendFlits c o flits =
        State.chanSend { s with net := l₁ ++ joined (8 - fl.length) :: l₂ } c o (flits.drop (8 - fl.length))))

/-- Instructions that write channels (R94, R197, R198, R203 to R205, R208, R239, R258, R261). -/
def Obligations.QueueWrites : Prop :=
  Claims.QueueGives ∧ Claims.ChannelSends ∧ Claims.FlitsGather

/-! ### Sleeping, waking and signalling (02, 09) -/

/-- A latch ID register names a latch where its bits 31:17 are 0 and its field is below 48 (R4, R49, R84). -/
def Claims.LatchIdRegister : Prop :=
  ∀ x : Word, (x.toNat < 48 * 2048 → latchReg x = some (x.setWidth 17)) ∧ (48 * 2048 ≤ x.toNat → latchReg x = none)

/-- WAITE, WAITE.D and WAITT (R44 to R47): a flag that is set is cleared and the program goes on, with 1 in the result
register of WAITE.D; else, once every earlier instruction has completed, the cell sleeps on the flag, the latch, which
registers it with the latch's hub, or the tick; a tick that has been reached does not sleep; an invalid latch ID raises
TARGET. -/
def Obligations.SleepIssues : Prop :=
  ∀ (s : State) (c : CellId) (a : PAddr) (n : Nat),
    (∀ k, s.ComesToIssue c (.waiteFlag c k) a n →
      ((s.cell c).evflags.getLsbD k.toNat = true → exec (.waiteFlag c k) s = .next ((s.modCell c fun v =>
        { v with evflags := v.evflags &&& ~~~(BitVec.ofNat 16 (2 ^ k.toNat)) }).afterIssue c (.waiteFlag c k) n)) ∧
      ((s.cell c).evflags.getLsbD k.toNat = false →
        ((s.cell c).idle = false → exec (.waiteFlag c k) s = .next s) ∧
        ((s.cell c).idle = true → exec (.waiteFlag c k) s = .next ((s.modCell c fun v =>
          { v with run := .sleeping, wait := some { on := .flag k } }).afterIssue c (.waiteFlag c k) n)))) ∧
    (∀ k p d, s.ComesToIssue c (.waiteDFlag c k p d) a n →
      ((s.cell c).evflags.getLsbD k.toNat = true → exec (.waiteDFlag c k p d) s = .next ((s.modCell c fun v =>
        { v with evflags := v.evflags &&& ~~~(BitVec.ofNat 16 (2 ^ k.toNat)),
                 sregs := (v.setS d 1).sregs }).afterIssue c (.waiteDFlag c k p d) n)) ∧
      ((s.cell c).evflags.getLsbD k.toNat = false →
        ((s.cell c).idle = false → exec (.waiteDFlag c k p d) s = .next s) ∧
        ((s.cell c).idle = true → exec (.waiteDFlag c k p d) s = .next ((s.modCell c fun v =>
          { v with run := .sleeping,
                   wait := some { on := .flag k, deadline := some (v.pair p), result := some d } }).afterIssue c
                     (.waiteDFlag c k p d) n)))) ∧
    (∀ r, s.ComesToIssue c (.waiteLatch c r) a n →
      (latchReg ((s.cell c).s r) = none → exec (.waiteLatch c r) s = .next (s.afterTrap c a n 9 ((s.cell c).s r))) ∧
      (∀ l, latchReg ((s.cell c).s r) = some l →
        ((s.cell c).idle = false → exec (.waiteLatch c r) s = .next s) ∧
        ((s.cell c).idle = true → exec (.waiteLatch c r) s = .next (((s.modCell c fun v =>
          { v with run := .sleeping, wait := some { on := .latch l } }).latchPacket c .waitreg l false 0).afterIssue c
            (.waiteLatch c r) n)))) ∧
    (∀ r p d, s.ComesToIssue c (.waiteDLatch c r p d) a n →
      (latchReg ((s.cell c).s r) = none → exec (.waiteDLatch c r p d) s = .next (s.afterTrap c a n 9 ((s.cell c).s r))) ∧
      (∀ l, latchReg ((s.cell c).s r) = some l →
        ((s.cell c).idle = false → exec (.waiteDLatch c r p d) s = .next s) ∧
        ((s.cell c).idle = true → exec (.waiteDLatch c r p d) s = .next (((s.modCell c fun v =>
          { v with run := .sleeping,
                   wait := some { on := .latch l, deadline := some (v.pair p), result := some d } }).latchPacket c
                     .waitreg l true 0).afterIssue c (.waiteDLatch c r p d) n)))) ∧
    (∀ p, s.ComesToIssue c (.waitt c p) a n →
      (((s.cell c).pair p).toNat ≤ s.tick → exec (.waitt c p) s = .next (s.afterIssue c (.waitt c p) n)) ∧
      (s.tick < ((s.cell c).pair p).toNat →
        ((s.cell c).idle = false → exec (.waitt c p) s = .next s) ∧
        ((s.cell c).idle = true → exec (.waitt c p) s = .next ((s.modCell c fun v =>
          { v with run := .sleeping, wait := some { on := .tick, deadline := some (v.pair p) } }).afterIssue c
            (.waitt c p) n))))

/-- SETL, CLRL, CLAIM and SENDE (R48, R49, R84, R189, R263, R264): a register that names no latch or no cell of the plot
raises TARGET; a bay cell with stores outstanding holds its signals; else the operation is sent to the latch's hub, a
CLAIM under a free tag with its destination awaited, and a SENDE to the target cell, or to the cell itself. -/
def Claims.SignalIssues : Prop :=
  ∀ (s : State) (c : CellId) (a : PAddr) (n : Nat),
    (∀ r, s.ComesToIssue c (.setl c r) a n →
      (latchReg ((s.cell c).s r) = none → exec (.setl c r) s = .next (s.afterTrap c a n 9 ((s.cell c).s r))) ∧
      (∀ l, latchReg ((s.cell c).s r) = some l → exec (.setl c r) s =
        .next (if s.bayHeld (s.cell c) then s else (s.latchPacket c .set l false 0).afterIssue c (.setl c r) n))) ∧
    (∀ r, s.ComesToIssue c (.clrl c r) a n →
      (latchReg ((s.cell c).s r) = none → exec (.clrl c r) s = .next (s.afterTrap c a n 9 ((s.cell c).s r))) ∧
      (∀ l, latchReg ((s.cell c).s r) = some l → exec (.clrl c r) s =
        .next (if s.bayHeld (s.cell c) then s else (s.latchPacket c .clr l false 0).afterIssue c (.clrl c r) n))) ∧
    (∀ d r, s.ComesToIssue c (.claim c d r) a n →
      (latchReg ((s.cell c).s r) = none → exec (.claim c d r) s = .next (s.afterTrap c a n 9 ((s.cell c).s r))) ∧
      (∀ l, latchReg ((s.cell c).s r) = some l →
        ((s.cell c).freeCtag = none ∨ s.bayHeld (s.cell c) = true → exec (.claim c d r) s = .next s) ∧
        (∀ g, (s.cell c).freeCtag = some g → s.bayHeld (s.cell c) = false → exec (.claim c d r) s =
          .next (((s.modCell c fun v => { v with claims := v.claims ++ [(g, d)] }).latchPacket c .claim l false g).afterIssue
            c (.claim c d r) n)))) ∧
    (∀ r k, s.ComesToIssue c (.sende c r k) a n →
      let x := (s.cell c).s r
      let px := bits x 9 0
      let py := bits x 18 10
      (bits x 31 19 ≠ 0 ∨ bits (s.cell c).plot 18 9 ≤ px ∨ bits (s.cell c).plot 27 19 ≤ py →
        exec (.sende c r k) s = .next (s.afterTrap c a n 9 x)) ∧
      (bits x 31 19 = 0 → px < bits (s.cell c).plot 18 9 → py < bits (s.cell c).plot 27 19 →
        exec (.sende c r k) s = .next (if s.bayHeld (s.cell c) then s
          else if s.placeOf c (s.cell c).owner px py = c then (s.cellEvent c k).afterIssue c (.sende c r k) n
          else (s.cellToCell c (s.placeOf c (s.cell c).owner px py) (.event k)).afterIssue c (.sende c r k) n)))

/-- Packets from a cell (R238, R249, R250, R253, R261, R263, R264): a latch operation to unit 8 of the latch's hub on the
tap of the cell's column, a packet to a cell; the waypoint is that of the first detour entry that holds the target; a
locked-out cell sends neither. -/
def Claims.CellPackets : Prop :=
  ∀ (s : State) (c d : CellId) (op : LatchOp) (l : LatchId) (deadline : Bool) (tag : BitVec 3) (body : Body),
    ((s.cell c).lockedOut = true → s.latchPacket c op l deadline tag = s ∧ s.cellToCell c d body = s) ∧
    ((s.cell c).lockedOut = false →
      s.latchPacket c op l deadline tag = { s with net := s.net ++ [Claims.injected s c
        (.unicast (hubDest (lxOf c) (latchField l) 8))
        (detourFor (s.niOf c).detours (detourTarget (hubDest (lxOf c) (latchField l) 8)))
        (.latchOp op l false deadline none tag)] } ∧
      s.cellToCell c d body = { s with net := s.net ++ [Claims.injected s c (.unicast (.cell d))
        (detourFor (s.niOf c).detours (lxOf d, lyOf d)) body] })

/-- Instructions that signal (R4, R48, R49, R84, R189, R263, R264). -/
def Obligations.Signals : Prop :=
  Claims.LatchIdRegister ∧ Claims.CellPackets ∧ Claims.SignalIssues

/-- A command takes the packet that it names once the packet has left the mesh and no packet of its lane stands before it,
and waits for it while it travels (R243); where no such packet is in the mesh, the command stands for one that the outside
sends (log entry 11). -/
def Claims.PacketTaken : Prop :=
  ∀ (s : State) (t : Packet → Bool),
    ((∀ p ∈ s.net, t p = false) → s.notYet t = false ∧ s.arrived t = s) ∧
    ((∃ p ∈ s.net, t p = true) → (∀ p ∈ s.net, t p = true → p.ejected = false) → s.notYet t = true) ∧
    (∀ l₁ p l₂, s.net = l₁ ++ p :: l₂ → t p = true → p.ejected = true →
      (∀ x ∈ l₁, x.ejected = true → t x = false ∧ sameLane p x = false) →
      s.notYet t = false ∧ s.arrived t = { s with net := l₁ ++ l₂ })

/-- A cell that wakes: it runs, and the result register of its wait takes the value; from the base state only that cell
and the plots' progress change. -/
def Claims.Woken (b u : State) (c : CellId) (w : Wait) (x : Word) : Prop :=
  u.cell c = { b.cell c with
    run := .running, wait := none
    sregs := match w.result with
      | some d => ((b.cell c).setS d x).sregs
      | none => (b.cell c).sregs } ∧
  (∀ d, d ≠ c → u.cell d = b.cell d) ∧
  (∀ p, p ≠ (b.cell c).owner → u.plot p = b.plot p) ∧
  (∀ f, u.hub f = if f = fieldOf c then { b.hub f with roused := some b.tick } else b.hub f) ∧
  u = { b with cells := u.cells, plots := u.plots, hubs := u.hubs }

/-- What wakes a sleeping cell (R44 to R47, R263, R267, R442): the tick of WAITT, the deadline of WAITE.D with 0 in the
result register and a WAITDEREG for a latch, and the WAKE of its latch with 1 in the result register. Its field is
GATED no more, and the head of its hold is judged (R52). Anything else leaves it asleep. -/
def Claims.Wakes : Prop :=
  ∀ (s : State) (c : CellId) (w : Wait), (s.cell c).run = .sleeping → (s.cell c).wait = some w →
    (w.on = .tick → s.deadlineMet w = true →
      ∃ u : State, exec (.waittDeadline c) s = .next (u.settle c) ∧ Claims.Woken s u c w 1) ∧
    (w.on ≠ .tick ∨ s.deadlineMet w = false → exec (.waittDeadline c) s = .next s) ∧
    (∀ k, w.on = .flag k → s.deadlineMet w = true →
      ∃ u : State, exec (.waiteDDeadline c) s = .next (u.settle c) ∧ Claims.Woken s u c w 0) ∧
    (∀ l, w.on = .latch l → s.deadlineMet w = true →
      ∃ u : State, exec (.waiteDDeadline c) s = .next ((u.settle c).latchPacket c .waitdereg l false 0) ∧
        Claims.Woken s u c w 0) ∧
    (w.on = .tick ∨ s.deadlineMet w = false → exec (.waiteDDeadline c) s = .next s) ∧
    (∀ l, s.notYet (latchAnswer .wake l c) = true → exec (.wake c l) s = .next s) ∧
    (∀ l, s.notYet (latchAnswer .wake l c) = false →
      (w.on = .latch l → (s.cell c).lockedOut = false → s.isHole c = false →
        ∃ u : State, exec (.wake c l) s = .next (u.settle c) ∧
          Claims.Woken (s.arrived (latchAnswer .wake l c)) u c w 1) ∧
      (w.on ≠ .latch l ∨ (s.cell c).lockedOut = true ∨ s.isHole c = true →
        exec (.wake c l) s = .next (s.arrived (latchAnswer .wake l c)))) ∧
    (∀ l, s.notYet (latchAnswer .waitfull l c) = true → exec (.waitfull c l) s = .next s) ∧
    (∀ l, s.notYet (latchAnswer .waitfull l c) = false →
      (w.on = .latch l → exec (.waitfull c l) s = .next ((s.arrived (latchAnswer .waitfull l c)).setCell c
        { s.cell c with wait := some { w with refused := some s.tick } })) ∧
      (w.on ≠ .latch l → exec (.waitfull c l) s = .next (s.arrived (latchAnswer .waitfull l c)))) ∧
    (∀ l t, w.on = .latch l → w.refused = some t → t < s.tick →
      exec (.waitregRetry c) s = .next ((s.setCell c { s.cell c with wait := some { w with refused := none } }).latchPacket c
        .waitreg l w.deadline.isSome 0)) ∧
    ((∀ l, w.on ≠ .latch l) ∨ (∀ t, w.refused = some t → s.tick ≤ t) → exec (.waitregRetry c) s = .next s)

/-- Deadlines, a retry, a WAKE and a WAITFULL leave a cell alone that does not sleep (R47, R267). -/
def Claims.AwakeIgnores : Prop :=
  ∀ (s : State) (c : CellId) (l : LatchId), (s.cell c).run ≠ .sleeping ∨ (s.cell c).wait = none →
    exec (.waittDeadline c) s = .next s ∧ exec (.waiteDDeadline c) s = .next s ∧ exec (.waitregRetry c) s = .next s ∧
    (s.notYet (latchAnswer .wake l c) = false → exec (.wake c l) s = .next (s.arrived (latchAnswer .wake l c))) ∧
    (s.notYet (latchAnswer .waitfull l c) = false → exec (.waitfull c l) s = .next (s.arrived (latchAnswer .waitfull l c)))

/-- An EVENT at a cell (R44, R48, R260): a cell that sleeps on the flag wakes, with 1 in the result register, and the flag
stays clear; else the flag is set; a set of a set flag counts in CL_EVLOST. A locked-out cell or a hole drops it, counted
for the plot of the cell that sent it. -/
def Claims.Events : Prop :=
  ∀ (s : State) (c : CellId) (k : FlagNo),
    let t (p : Packet) : Bool := isFor p (.cell c) && p.body == .event k
    let g := s.arrived t
    let lost := if (s.cell c).evflags.getLsbD k.toNat then satAdd (s.cell c).evlost 1 else (s.cell c).evlost
    (s.notYet t = true → exec (.event c k) s = .next s) ∧
    (s.notYet t = false → (s.cell c).lockedOut = false → s.isHole c = false →
      (∀ w, (s.cell c).run = .sleeping → (s.cell c).wait = some w → w.on = .flag k →
        ∃ u : State, exec (.event c k) s = .next (u.settle c) ∧
          u.cell c = { s.cell c with
            run := .running, wait := none
            evflags := (s.cell c).evflags &&& ~~~(BitVec.ofNat 16 (2 ^ k.toNat)), evlost := lost
            sregs := match w.result with
              | some d => ((s.cell c).setS d 1).sregs
              | none => (s.cell c).sregs } ∧
          (∀ d, d ≠ c → u.cell d = s.cell d) ∧ u = { g with cells := u.cells, plots := u.plots }) ∧
      ((s.cell c).run ≠ .sleeping ∨ (∀ w, (s.cell c).wait = some w → w.on ≠ .flag k) →
        exec (.event c k) s = .next ((g.setCell c { s.cell c with
          evflags := (s.cell c).evflags ||| BitVec.ofNat 16 (2 ^ k.toNat), evlost := lost }).settle c))) ∧
    (s.notYet t = false → (s.cell c).lockedOut = true ∨ s.isHole c = true →
      (∀ d, s.sourceOf t = some (.cell d) → exec (.event c k) s = .next (g.fenceDrops (s.cell d).owner 1)) ∧
      ((∀ d, s.sourceOf t ≠ some (.cell d)) → exec (.event c k) s = .next g))

/-- A CLAIM's answer writes the latch's old value to the register that the tag names and frees the tag (R264). -/
def Claims.ClaimAnswer : Prop :=
  ∀ (s : State) (c : CellId) (g : BitVec 3) (old : Bool),
    let t (p : Packet) : Bool := isFor p (.cell c) && match p.body with
      | .latchOp .claimresp _ o _ _ t => o == old && t == g
      | _ => false
    (s.notYet t = true → exec (.claimresp c g old) s = .next s) ∧
    (s.notYet t = false →
      ((s.cell c).claims.find? (fun x => x.1 == g) = none → exec (.claimresp c g old) s = .next (s.arrived t)) ∧
      (∀ e d, (s.cell c).claims.find? (fun x => x.1 == g) = some (e, d) →
        exec (.claimresp c g old) s = .next ((s.arrived t).setCell c { s.cell c with
          sregs := ((s.cell c).setS d (if old then 1 else 0)).sregs
          claims := (s.cell c).claims.filter fun x => x.1 != g })))

/-- What wakes a sleeping cell, events, and the answer of a CLAIM (R44 to R48, R243, R263, R264, R267). -/
def Obligations.WakesAndClaims : Prop :=
  Claims.PacketTaken ∧ Claims.Wakes ∧ Claims.AwakeIgnores ∧ Claims.Events ∧ Claims.ClaimAnswer

/-- The packet that a STREAM command names. -/
def Claims.streamAt (c src : CellId) (body : Body) (p : Packet) : Bool :=
  p.src == .cell src && p.body == body && (isFor p (.cell c) || (p.ejected && p.pos == c))

/-- A stream packet reaches a queue (R178, R197, R199, R202, R211, R212): it waits while the queue lacks room; flits of the
queue's season are stored in order, in the buffer while the ring is empty and there is room, and else in the ring, as R177
lays it out; a flit of another season, or for a queue that is not enabled, is not stored, and the plot counts it as
stale. -/
def Claims.StreamArrives : Prop :=
  ∀ (s : State) (c src : CellId) (q : QueueNo) (dplot splot : PlotId) (o : ChanNo) (flits : List SFlit),
    let at_ := Claims.streamAt c src (.stream q dplot o splot flits)
    let x := (s.cell c).queue q
    (s.notYet at_ = true → exec (.stream c src q dplot o splot flits) s = .next s) ∧
    (s.notYet at_ = false → (s.cell c).lockedOut = false → s.isHole c = false →
      (x.capacity < x.held + storable x flits → exec (.stream c src q dplot o splot flits) s = .next s) ∧
      (x.en = true → x.ringLen = 0 → x.buf.length + flits.length ≤ 16 →
        (∀ f ∈ flits, f.cls.toNat < 4 ∧ f.season = x.season) →
        ∃ t : State, exec (.stream c src q dplot o splot flits) s = .next t ∧
          (t.cell c).queue q = { x with buf := x.buf ++ flits } ∧
          (∀ j, j ≠ q → (t.cell c).queue j = (s.cell c).queue j) ∧ (∀ d, d ≠ c → t.cell d = s.cell d) ∧
          (x.neFlag = none → t.cell c = { s.cell c with queues := (t.cell c).queues } ∧ t.plots = s.plots) ∧
          t = { s.arrived at_ with cells := t.cells, plots := t.plots }) ∧
      (∀ f, flits = [f] → f.cls.toNat < 4 → f.season = x.season → x.en = true → (x.buf.length = 16 ∨ x.ringLen ≠ 0) →
        x.buf.length ≤ 16 → x.ringLen < 112 * x.spill → x.ringHead < 112 * x.spill →
        (∀ r ∈ s.residents, r.claimed = true) →
        ∃ t : State, exec (.stream c src q dplot o splot flits) s = .next t ∧
          (t.cell c).queue q = { x with ringLen := x.ringLen + 1 } ∧
          (let slot := (x.ringHead + x.ringLen) % (112 * x.spill)
           t.loft.readBytes (loftKey c (x.slotAddr slot)) 32 = leBytes 32 f.data.toNat ∧
           t.loft.readBytes (loftKey c (x.tagAddr slot)) 4 = leBytes 4 (tagOf f)) ∧
          (∀ j, j ≠ q → (t.cell c).queue j = (s.cell c).queue j) ∧ (∀ d, d ≠ c → t.cell d = s.cell d)) ∧
      (∀ f, flits = [f] → f.cls.toNat < 4 → f.season ≠ x.season ∨ x.en = false → x.held ≤ x.capacity →
        ∃ t : State, exec (.stream c src q dplot o splot flits) s = .next t ∧
          (t.cell c).queues = (s.cell c).queues ∧ (∀ d, d ≠ c → t.cell d = s.cell d) ∧
          ((s.cell c).owner.toNat < 96 → (s.plot (s.cell c).owner).state ≠ .empty →
            (t.plot (s.cell c).owner).stale = satAdd (s.plot (s.cell c).owner).stale 1 ∧
            (t.plot (s.cell c).owner).events.getLsbD 2 = true) ∧
          t = { s.arrived at_ with cells := t.cells, plots := t.plots, ports := t.ports, tally := t.tally }))

/-- A stream packet at a cell out of service (R207, R260; log entry 13): its flits are dropped and counted for the sending
plot; a locked-out cell returns their credits to the sender of a unicast, or, at the end of a span, to the neighbour
upstream; a hole returns none. -/
def Claims.StreamDrops : Prop :=
  ∀ (s : State) (c src : CellId) (q : QueueNo) (dplot splot : PlotId) (o : ChanNo) (flits : List SFlit) (season : Season),
    let at_ := Claims.streamAt c src (.stream q dplot o splot flits)
    let g := (s.arrived at_).fenceDrops splot flits.length
    s.notYet at_ = false → flits ≠ [] → (∀ f ∈ flits, f.cls.toNat < 4 ∧ f.season = season) →
    (∀ p, p.toNat < 96 → (s.plot p).state ≠ .empty → (g.plot p).fenceDrop =
      if p = splot then satAdd (s.plot p).fenceDrop flits.length else (s.plot p).fenceDrop) ∧
    ((s.cell c).lockedOut = false → s.isHole c = true → exec (.stream c src q dplot o splot flits) s = .next g) ∧
    ((s.cell c).lockedOut = true → ((s.cell src).chan o).destKind ≠ 2 →
      exec (.stream c src q dplot o splot flits) s = .next { g with net := g.net ++ [Claims.injected g c (.unicast (.cell src))
        (detourFor (g.niOf c).detours (lxOf src, lyOf src)) (.credit (BitVec.ofNat 13 flits.length) season o false splot)] }) ∧
    ((s.cell c).lockedOut = true → ((s.cell src).chan o).destKind = 2 →
      (∀ up d on, g.upstream c q = some (up, d, on, true, true) →
        exec (.stream c src q dplot o splot flits) s = .next (if c = d
          then g.modCell d fun v => v.setChan on { v.chan on with credits := (v.chan on).credits + flits.length }
          else g.sendCredit c up flits.length season on false splot)) ∧
      ((∀ up d on, g.upstream c q ≠ some (up, d, on, true, true)) →
        exec (.stream c src q dplot o splot flits) s = .next g))

/-- Freed slots are returned (R206, R207, R224, R230, R260): to the producer of the queue's channel in one packet, or in a
span one for each pair of a freed slot and a credit from downstream, and none while the queue keeps them; the sender's own
queue gives them to the channel; a locked-out cell's flits count as freed (log entry 13). -/
def Claims.CreditsReturn : Prop :=
  ∀ (s : State) (c : CellId) (q : QueueNo),
    (s.upstream c q = none → exec (.creditReturn c q) s = .next s) ∧
    (∀ up d o multi last, s.upstream c q = some (up, d, o, multi, last) →
      let x := (s.cell c).owing q
      let mid := multi && !last
      let n := if mid then (s.cell c).passes x else x.freed
      let t := s.modCell c fun v => v.setQueue q { x with freed := x.freed - n, down := if mid then x.down - n else x.down }
      (x.retained = true ∨ x.dryHeld = true ∨ n = 0 → exec (.creditReturn c q) s = .next s) ∧
      (x.retained = false → x.dryHeld = false → n ≠ 0 →
        (multi = false ∨ c ≠ d →
          exec (.creditReturn c q) s = .next (t.sendCredit c up n x.season o false (s.cell d).owner)) ∧
        (multi = true → c = d → exec (.creditReturn c q) s =
          .next (t.modCell c fun v => v.setChan o { v.chan o with credits := (v.chan o).credits + n }))))

/-- A credit packet reaches a cell (R206, R207, R213, R223, R260): an acknowledgement counts a marker back; a credit of
another season than the cell's is discarded; one of the cell's season joins the credits of a channel that feeds one cell,
or, along a span, those that the queue has from downstream; a locked-out cell, or one whose queue is not enabled, passes
it upstream. -/
def Claims.CreditArrives : Prop :=
  ∀ (s : State) (c src : CellId) (q : QueueNo) (n : BitVec 13) (season : Season) (o : ChanNo) (ack : Bool) (plot : PlotId),
    let t (p : Packet) : Bool := p.src == .cell src && p.body == .credit n season o ack plot && isFor p (.cell c)
    let b := s.arrived t
    let v := s.cell c
    let x := v.queue q
    let run := exec (.credit c n season o ack plot src q) s
    (s.notYet t = true → run = .next s) ∧
    (s.notYet t = false →
      (ack = true → run = .next (b.setCell c (v.setChan o { v.chan o with markers := (v.chan o).markers - 1 }))) ∧
      (ack = false → season ≠ v.season → run = .next b) ∧
      (ack = false → season = v.season →
        ((∀ d on, b.producer src q = some (d, on) → ((s.cell d).chan o).destKind ≠ 2) →
          run = .next (b.setCell c (v.setChan o { v.chan o with credits := (v.chan o).credits + n.toNat }))) ∧
        (∀ d on, b.producer src q = some (d, on) → ((s.cell d).chan o).destKind = 2 →
          (v.lockedOut = false → x.en = true →
            let u := b.setCell c (v.setQueue q { x with down := x.down + n.toNat })
            run = .next (if c = d then u.returnCredits c q else u)) ∧
          (v.lockedOut = true ∨ x.en = false →
            (b.upstream c q = none → run = .next b) ∧
            (∀ up d' on' multi last, b.upstream c q = some (up, d', on', multi, last) →
              run = .next (if c = d' then b.modCell d' fun v => v.setChan on' { v.chan on' with
                  credits := (v.chan on').credits + n.toNat }
                else b.sendCredit c up n.toNat season on' false plot))))))

/-- Credits of queues and channels (R206, R207, R213, R223, R224, R230, R260). -/
def Obligations.CreditsMove : Prop :=
  Claims.CreditsReturn ∧ Claims.CreditArrives

/-- SPILL_REFILL (R177, R178): with an empty ring or a full buffer nothing moves; else the oldest flits of the ring join
the buffer in order, with the season and class of their tags, until the buffer is full or the ring empty, and none is lost. -/
def Claims.SpillRefills : Prop :=
  ∀ (s : State) (c : CellId) (q : QueueNo),
    let x := (s.cell c).queue q
    let tag := leNat (s.loft.readBytes (loftKey c (x.tagAddr x.ringHead)) 4)
    (x.ringLen = 0 ∨ 16 ≤ x.buf.length → exec (.spillRefill c q) s = .next s) ∧
    (s.loftErr = [] → (∀ r ∈ s.residents, r.claimed = true) → x.ringLen ≠ 0 → x.buf.length < 16 →
      ∃ t : State, exec (.spillRefill c q) s = .next t ∧
        ((t.cell c).queue q).held = x.held ∧
        (((t.cell c).queue q).buf.length = 16 ∨ ((t.cell c).queue q).ringLen = 0) ∧
        (∃ l, ((t.cell c).queue q).buf = x.buf ++
          { cls := BitVec.ofNat 3 (tag / 16), season := BitVec.ofNat 4 tag
            data := BitVec.ofNat 256 (leNat (s.loft.readBytes (loftKey c (x.slotAddr x.ringHead)) 32)) } :: l) ∧
        (x.ringLen = 1 → ((t.cell c).queue q).ringHead = (x.ringHead + 1) % (112 * x.spill)) ∧
        (∀ j, j ≠ q → (t.cell c).queue j = (s.cell c).queue j) ∧ (∀ d, d ≠ c → t.cell d = s.cell d) ∧
        t = { s with cells := t.cells, loft := t.loft, tally := t.tally })

/-- Stream packets at a queue and the ring behind it (R177, R178, R197, R199, R202, R211, R212, R260). -/
def Obligations.QueueArrivals : Prop :=
  Claims.StreamArrives ∧ Claims.StreamDrops ∧ Claims.SpillRefills

/-! ### The matrix array (05) -/

/-- MLDW and MSWAP when they come to issue (R52, R90, R93, R137 to R139, R159, R169, R170, R174): MLDW starts to fill the
shadow tile from the image at its address and registers the range; an extent beyond the loft or an address that is no
multiple of 64 traps; it is held while the tile fills, a weight stream runs, the scoreboard forbids it, or a product still
reads the shadow tile. MSWAP exchanges the tiles once the shadow is full and every product has taken its last row. -/
def Claims.WeightTilesIssue : Prop :=
  ∀ (s : State) (c : CellId) (a : PAddr) (n : Nat),
    (∀ r t, s.ComesToIssue c (.mldw c r t) a n →
      let size := 16 * rowSize t + if scaled t then 8 else 0
      (2 ^ 21 < ((s.cell c).s r).toNat + size → exec (.mldw c r t) s = .next (s.afterTrap c a n 5 ((s.cell c).s r))) ∧
      (((s.cell c).s r).toNat + size ≤ 2 ^ 21 → ((s.cell c).s r).toNat % 64 ≠ 0 →
        exec (.mldw c r t) s = .next (s.afterTrap c a n 6 ((s.cell c).s r))) ∧
      (((s.cell c).s r).toNat + size ≤ 2 ^ 21 → ((s.cell c).s r).toNat % 64 = 0 →
        ((s.cell c).filling.isSome = true ∨ (s.cell c).streaming = true ∨
          (s.cell c).mayRead ((s.cell c).s r).toNat size = false ∨ (s.cell c).mayRegister 1 = false ∨
          (∃ p ∈ (s.cell c).products, p.readsShadow = true ∧ p.rowsTaken = false) → exec (.mldw c r t) s = .next s) ∧
        ((s.cell c).filling = none → (s.cell c).streaming = false →
          (s.cell c).mayRead ((s.cell c).s r).toNat size = true → (s.cell c).mayRegister 1 = true →
          (∀ p ∈ (s.cell c).products, p.readsShadow = true → p.rowsTaken = true) →
          ∀ u img ue, s.matrixRead c ((s.cell c).s r).toNat size = (u, img, ue) →
            exec (.mldw c r t) s = .next ((u.modCell c fun v => { v with
              filling := some (tileOf t img ue)
              board := v.board ++ [sbEntry ((s.cell c).s r).toNat size false .load] }).afterIssue c (.mldw c r t) n)))) ∧
    (s.ComesToIssue c (.mswap c) a n →
      ((s.cell c).filling.isSome = true ∨ (∃ p ∈ (s.cell c).products, p.rowsTaken = false) →
        exec (.mswap c) s = .next s) ∧
      ((s.cell c).filling = none → (∀ p ∈ (s.cell c).products, p.rowsTaken = true) →
        exec (.mswap c) s = .next ((s.modCell c fun v =>
          { v with working := v.shadow, shadow := v.working }).afterIssue c (.mswap c) n)))

/-- A weight tile takes its image as it lies, element rows first and the scale codes of a scaled type after them (R137); a
scale byte in an uncorrectable word is POISON, and the tile then carries NV (R148, R167). -/
def Claims.TileImages : Prop :=
  ∀ (t : ElemType) (img : List (Option Byte)) (ue : Bool),
    (tileOf t img ue).type = t ∧ (tileOf t img ue).nv = ue ∧
    (∀ i b, i < 16 * rowSize t → img[i]? = some (some b) → bits (tileOf t img ue).rows (8 * i + 7) (8 * i) = b.toNat) ∧
    (∀ j, j < 8 → scaled t = true →
      (∀ b, img[16 * rowSize t + j]? = some (some b) → bits (tileOf t img ue).scales (8 * j + 7) (8 * j) = b.toNat) ∧
      (img[16 * rowSize t + j]? = some none → bits (tileOf t img ue).scales (8 * j + 7) (8 * j) = 255))

/-- MCLR and MWB when they come to issue (R52, R92, R93, R127 to R129, R134, R145, R149 to R152, R158, R169, R174, R534): MCLR
clears a free tile and its events; MWB takes the tile's rows, rounded, with its busy range; a shape that its tile's view
does not hold raises RSV_SUB, one with no element does nothing; it waits for the products of its tile, for the scoreboard,
and where either of the two clears the tile for an earlier MWB of the tile. -/
def Claims.TileReadoutsIssue : Prop :=
  ∀ (s : State) (c : CellId) (a : PAddr) (n : Nat),
    (∀ acc, s.ComesToIssue c (.mclr c acc) a n →
      ((s.cell c).tileFree acc = false → exec (.mclr c acc) s = .next s) ∧
      ((s.cell c).tileFree acc = true →
        exec (.mclr c acc) s = .next ((s.modCell c fun v => v.setTile acc
          { elems := [], wide := (v.tile acc).wide, events := 0 }).afterIssue c (.mclr c acc) n))) ∧
    (∀ acc r dt pair keep sh, s.ComesToIssue c (.mwb c acc r dt pair keep sh) a n →
      let m := bits ((s.cell c).s sh) 8 0
      let k := bits ((s.cell c).s sh) 13 9
      let tile := (s.cell c).tile acc
      let w := if tile.wide then 16 else 8
      let z := if pair then 8 else elemBits dt / 8
      let p := ((s.cell c).s r).toNat
      let extent := (m - 1) * w * z + k * z
      let elem (i j : Nat) := wbElem dt pair (Store.get 0 tile.elems (i * w + j))
      ((if tile.wide then 128 else 256) < m ∨ w < k →
        exec (.mwb c acc r dt pair keep sh) s = .next (s.afterTrap c a n 2 0)) ∧
      (m ≤ (if tile.wide then 128 else 256) → k ≤ w →
        (m = 0 ∨ k = 0 → exec (.mwb c acc r dt pair keep sh) s = .next (s.afterIssue c (.mwb c acc r dt pair keep sh) n)) ∧
        (0 < m → 0 < k →
          (2 ^ 21 < p + extent →
            exec (.mwb c acc r dt pair keep sh) s = .next (s.afterTrap c a n 5 ((s.cell c).s r))) ∧
          (p + extent ≤ 2 ^ 21 → p % 64 ≠ 0 →
            exec (.mwb c acc r dt pair keep sh) s = .next (s.afterTrap c a n 6 ((s.cell c).s r))) ∧
          (p + extent ≤ 2 ^ 21 → p % 64 = 0 →
            ((∃ q ∈ (s.cell c).products, ∃ e ∈ q.tiles, e.1 = acc) ∨
              (∃ b ∈ (s.cell c).writebacks, b.acc = acc ∧ (b.keep = false ∨ keep = false)) ∨
              (s.cell c).mayWrite p extent = false ∨ (s.cell c).mayRegister 1 = false →
              exec (.mwb c acc r dt pair keep sh) s = .next s) ∧
            ((∀ q ∈ (s.cell c).products, ∀ e ∈ q.tiles, e.1 ≠ acc) →
              (∀ b ∈ (s.cell c).writebacks, b.acc = acc → b.keep = true ∧ keep = true) →
              (s.cell c).mayWrite p extent = true → (s.cell c).mayRegister 1 = true →
              exec (.mwb c acc r dt pair keep sh) s = .next ((s.modCell c fun v =>
                { v with
                  writebacks := v.writebacks ++ [{
                    id := v.nextId, acc := acc, addr := a, keep := keep, rows := m
                    bytes := (List.range m).map fun i => (p + i * w * z, (List.range k).flatMap fun j => (elem i j).1)
                    flags := (List.range m).foldl (fun f i =>
                      f ||| (List.range k).foldl (fun g j => g ||| (elem i j).2) 0) tile.events }]
                  board := v.board ++ [sbEntry p extent true (.writeback v.nextId)]
                  nextId := v.nextId + 1 }).afterIssue c (.mwb c acc r dt pair keep sh) n))))))

/-- MMT when it comes to issue (R92, R93, R134, R142, R151, R152, R158, R534): a shape beyond 128 by 16, or one that
stages more than 256 units, raises RSV_SUB; M or N of 0 does nothing; K of 0 sets the views; else it registers its staged
operands as ranges in use and waits at the head until they are staged. -/
def Claims.MmtIssues : Prop :=
  ∀ (s : State) (c : CellId) (a : PAddr) (n : Nat) (acc : AccNo) (r : SReg) (it wt : ElemType) (accum : Bool) (pm : PassMode)
    (w sh : SReg),
    s.ComesToIssue c (.mmt c acc r it wt accum pm w sh) a n → (s.cell c).staging = false →
    let m := bits ((s.cell c).s sh) 8 0
    let k := bits ((s.cell c).s sh) 31 14
    let cols := bits ((s.cell c).s sh) 13 9
    let i := Instr.mmt c acc r it wt accum pm w sh
    let staged := mmtStaged it wt pm m cols k ((s.cell c).s r).toNat ((s.cell c).s w).toNat
    let ins := staged.take (if scaled it then 2 else 1)
    (128 < m ∨ 16 < cols → exec i s = .next (s.afterTrap c a n 2 0)) ∧
    (m ≤ 128 → cols ≤ 16 →
      (m = 0 ∨ cols = 0 →
        exec i s = .next (if (s.cell c).pathFree then (s.countProduct c 1 0).afterIssue c i n else s)) ∧
      (0 < m → 0 < cols → k = 0 → exec i s = .next
        (if (s.cell c).pathFree && (tilesOf pm acc).all (s.cell c).tileFree then
          ((s.modCell c fun v => v.setViews true (tilesOf pm acc)).countProduct c 1 0).afterIssue c i n else s)) ∧
      (0 < m → 0 < cols → 0 < k → 256 < (staged.map fun p => (p.2 + 63) / 64).sum →
        exec i s = .next (s.afterTrap c a n 2 0))) ∧
    (∀ x y, mmtJudge (s.cell c) acc r it wt pm w sh = .trap x y → exec i s = .next (s.afterTrap c a n x y)) ∧
    (mmtJudge (s.cell c) acc r it wt pm w sh = .hold → exec i s = .next s) ∧
    (mmtJudge (s.cell c) acc r it wt pm w sh = .ready →
      exec i s = .next (s.modCell c fun v => { v with
        staging := true
        board := v.board ++ ((((s.cell c).s r).toNat, partsEnd ins - ((s.cell c).s r).toNat) :: staged.drop ins.length).map
          fun e => sbEntry e.1 e.2 false .staging }))

/-- MMS when it comes to issue (R52, R92, R93, R134, R141, R146, R147, R151, R152, R158, R534): types or a shape that the array does
not take raise RSV_SUB; M or N of 0 does nothing; K of 0 sets the views; an address traps or holds as any; a product
enters the array with its operand's range registered, and its tiles as it will leave them. An element of a forward
product of one pass is the exact sum of the products of its slice, rounded once, alone or added to the tile. -/
def Claims.MmsIssues : Prop :=
  ∀ (s : State) (c : CellId) (a : PAddr) (n : Nat) (acc : AccNo) (tr : Bool) (r : SReg) (it : ElemType) (accum : Bool)
    (pm : PassMode) (sh : SReg), s.ComesToIssue c (.mms c acc tr r it accum pm sh) a n →
    let i := Instr.mms c acc tr r it accum pm sh
    let m := bits ((s.cell c).s sh) 8 0
    let k := bits ((s.cell c).s sh) 31 14
    let cols := bits ((s.cell c).s sh) 13 9
    let p := ((s.cell c).s r).toNat
    let parts := mmsParts tr it pm m p
    let extent := partsEnd parts - p
    let fits := mmsLimits tr it m cols k = true ∧ typeGroup it = typeGroup (s.cell c).working.type ∧
      (pm ≠ .real → (s.cell c).filling = none → typeGroup it = typeGroup (s.cell c).shadow.type) ∧
      (pm = .s16x3 → (s.cell c).working.type = .ch16)
    (¬fits → exec i s = .next (s.afterTrap c a n 2 0)) ∧
    (fits →
      (m = 0 ∨ cols = 0 →
        exec i s = .next (if (s.cell c).pathFree then (s.countProduct c 1 0).afterIssue c i n else s)) ∧
      (0 < m → 0 < cols → k = 0 → exec i s = .next
        (if (s.cell c).pathFree && (tilesOf pm acc).all (s.cell c).tileFree then
          ((s.modCell c fun v => v.setViews tr (tilesOf pm acc)).countProduct c 1 0).afterIssue c i n else s)) ∧
      (0 < m → 0 < cols → 0 < k →
        (2 ^ 21 < p + extent → exec i s = .next (s.afterTrap c a n 5 ((s.cell c).s r))) ∧
        (p + extent ≤ 2 ^ 21 → p % 64 ≠ 0 → exec i s = .next (s.afterTrap c a n 6 ((s.cell c).s r))) ∧
        (p + extent ≤ 2 ^ 21 → p % 64 = 0 →
          ((s.cell c).pathFree = false ∨ (∃ x ∈ tilesOf pm acc, (s.cell c).tileFree x = false) ∨
            (pm ≠ .real ∧ (s.cell c).filling.isSome = true) ∨ (s.cell c).mayRead p extent = false ∨
            (s.cell c).mayRegister 1 = false → exec i s = .next s) ∧
          ((s.cell c).pathFree = true → (∀ x ∈ tilesOf pm acc, (s.cell c).tileFree x = true) →
            (pm ≠ .real → (s.cell c).filling = none) → (s.cell c).mayRead p extent = true →
            (s.cell c).mayRegister 1 = true →
            ∃ (t : State) (q : Product), exec i s = .next (t.afterIssue c i n) ∧
              (t.cell c).products = (s.cell c).products ++ [q] ∧ q.id = (s.cell c).nextId ∧ q.rowsTaken = false ∧
              q.readsShadow = (pm != .real) ∧ q.stream = false ∧ q.tiles.map (·.1) = tilesOf pm acc ∧
              (∀ e ∈ q.tiles, e.2.wide = tr) ∧
              (t.cell c).board = (s.cell c).board ++ [sbEntry p extent false (.product (s.cell c).nextId)] ∧
              (∀ x ∈ tilesOf pm acc, ((t.cell c).tile x).elems = ((s.cell c).tile x).elems ∧ ((t.cell c).tile x).wide = tr) ∧
              (∀ x, x ∉ tilesOf pm acc → (t.cell c).tile x = (s.cell c).tile x) ∧
              t.cell c = { s.cell c with products := (t.cell c).products, board := (t.cell c).board
                                         tiles := (t.cell c).tiles, nextId := (s.cell c).nextId + 1 } ∧
              (∀ d, d ≠ c → t.cell d = s.cell d) ∧ t.loft = s.loft ∧
              (tr = false → pm = .real → ∀ row o, row < m → o < cols →
                let data := (s.matrixParts c parts).2.1
                let sum := (sumF ((List.range k).map fun j =>
                  (mulF (mmsInput false it .real m data row j).1 ((s.cell c).working.weight j o)).1)).1
                ∀ e ∈ q.tiles, Store.get 0 e.2.elems (row * 8 + o) =
                  if accum then (addA40 (Store.get 0 ((s.cell c).tile acc).elems (row * 8 + o)) sum).1
                  else (roundA40 sum).1)))))

/-- The array's instructions at issue (R90 to R93, R134 to R174). -/
def Obligations.Matrix : Prop :=
  Claims.WeightTilesIssue ∧ Claims.TileImages ∧ Claims.TileReadoutsIssue ∧ Claims.MmtIssues ∧ Claims.MmsIssues

/-- What completes in the array (R51, R138, R139, R142, R149, R150, R158): the shadow tile becomes full; a product takes its
last row and its range is released; the oldest product writes its tiles; a staged MMT issues, unless an arithmetic trap is
pending; the oldest write-back stores its rows, sets its flags, and clears its rows unless KEEP. -/
def Obligations.MatrixCompletes : Prop :=
  ∀ (s : State) (c : CellId),
    ((s.cell c).filling = none → exec (.shadowFull c) s = .next s) ∧
    (∀ t, (s.cell c).filling = some t → exec (.shadowFull c) s = .next (s.modCell c fun v =>
      { v with shadow := t, filling := none, board := v.board.filter fun e => e.owner != .load })) ∧
    ((∀ p ∈ (s.cell c).products, p.rowsTaken = true) → exec (.lastInputRowTaken c) s = .next s) ∧
    (∀ l₁ p l₂, (s.cell c).products = l₁ ++ p :: l₂ → (∀ x ∈ l₁, x.rowsTaken = true) → p.rowsTaken = false →
      exec (.lastInputRowTaken c) s = .next (s.modCell c fun v =>
        { v with products := l₁ ++ { p with rowsTaken := true } :: l₂
                 board := v.board.filter fun e => e.owner != .product p.id })) ∧
    ((∀ p, (s.cell c).products.head? = some p → p.rowsTaken = false) → exec (.productComplete c) s = .next s) ∧
    (∀ p l, (s.cell c).products = p :: l → p.rowsTaken = true →
      ∃ t : State, exec (.productComplete c) s = .next t ∧ (t.cell c).products = l ∧
        (∀ j, (t.cell c).tile j = ((p.tiles.reverse.find? fun e => e.1 == j).map (·.2)).getD ((s.cell c).tile j)) ∧
        t.cell c = { s.cell c with products := l, tiles := (t.cell c).tiles } ∧
        (∀ d, d ≠ c → t.cell d = s.cell d) ∧ t = { s with cells := t.cells }) ∧
    ((s.cell c).staging = false ∨ s.canRun c = false ∨ (s.cell c).arithDue = true →
      exec (.stagingComplete c) s = .next s) ∧
    (∀ n acc r it wt accum pm w sh, (s.cell c).staging = true → s.canRun c = true → (s.cell c).arithDue = false →
      (s.cell c).head c = some (n, .instr (.mmt c acc r it wt accum pm w sh)) →
      exec (.stagingComplete c) s = .next ((mmtProduct c acc r it wt accum pm w sh s (s.cell c)).afterIssue c
        (.mmt c acc r it wt accum pm w sh) n) ∧
      let t := mmtProduct c acc r it wt accum pm w sh s (s.cell c)
      let k := bits ((s.cell c).s sh) 31 14
      let cols := bits ((s.cell c).s sh) 13 9
      (t.cell c).staging = false ∧ (∃ q : Product, (t.cell c).products = (s.cell c).products ++ [q] ∧
        q.id = (s.cell c).nextId ∧ q.rowsTaken = false ∧ q.readsShadow = false ∧ q.stream = true ∧
        q.tiles.map (·.1) = tilesOf pm acc ∧ ∀ e ∈ q.tiles, e.2.wide = true) ∧
      (t.cell c).board = (s.cell c).board.filter (fun e => e.owner != .staging) ++
        [sbEntry ((s.cell c).s w).toNat (mmtWeightBytes it wt pm cols k) false (.product (s.cell c).nextId)] ∧
      (∀ x ∈ tilesOf pm acc, ((t.cell c).tile x).elems = ((s.cell c).tile x).elems) ∧
      (∀ d, d ≠ c → t.cell d = s.cell d) ∧ t.loft = s.loft) ∧
    ((s.cell c).writebacks = [] → exec (.mwbComplete c) s = .next s) ∧
    (∀ w l, (s.cell c).writebacks = w :: l →
      ∃ t : State, exec (.mwbComplete c) s = .next t ∧ (t.cell c).writebacks = l ∧
        (t.cell c).aflags = (s.cell c).aflags ||| w.flags ∧
        (t.cell c).arith = (if w.flags &&& (s.cell c).aftrap ≠ 0 ∧ (s.cell c).arith = none then some w.addr
          else (s.cell c).arith) ∧
        (t.cell c).board = (s.cell c).board.filter (fun e => e.owner != .writeback w.id) ∧
        (w.keep = true → (t.cell c).tiles = (s.cell c).tiles) ∧
        (w.keep = false → (∀ j, Store.get 0 ((t.cell c).tile w.acc).elems j =
            if w.rows * (if ((s.cell c).tile w.acc).wide then 16 else 8) ≤ j then Store.get 0 ((s.cell c).tile w.acc).elems j
            else 0) ∧
          ((t.cell c).tile w.acc).events = 0 ∧ ((t.cell c).tile w.acc).wide = ((s.cell c).tile w.acc).wide ∧
          ∀ x, x ≠ w.acc → (t.cell c).tile x = (s.cell c).tile x) ∧
        t.cell c = { s.cell c with writebacks := l, aflags := (t.cell c).aflags, arith := (t.cell c).arith
                                   board := (t.cell c).board, tiles := (t.cell c).tiles } ∧
        (∀ d, d ≠ c → t.cell d = s.cell d) ∧
        ((∀ e ∈ w.bytes, s.refusedRange c e.1 e.2.length = false) →
          w.bytes.Pairwise (fun x y => x.1 + x.2.length ≤ y.1) →
          (∀ e ∈ w.bytes, ∀ k y, e.2[k]? = some y → t.loft.read (loftKey c e.1 + k) = y) ∧
          ∀ q, (∀ e ∈ w.bytes, q < loftKey c e.1 ∨ loftKey c e.1 + e.2.length ≤ q) → t.loft.read q = s.loft.read q))

/-! ### The mesh (08) -/

/-- What becomes of a packet over a link that its route takes (R245, R246, R255): dropped where the link is not UP, waiting
where the input it leads to lacks room for all of it, else moved. -/
def Claims.Over (s : State) (p : Packet) (d reason : Nat) (x : Hop) : Prop :=
  ∀ n, neighbour p.pos d = some n →
    x = if s.linkState n (facing d) ≠ .up then .drop reason d
      else if s.roomAt n (facing d) p.vc (legHere p) (1 + p.len.toNat) then .move d else .wait

/-- Routing (R250 to R252, R255): a header that lost its parity is dropped with reason 1, a malformed one with reason 2. A
packet travels toward its waypoint and then its target, along the row first and then along the column. At a target cell it
is ejected once the interface has room. A packet to a hub travels to its tap's column and the start row's side of the seam,
and leaves over the seam link; one to a unit that is not there is dropped with reason 4. -/
def Claims.Routes : Prop :=
  ∀ (s : State) (p : Packet),
    let r := p.pos
    (p.parityOk = false → s.hop p = .drop 1 (portCode p.inPort)) ∧
    (p.parityOk = true → pktMalformed p = true → s.hop p = .drop 2 (portCode p.inPort)) ∧
    (p.parityOk = true → pktMalformed p = false →
      (∀ e w, p.dest = .unicast e → legHere p = false → p.waypt = some w →
        (lxOf r < lxOf w → Claims.Over s p 2 0 (s.hop p)) ∧ (lxOf w < lxOf r → Claims.Over s p 3 0 (s.hop p)) ∧
        (lxOf r = lxOf w → lyOf r < lyOf w → Claims.Over s p 1 0 (s.hop p)) ∧
        (lxOf r = lxOf w → lyOf w < lyOf r → Claims.Over s p 0 0 (s.hop p))) ∧
      (∀ c, p.dest = .unicast (.cell c) → (p.waypt = none ∨ legHere p = true) →
        (lxOf r < lxOf c → Claims.Over s p 2 0 (s.hop p)) ∧ (lxOf c < lxOf r → Claims.Over s p 3 0 (s.hop p)) ∧
        (lxOf r = lxOf c → lyOf r < lyOf c → Claims.Over s p 1 0 (s.hop p)) ∧
        (lxOf r = lxOf c → lyOf c < lyOf r → Claims.Over s p 0 0 (s.hop p)) ∧
        (r = c → s.hop p = if s.ifaceRoom p then .eject else .wait)) ∧
      (∀ f u tap, p.dest = .unicast (.hub f u tap) → (p.waypt = none ∨ legHere p = true) →
        let col := 78 * fxOf f + tap.toNat
        let north := decide (startRow p (fyOf f) ≤ 64 * fyOf f + 31)
        let row := if north then 64 * fyOf f + 31 else 64 * fyOf f + 32
        let seam := if north then 1 else 0
        let reason := if s.unitPresent f u then 0 else 4
        (lxOf r < col → Claims.Over s p 2 reason (s.hop p)) ∧ (col < lxOf r → Claims.Over s p 3 reason (s.hop p)) ∧
        (lxOf r = col → lyOf r < row → Claims.Over s p 1 reason (s.hop p)) ∧
        (lxOf r = col → row < lyOf r → Claims.Over s p 0 reason (s.hop p)) ∧
        (lxOf r = col → lyOf r = row →
          (s.unitPresent f u = false → s.hop p = .drop 4 5) ∧
          (s.unitPresent f u = true → ∀ n, neighbour r seam = some n →
            s.hop p = if s.linkState n (facing seam) ≠ .up then .drop 0 seam
              else if s.ifaceRoom p then .eject else .wait))))

/-- A packet to a span (R258, R259): every router on it takes a copy, and all but the last pass the packet on in its
direction; where the link on is not UP the copy is taken and the rest dropped; nothing moves before the interface and the
next input have room. -/
def Claims.RoutesSpans : Prop :=
  ∀ (s : State) (p : Packet) (side : Bool) (dir : BitVec 2) (span : BitVec 10), p.parityOk = true → pktMalformed p = false →
    p.dest = .multicast side dir span →
    let r := p.pos
    let c := spanStart p side
    let gone := (lxOf r - lxOf c) + (lxOf c - lxOf r) + (lyOf r - lyOf c) + (lyOf c - lyOf r)
    let d := dirPort dir
    (s.ifaceRoom p = false → s.hop p = .wait) ∧
    (s.ifaceRoom p = true → span.toNat ≤ gone → s.hop p = .copy) ∧
    (s.ifaceRoom p = true → gone < span.toNat →
      (neighbour r d = none → s.hop p = .copyDrop d) ∧
      (∀ n, neighbour r d = some n → s.hop p = if s.linkState n (facing d) ≠ .up then .copyDrop d
        else if s.roomAt n (facing d) p.vc (legHere p) (1 + p.len.toNat) then .copyMove d else .wait))

/-- Which packet an output sends next (R242): one that is ready for it, one of virtual channel 0 before any other; a router
sends a packet on only when its output has chosen it. -/
def Claims.OutputsChoose : Prop :=
  ∀ (s : State) (r : CellId) (o : Nat) (p : Packet),
    (s.winner r o = some p → p ∈ s.readyFor r o ∧ ((∃ q ∈ s.readyFor r o, q.vc = 0) → p.vc = 0)) ∧
    (s.readyFor r o ≠ [] → ∃ q, s.winner r o = some q) ∧
    (∀ port x, s.chosen r port = some (p, x) → x = s.hop p ∧ p.pos = r ∧ p.inPort = port ∧ p.ejected = false ∧ x ≠ .wait ∧
      ∀ k, hopOut p x = some k → s.winner r k = some p)

/-- The state of a packet that leaves the mesh at its router. -/
def Claims.ejected (p : Packet) : Packet := { p with ejected := true, leg := legHere p }

/-- PACKET_FORWARD (R242, R245, R251, R252, R255, R259): the chosen packet moves to the facing input of the neighbour, leaves
the mesh, both along a span, or is dropped; with nothing to move, or in a router that does not serve, nothing changes.
Where a bit of the first packet at the input was lost on the link, that packet has failed its parity. A packet of a hub
enters the input of the seam link in its turn. -/
def Claims.PacketForwards : Prop :=
  ∀ (s : State) (r : CellId) (port : RPort),
    (s.routerOk r = false → ∀ flip, exec (.packetForward r ⟨port, flip⟩) s = .next s) ∧
    (s.routerOk r = true → port ≠ .hub →
      (∀ l₁ p l₂, s.net = l₁ ++ p :: l₂ → p.pos = r → p.inPort = port → p.ejected = false →
        (∀ x ∈ l₁, x.pos ≠ r ∨ x.inPort ≠ port ∨ x.ejected = true) →
        exec (.packetForward r ⟨port, true⟩) s =
          exec (.packetForward r ⟨port, false⟩) { s with net := l₁ ++ { p with parityOk := false } :: l₂ }) ∧
      (s.chosen r port = none → exec (.packetForward r ⟨port, false⟩) s = .next s) ∧
      (∀ p d, s.chosen r port = some (p, .move d) →
        ∃ t : State, exec (.packetForward r ⟨port, false⟩) s = .next t ∧ t.net = s.net.erase p ++
            [{ p with pos := (neighbour p.pos d).getD p.pos, inPort := portOf (facing d), leg := legHere p }] ∧
          t = { s with net := t.net, arb := t.arb, tally := t.tally }) ∧
      (∀ p, s.chosen r port = some (p, .eject) ∨ s.chosen r port = some (p, .copy) →
        ∃ t : State, exec (.packetForward r ⟨port, false⟩) s = .next t ∧ t.net = s.net.erase p ++ [Claims.ejected p] ∧
          t = { s with net := t.net, arb := t.arb }) ∧
      (∀ p d, s.chosen r port = some (p, .copyMove d) →
        ∃ t : State, exec (.packetForward r ⟨port, false⟩) s = .next t ∧ t.net = s.net.erase p ++ [Claims.ejected p,
            { p with pos := (neighbour p.pos d).getD p.pos, inPort := portOf (facing d), leg := legHere p }] ∧
          t = { s with net := t.net, arb := t.arb, tally := t.tally }) ∧
      (∀ p reason d, s.chosen r port = some (p, .drop reason d) →
        exec (.packetForward r ⟨port, false⟩) s = .next (State.meshDrop { s with net := s.net.erase p } r reason d p)) ∧
      (∀ p d, s.chosen r port = some (p, .copyDrop d) → exec (.packetForward r ⟨port, false⟩) s =
        .next (State.meshDrop { s with net := s.net.erase p ++ [Claims.ejected p] } r 0 d p))) ∧
    (s.routerOk r = true → ∀ flip,
      (∀ d p, seamIn r = some d → s.hubHead r d = some p → s.hubTurn r d = true →
        ∃ t : State, exec (.packetForward r ⟨.hub, flip⟩) s = .next t ∧
          t.net = s.net.erase p ++ [{ p with inPort := portOf d }] ∧ t = { s with net := t.net, arb := t.arb }) ∧
      (seamIn r = none ∨ (∀ d, seamIn r = some d → s.hubHead r d = none ∨ s.hubTurn r d = false) →
        exec (.packetForward r ⟨.hub, flip⟩) s = .next s))

/-- A drop (R255): the router's hub counts it, a parity failure apart, and logs reason, port, virtual channel, type, the
router's row and physical column, source and destination where the log is not armed; a request of virtual channel 1
dropped with reason 0 or 4 is answered with error 1 or 3; the fault of a cell's packet is its plot's. -/
def Claims.Drops : Prop :=
  ∀ (s : State) (r : CellId) (reason port : Nat) (p : Packet),
    let t := s.meshDrop r reason port p
    let h := s.hub (fieldOf r)
    (t.hub (fieldOf r)).dropcnt = (if reason = 1 then h.dropcnt else satAdd h.dropcnt 1) ∧
    (t.hub (fieldOf r)).parcnt = (if reason = 1 then satAdd h.parcnt 1 else h.parcnt) ∧
    (t.hub (fieldOf r)).droplog = (if h.droplog.msb then h.droplog else BitVec.ofNat 64
      (2 ^ 63 + reason * 2 ^ 60 + port * 2 ^ 57 + p.vc.toNat * 2 ^ 55 + bodyType p.body * 2 ^ 51 + rowIn r * 2 ^ 45 +
        s.physCol r * 2 ^ 38 + endBits p.src * 2 ^ 19 + destBits p.dest)) ∧
    (∀ f, f ≠ fieldOf r → t.hub f = s.hub f) ∧ t.faultSeq = s.faultSeq + 1 ∧
    (requestTag p = none ∨ (reason ≠ 0 ∧ reason ≠ 4) → t.net = s.net) ∧
    (∀ tag, requestTag p = some tag → reason = 0 ∨ reason = 4 → ∃ q : Packet, t.net = s.net ++ [q] ∧ q.src = .cell r ∧
      q.pos = r ∧ q.vc = 2 ∧ q.body = .errorResp tag (if reason = 0 then 1 else 3) false ∧
      (∀ e, q.dest = .unicast e → sameUnit e (requesterOf p) = true)) ∧
    t.loft = s.loft ∧ t.granary = s.granary ∧ t.wains = s.wains ∧ t.mills = s.mills

/-- Links (R236, R246, R455): one side of a link in INIT whose ends serve becomes UP, and where both sides have, a REJOIN of
the link is answered; a lock error at a stitch crossing is counted by the receiving field and takes both sides DOWN. -/
def Claims.LinkEvents : Prop :=
  ∀ (s : State) (c : CellId) (port : BitVec 2),
    let up : State := { s with links := Store.insert s.links (linkKey c port.toNat) .up }
    (s.linkIn c port.toNat = .init → s.endsOk c port.toNat = true →
      up.linkIn c port.toNat = .up ∧
      (∀ r d, linkKey r d ≠ linkKey c port.toNat → up.linkIn r d = s.linkIn r d) ∧
      ((∀ x a b since, s.running = some x → x.what = .rejoin a b since →
          linkName a b.toNat ≠ linkName c port.toNat ∨ up.linkState c port.toNat ≠ .up) →
        exec (.linkInitComplete c port) s = .next up) ∧
      (∀ x a b since, s.running = some x → x.what = .rejoin a b since → linkName a b.toNat = linkName c port.toNat →
        up.linkState c port.toNat = .up → exec (.linkInitComplete c port) s = .next (up.finish (okWith [])))) ∧
    (s.linkIn c port.toNat ≠ .init ∨ s.endsOk c port.toNat = false → exec (.linkInitComplete c port) s = .next s) ∧
    (neighbour c port.toNat = none ∨ isStitch c port.toNat = false → exec (.stitchLockError c port) s = .next s) ∧
    (∀ n, neighbour c port.toNat = some n → isStitch c port.toNat = true →
      ∃ t : State, exec (.stitchLockError c port) s = .next t ∧
        t.hub (fieldOf c) = { s.hub (fieldOf c) with stitcherr := satAdd (s.hub (fieldOf c)).stitcherr 1 } ∧
        (∀ f, f ≠ fieldOf c → t.hub f = s.hub f) ∧
        t.linkIn c port.toNat = .down ∧ t.linkIn n (facing port.toNat) = .down ∧
        t = { s with hubs := t.hubs, links := t.links })

/-- Packets of the mesh and its links (R236, R242, R245, R246, R250 to R252, R255, R258, R259, R455). -/
def Obligations.MeshPackets : Prop :=
  Claims.Routes ∧ Claims.RoutesSpans ∧ Claims.OutputsChoose ∧ Claims.PacketForwards ∧ Claims.Drops ∧ Claims.LinkEvents

/-- Requests at a cell (R163, R167, R181, R240, R244, R256, R260): a request waits while the cell has no space for its answer
or travels still; a cell out of service answers with error 2, and the plot of a sending cell counts it; a request beyond
the loft is answered with error 4, one that an unclaimed window refuses with error 5, counted by the hub; a read answers
with the loft's bytes, or error 4 with DATA for an uncorrectable word; a write stores its bytes and, unless posted, is
acknowledged. -/
def Claims.CellRequests : Prop :=
  ∀ (s : State) (src : Endpoint) (c : CellId) (tag : Byte) (addr : MeshAddr) (bytes : BitVec 8) (posted : Bool)
    (data : List Byte),
    let rt (p : Packet) : Bool := sameUnit p.src src && isFor p (.cell c) && p.body == .readReq addr bytes tag
    let wt := writeReqOf src (.cell c) tag addr posted data
    let r := s.arrived rt
    let w := s.arrived wt
    let n := bytes.toNat + 1
    let a := addr.toNat
    let read := exec (.readReq src (.cell c) tag addr bytes) s
    let write := exec (.writeReq src (.cell c) tag addr posted data) s
    let error (t : State) (code : BitVec 4) (d : Bool) : State := t.answer (.cell c) src (.errorResp tag code d)
    (s.respRoom (.cell c) = false → read = .next s ∧ write = .next s) ∧
    (s.notYet rt = true → read = .next s) ∧ (s.notYet wt = true → write = .next s) ∧
    (data = [] ∨ 256 < data.length → write = .next s) ∧
    (s.respRoom (.cell c) = true → s.notYet rt = false →
      ((s.cell c).lockedOut = true ∨ s.isHole c = true → read = .next (error (r.requestDropped src) 2 false)) ∧
      ((s.cell c).lockedOut = false → s.isHole c = false →
        (2 ^ 21 < a + n → read = .next (error r 4 false)) ∧
        (a + n ≤ 2 ^ 21 → s.refusedRange c a n = true → read = .next (error (r.countRefused c) 5 false)) ∧
        (a + n ≤ 2 ^ 21 → s.refusedRange c a n = false → (∀ x ∈ wordsOf c a n, Store.get 0 s.loftErr x = 0) →
          read = .next ((r.countUnits c 6 a n).answer (.cell c) src (.readResp tag (s.loft.readBytes (loftKey c a) n)))) ∧
        (a + n ≤ 2 ^ 21 → s.refusedRange c a n = false → (∃ x ∈ wordsOf c a n, 2 ≤ Store.get 0 s.loftErr x) →
          read = .next (error (r.loftRead c a n (readerCode src)).1 4 true)))) ∧
    (s.respRoom (.cell c) = true → s.notYet wt = false → data ≠ [] → data.length ≤ 256 →
      ((s.cell c).lockedOut = true ∨ s.isHole c = true → write = .next (error (w.requestDropped src) 2 false)) ∧
      ((s.cell c).lockedOut = false → s.isHole c = false →
        (2 ^ 21 < a + data.length → write = .next (error w 4 false)) ∧
        (a + data.length ≤ 2 ^ 21 → s.refusedRange c a data.length = true →
          write = .next (error (w.countRefused c) 5 false)) ∧
        (a + data.length ≤ 2 ^ 21 → s.refusedRange c a data.length = false →
          write = .next (if posted then w.loftWrite c a (data.map some)
            else (w.loftWrite c a (data.map some)).answer (.cell c) src (.writeAck tag)))))

/-- Requests at a hub (R256, R260, R289, R297, R298, R402): a dark field and a stack that is not ACTIVE answer with error 3, a
unit of a locked-out mill with error 2; a stack answers an address that it does not hold with error 4, else the read
returns the granary's bytes and the write stores them; the hinge's unit passes a read of a host window to the host and a
write to host memory, and answers one that no window permits with error 4, as any other unit does; a write to a mill's
unit at address 0 is left to REMOTE_REQUEST (R339). -/
def Claims.HubRequests : Prop :=
  ∀ (s : State) (src : Endpoint) (f : FieldNo) (u : BitVec 6) (tap : BitVec 7) (tag : Byte) (addr : MeshAddr)
    (bytes : BitVec 8) (posted : Bool) (data : List Byte),
    let dst := Endpoint.hub f u tap
    let rt (p : Packet) : Bool := sameUnit p.src src && isFor p dst && p.body == .readReq addr bytes tag
    let wt := writeReqOf src dst tag addr posted data
    let r := s.arrived rt
    let w := s.arrived wt
    let n := bytes.toNat + 1
    let a := addr.toNat
    let read := exec (.readReq src dst tag addr bytes) s
    let write := exec (.writeReq src dst tag addr posted data) s
    let error (t : State) (code : BitVec 4) (d : Bool) : State := t.answer dst src (.errorResp tag code d)
    let remote := (millOf f u).isSome && a == 0 && !(s.hub f).dark && !s.unitOut f u
    s.respRoom dst = true → s.notYet rt = false → s.notYet wt = false → data ≠ [] → data.length ≤ 256 →
    (remote = true → write = .next s) ∧
    ((s.hub f).dark = true → read = .next (error r 3 false) ∧ write = .next (error w 3 false)) ∧
    ((s.hub f).dark = false → s.unitOut f u = true → read = .next (error r 2 false) ∧ write = .next (error w 2 false)) ∧
    ((s.hub f).dark = false → s.unitOut f u = false →
      (s.isHinge f u = true →
        (s.windowOk (hostWindow addr) (hostOffset addr) n false = none → read = .next (error r 4 false)) ∧
        (∀ x, s.windowOk (hostWindow addr) (hostOffset addr) n false = some x →
          read = .next { r with hostReads := s.hostReads ++ [(src, tag, n)] }) ∧
        (s.windowOk (hostWindow addr) (hostOffset addr) data.length true = none → write = .next (error w 4 false)) ∧
        (∀ x, s.windowOk (hostWindow addr) (hostOffset addr) data.length true = some x →
          let t := w.windowWrite x (hostOffset addr) data
          write = .next (if posted then t else t.answer dst src (.writeAck tag)))) ∧
      (∀ k, stackOf f u = some k →
        ((s.stack k).state ≠ .active → read = .next (error r 3 false) ∧ write = .next (error w 3 false)) ∧
        ((s.stack k).state = .active →
          (physStack a ≠ k ∨ backed a = false ∨ backed (a + n - 1) = false → read = .next (error r 4 false)) ∧
          (physStack a ≠ k ∨ backed a = false ∨ backed (a + data.length - 1) = false → write = .next (error w 4 false)) ∧
          (physStack a = k → backed a = true →
            (backed (a + n - 1) = true → ∀ t l bad, r.granRead a n 0 = (t, l, bad) →
              read = .next (if bad then error t 4 true else t.answer dst src (.readResp tag l))) ∧
            (backed (a + data.length - 1) = true → write = .next
              (if posted then w.granWrite a data else (w.granWrite a data).answer dst src (.writeAck tag)))))) ∧
      (s.isHinge f u = false → stackOf f u = none →
        read = .next (error r 4 false) ∧ (remote = false → write = .next (error w 4 false))))

/-- Requests at a cell and at a hub (R163, R181, R240, R244, R256, R260, R289, R297, R298). -/
def Obligations.Requests : Prop :=
  Claims.CellRequests ∧ Claims.HubRequests

/-- Answers at a cell (R167, R181, R187 to R189): a bay load's data is written to its register and the load is over; an
uncorrectable word raises LOFT_ECC for the load, a refused window reads as zeros, and any other error leaves a free value
(log entry 9); an acknowledgement or an error ends a store. -/
def Claims.CellAnswers : Prop :=
  ∀ (s : State) (c : CellId) (tag : Byte),
    let at_ (body : Body) : Packet → Bool := answerFor (.cell c) body
    let loaded (l : BayLoad) (data : List Byte) : Cell := { s.cell c with
      bayLoads := (s.cell c).bayLoads.filter fun x => x.tag != l.tag
      sregs := match l.dst with
        | .inl r => ((s.cell c).setS r (BitVec.ofNat 32 (leNat (padBytes data l.size)))).sregs
        | .inr _ => (s.cell c).sregs
      vregs := match l.dst with
        | .inl _ => (s.cell c).vregs
        | .inr r => ((s.cell c).setV r
            (maskLanes l.mask ((s.cell c).v r) (BitVec.ofNat 512 (leNat (padBytes data l.size))))).vregs }
    (∀ data, s.notYet (at_ (.readResp tag data)) = true → exec (.readResp (.cell c) tag data) s = .next s) ∧
    (∀ data, s.notYet (at_ (.readResp tag data)) = false →
      (∀ l, (s.cell c).bayLoads.find? (fun x => x.tag == tag) = some l → exec (.readResp (.cell c) tag data) s =
        .next (((s.arrived (at_ (.readResp tag data))).setCell c (loaded l data)).settle c)) ∧
      ((s.cell c).bayLoads.find? (fun x => x.tag == tag) = none →
        exec (.readResp (.cell c) tag data) s = .next (s.arrived (at_ (.readResp tag data))))) ∧
    (s.notYet (at_ (.writeAck tag)) = false → exec (.writeAck (.cell c) tag) s =
      .next ((s.arrived (at_ (.writeAck tag))).setCell c
        { s.cell c with bayStores := (s.cell c).bayStores.filter fun x => x != tag })) ∧
    (∀ status d, s.notYet (at_ (.errorResp tag status d)) = false →
      let b := s.arrived (at_ (.errorResp tag status d))
      let run := exec (.errorResp (.cell c) tag status d) s
      ((s.cell c).bayLoads.find? (fun x => x.tag == tag) = none → run = .next (b.setCell c
        { s.cell c with bayStores := (s.cell c).bayStores.filter fun x => x != tag })) ∧
      (∀ l, (s.cell c).bayLoads.find? (fun x => x.tag == tag) = some l →
        (status = 4 → d = true → run = .next ((b.setCell c
          { s.cell c with bayLoads := (s.cell c).bayLoads.filter fun x => x.tag != tag }).precise c 7 l.addr
            (BitVec.ofNat 32 l.window) l.raw)) ∧
        (status = 5 → run = .next ((b.setCell c (loaded l [])).settle c)) ∧
        (status ≠ 5 → ¬(status = 4 ∧ d = true) → run = .next ((({ b with drawn := s.drawn + 1 } : State).setCell c
          (loaded l (leBytes l.size (Config.bayValue s.drawn).toNat))).settle c))))

/-- Answers at a hub (R260, R293, R296, R306, R342): a unit of a locked-out mill drops and counts them; a wain takes its data,
acknowledgements and errors, a mill the end of a delivery, and any other unit drops them. -/
def Claims.HubAnswers : Prop :=
  ∀ (s : State) (f : FieldNo) (u : BitVec 6) (tap : BitVec 7) (tag : Byte) (data : List Byte) (status : BitVec 4) (d : Bool),
    let dst := Endpoint.hub f u tap
    let a := s.arrived (answerFor dst (.readResp tag data))
    let b := s.arrived (answerFor dst (.writeAck tag))
    let e := s.arrived (answerFor dst (.errorResp tag status d))
    let dropped (t : State) : State := t.modHub f fun h => { h with dropcnt := satAdd h.dropcnt 1 }
    s.notYet (answerFor dst (.readResp tag data)) = false → s.notYet (answerFor dst (.writeAck tag)) = false →
    s.notYet (answerFor dst (.errorResp tag status d)) = false →
    (s.unitOut f u = true →
      exec (.readResp dst tag data) s = .next (dropped a) ∧ exec (.writeAck dst tag) s = .next (dropped b) ∧
      exec (.errorResp dst tag status d) s = .next (dropped e)) ∧
    (s.unitOut f u = false →
      (∀ k, wainAt f u = some k →
        exec (.readResp dst tag data) s = .next (a.wainData k tag data) ∧
        exec (.writeAck dst tag) s = .next (b.wainAck k tag) ∧
        exec (.errorResp dst tag status d) s = .next ((e.wainErrResp k tag status d).thrWain k)) ∧
      (wainAt f u = none → exec (.readResp dst tag data) s = .next a ∧
        (∀ m, millOf f u = some m → exec (.writeAck dst tag) s = .next (b.deliveryEnds m tag none) ∧
          exec (.errorResp dst tag status d) s = .next (e.deliveryEnds m tag (some (status, d)))) ∧
        (millOf f u = none → exec (.writeAck dst tag) s = .next b ∧ exec (.errorResp dst tag status d) s = .next e)))

/-- Answers at a cell and at a hub (R167, R181, R188, R189, R260, R293, R296, R342). -/
def Obligations.AnswersArrive : Prop :=
  Claims.CellAnswers ∧ Claims.HubAnswers

/-! ### Latches and gates (09) -/

/-- What a SET and a CLR do to a latch (R266, R267): a SET of a latch that is set changes nothing; of one that is clear it sets
it, takes its waiters out of the table and wakes them in order of registration; a CLR clears it. No other latch, waiter or
hub changes. -/
def Claims.LatchChanges : Prop :=
  ∀ (s : State) (l : LatchId),
    let f := latchField l
    let i := latchIndex l
    (((s.hub f).latch i).val = true → s.latchSet l = s) ∧
    (((s.hub f).latch i).val = false → ∃ u : State,
      s.latchSet l = ((s.hub f).waiters.filter fun w => w.latch.toNat == i).foldl
        (fun v w => v.latchAnswer l w.cell .wake false 0) u ∧
      (∀ j, (u.hub f).latch j = if j = i then { (s.hub f).latch j with val := true } else (s.hub f).latch j) ∧
      u.hub f = { s.hub f with latches := (u.hub f).latches
                               waiters := (s.hub f).waiters.filter fun w => w.latch.toNat != i } ∧
      (∀ g, g ≠ f → u.hub g = s.hub g) ∧ u = { s with hubs := u.hubs }) ∧
    (∀ u, u = s.latchClr l →
      (∀ j, (u.hub f).latch j = if j = i then { (s.hub f).latch j with val := false } else (s.hub f).latch j) ∧
      u.hub f = { s.hub f with latches := (u.hub f).latches } ∧
      (∀ g, g ≠ f → u.hub g = s.hub g) ∧ u = { s with hubs := u.hubs })

/-- Operations on a latch that is no gate's entry latch (R45, R263, R264, R266 to R268), once their packet has come: each
counts in counter 11 of its hub. SET sets the latch; CLR clears it; CLAIM clears it and answers the old value with the tag of
the claim; WAITREG answers WAKE at once for a latch that is set and WAITFULL where the table holds 8,192 entries, counting it,
and else registers the cell, in place of an entry it has; WAITDEREG removes the cell's entry for the latch. -/
def Claims.PlainLatches : Prop :=
  ∀ (s : State) (l : LatchId), s.hubServes (latchField l) = true → ((s.hub (latchField l)).latch (latchIndex l)).entry = none →
    let f := latchField l
    let i := latchIndex l
    let h := s.hub f
    let old := (h.latch i).val
    (∀ src, s.notYet (latchReq .set l src) = false → exec (.latchOpSet l src) s =
      .next (((s.arrived (latchReq .set l src)).count (hubCtr f 11) 1).latchSet l)) ∧
    (∀ src, s.notYet (latchReq .clr l src) = false → exec (.latchOpClr l src) s =
      .next (((s.arrived (latchReq .clr l src)).count (hubCtr f 11) 1).latchClr l)) ∧
    (∀ c g, s.notYet (latchReq .claim l (.cell c)) = false → exec (.latchOpClaim l c g) s =
      .next ((((s.arrived (latchReq .claim l (.cell c))).count (hubCtr f 11) 1).latchClr l).hubSend f 8 (.cell c)
        (.latchOp .claimresp l old false none g))) ∧
    (∀ c dl, s.notYet (latchReq .waitreg l (.cell c)) = false →
      let b := (s.arrived (latchReq .waitreg l (.cell c))).count (hubCtr f 11) 1
      (old = true → exec (.waitreg l c dl) s = .next (b.hubSend f 8 (.cell c) (.latchOp .wake l false false none 0))) ∧
      (old = false → 8192 ≤ h.waiters.length → ∃ u : State,
        exec (.waitreg l c dl) s = .next (u.hubSend f 8 (.cell c) (.latchOp .waitfull l false false none 0)) ∧
        u.hub f = { h with fullcnt := (u.hub f).fullcnt } ∧ (u.hub f).fullcnt.toNat = min (h.fullcnt.toNat + 1) 16383 ∧
        (∀ g, g ≠ f → u.hub g = s.hub g) ∧ u = { b with hubs := u.hubs }) ∧
      (old = false → h.waiters.length < 8192 → ∃ u : State, exec (.waitreg l c dl) s = .next u ∧
        u.hub f = { h with waiters := h.waiters.filter (fun w => w.cell != c) ++ [⟨BitVec.ofNat 11 i, c, dl⟩] } ∧
        (∀ g, g ≠ f → u.hub g = s.hub g) ∧ u = { b with hubs := u.hubs })) ∧
    (∀ c, s.notYet (latchReq .waitdereg l (.cell c)) = false → ∃ u : State, exec (.waitdereg l c) s = .next u ∧
      u.hub f = { h with waiters := h.waiters.filter fun w => !(w.cell == c && w.latch.toNat == i) } ∧
      (∀ g, g ≠ f → u.hub g = s.hub g) ∧
      u = { (s.arrived (latchReq .waitdereg l (.cell c))).count (hubCtr f 11) 1 with hubs := u.hubs })

/-- Operations on a gate's entry latch (R274): a SET is the arrival of the cell it came from, or a stranger where it came from
no cell; any other operation changes no latch and counts as misuse, a CLAIM is answered with 0 and a WAITREG with WAKE.
A hub that is dark takes no operation, and a command waits for a packet that still travels. -/
def Claims.EntryLatches : Prop :=
  ∀ (s : State) (l : LatchId),
    let f := latchField l
    let i := latchIndex l
    let misused (b u : State) : Prop := u.hub f = { s.hub f with misuse := (u.hub f).misuse } ∧
      (u.hub f).misuse.toNat = min ((s.hub f).misuse.toNat + 1) 65535 ∧ (∀ g, g ≠ f → u.hub g = s.hub g) ∧
      u = { b with hubs := u.hubs }
    (∀ k, s.hubServes f = true → ((s.hub f).latch i).entry = some k →
      (∀ c, s.notYet (latchReq .set l (.cell c)) = false → exec (.latchOpSet l (.cell c)) s =
        .next (((s.arrived (latchReq .set l (.cell c))).count (hubCtr f 11) 1).arrival (gateOf f k.toNat) none fun b =>
          bindKind b == 1 && bindCell b == c)) ∧
      (∀ src, (∀ c, src ≠ .cell c) → s.notYet (latchReq .set l src) = false → exec (.latchOpSet l src) s =
        .next (((s.arrived (latchReq .set l src)).count (hubCtr f 11) 1).stranger f)) ∧
      (∀ src, s.notYet (latchReq .clr l src) = false → ∃ u : State, exec (.latchOpClr l src) s = .next u ∧
        misused ((s.arrived (latchReq .clr l src)).count (hubCtr f 11) 1) u) ∧
      (∀ c g, s.notYet (latchReq .claim l (.cell c)) = false → ∃ u : State, exec (.latchOpClaim l c g) s =
          .next (u.hubSend f 8 (.cell c) (.latchOp .claimresp l false false none g)) ∧
        misused ((s.arrived (latchReq .claim l (.cell c))).count (hubCtr f 11) 1) u) ∧
      (∀ c dl, s.notYet (latchReq .waitreg l (.cell c)) = false → ∃ u : State, exec (.waitreg l c dl) s =
          .next (u.hubSend f 8 (.cell c) (.latchOp .wake l false false none 0)) ∧
        misused ((s.arrived (latchReq .waitreg l (.cell c))).count (hubCtr f 11) 1) u)) ∧
    (∀ src, s.hubServes f = false ∨ s.notYet (latchReq .set l src) = true → exec (.latchOpSet l src) s = .next s) ∧
    (∀ src, s.hubServes f = false ∨ s.notYet (latchReq .clr l src) = true → exec (.latchOpClr l src) s = .next s) ∧
    (∀ c g, s.hubServes f = false ∨ s.notYet (latchReq .claim l (.cell c)) = true →
      exec (.latchOpClaim l c g) s = .next s) ∧
    (∀ c dl, s.hubServes f = false ∨ s.notYet (latchReq .waitreg l (.cell c)) = true → exec (.waitreg l c dl) s = .next s) ∧
    (∀ c, s.hubServes f = false ∨ s.notYet (latchReq .waitdereg l (.cell c)) = true → exec (.waitdereg l c) s = .next s)

/-- Operations on latches (R45, R263, R264, R266 to R268, R274). -/
def Obligations.LatchOperations : Prop := Claims.LatchChanges ∧ Claims.PlainLatches ∧ Claims.EntryLatches

/-- A gate's record replaced: no other gate and no other state changes. A stranger counts in its hub. -/
def Claims.GateStore : Prop :=
  ∀ (s : State) (g : GateId),
    let f := gateField g
    (∀ x : Gate, let u := s.setGate g x
      u.gate g = x ∧ (∀ y, y ≠ g → u.gate y = s.gate y) ∧ u.hub f = { s.hub f with gates := (u.hub f).gates } ∧
      (∀ h, h ≠ f → u.hub h = s.hub h) ∧ u = { s with hubs := u.hubs }) ∧
    (∀ u, u = s.stranger f →
      u.hub f = { s.hub f with stranger := (u.hub f).stranger } ∧
      (u.hub f).stranger.toNat = min ((s.hub f).stranger.toNat + 1) 65535 ∧
      (∀ h, h ≠ f → u.hub h = s.hub h) ∧ u = { s with hubs := u.hubs })

/-- A gate that faults (R279, R280): FAULTED with the cause, the current round, whether the parent is at fault and else the
slot; the time counted is kept. The fault names the owner, or for a job-owned gate every plot that holds a cell bound by an
enabled slot. -/
def Claims.GateFaults : Prop :=
  ∀ (s : State) (g : GateId) (cause : BitVec 3) (parent : Bool) (slot : Nat),
    let x := s.gate g
    let y := { x with
      state := .faulted, cause := cause, fround := x.cur, fparent := parent, since := none
      fslot := if parent then 0 else BitVec.ofNat 7 slot
      count := if x.timeout.msb = false then 0 else match x.since with
        | some t => (s.tick - t) / 100
        | none => x.count }
    s.gateFault g cause parent slot = (s.setGate g y).fault 3 g.toNat
      (leBytes 4 (y.late.toNat * 2 ^ 24 + cause.toNat * 2 ^ 16 + x.cur.toNat * 2 ^ 8 + (if parent then 128 else 0) +
        (if parent then 0 else slot % 128)) ++ leBytes 16 x.arr.toNat) 0 (s.gatePlots x) ∧
    (x.owner.toNat < 96 → s.gatePlots x = [x.owner]) ∧
    (96 ≤ x.owner.toNat → ∀ p, (p ∈ s.gatePlots x ↔ ∃ e ∈ s.plots, p = BitVec.ofNat 7 e.1 ∧ e.2.state ≠ .empty ∧
      ∃ k, k < 128 ∧ x.mask.getLsbD k = true ∧ bindKind (x.slot k) = 1 ∧ e.2.covers (bindCell (x.slot k)) = true))

/-- The gate operations that a gate sends (R276): to a GATE binding's gate, in its own hub or over the mesh; to a MILL binding
the mill's unit, with the wafer that the binding names; none else. -/
def Claims.GateSends : Prop :=
  ∀ (s : State) (g : GateId) (w : Word) (complete : Bool) (round : BitVec 2),
    (bindKind w = 2 → s.gateSend g w complete round = s.unitSend (gateField g) 9 (gateField (bindGate w)) 9
      (.gateOp complete (bindGate w) round g none)) ∧
    (bindKind w = 3 → s.gateSend g w complete round = s.unitSend (gateField g) 9 (millField (bindMill w))
      (millUnit (bindMill w)) (.gateOp complete (bindGate w) round g (some (bindWafer w)))) ∧
    (bindKind w < 2 → s.gateSend g w complete round = s)

/-- The end of a gate's round (R276): the round advances, ARR takes the early arrivals, whose first starts the timeout anew;
the round's latch is set and the latch of the round after next cleared; COMPLETE goes to each child gate, and with EVTEN an
event to each bound cell; the completion counts, is a tally boundary where TALLY_CFG names this gate, and triggers the steps
of the threshing groups that wait for it. -/
def Claims.RoundEnds : Prop :=
  ∀ (s : State) (g : GateId),
    let f := gateField g
    let x := s.gate g
    let r := x.cur
    let u := ((s.setGate g { x with
        cur := r + 1, arr := x.nxt, nxt := 0, state := .opened, first := x.nfirst, nfirst := 0, count := 0
        since := if x.nxt = 0 then none else some s.tick }).latchSet (latchOf f (4 * x.doneq + r.toNat))).latchClr
          (latchOf f (4 * x.doneq + (r + 2).toNat))
    let v := (List.range 128).foldl (fun v k => v.gateSend g (x.slot k) true r) u
    let w := ((List.range 128).filter fun k => bindKind (x.slot k) == 1 && x.ctrl.getLsbD 30).foldl (fun v k =>
      v.hubSend f 9 (.cell (bindCell (x.slot k))) (.event (BitVec.ofNat 4 (bits x.ctrl 29 26)))) v
    let y := w.count (hubCtr f 12) 1
    let z := if bits s.tally.cfg 63 62 = 1 ∧ bits s.tally.cfg 43 32 = g.toNat then y.boundary else y
    s.gateComplete g = (s.mills.filter fun e => e.2.thrGroups.any fun m => m.trigger == g).foldl
      (fun v e => v.trigger (BitVec.ofNat 5 e.1) g) z

/-- Arrivals (R274, R275, R277, R280): an ARRIVE is that of the enabled slot bound to its sender. One of no enabled slot, or at
a DISABLED gate, counts as a stranger; at a FAULTED gate it counts as late; one of another round faults the gate with ROUND.
A first one of a slot is recorded in ARR and starts the timeout, an early one in NXT; a third faults the gate with OVERRUN.
When ARR comes to equal MASK a gate without a parent ends its round, and the next one too where every early arrival is
there; one with a parent is UP and sends ARRIVE. -/
def Claims.GateArrivals : Prop :=
  ∀ (s : State) (g : GateId),
    (∀ x round, exec (.arrive g (.gate x) round) s = .next (
      if s.hubServes (gateField g) = false ∨ s.notYet (gateReq false g round (some x)) = true then s
      else (s.arrived (gateReq false g round (some x))).arrival g (some round) fun b => bindKind b == 2 && bindGate b == x)) ∧
    (∀ w x round, exec (.arrive g (.mill w x) round) s = .next (
      if s.hubServes (gateField g) = false ∨ s.notYet (gateReq false g round (some x)) = true then s
      else (s.arrived (gateReq false g round (some x))).arrival g (some round) fun b =>
        bindKind b == 3 && bindWafer b == w && bindGate b == x)) ∧
    (∀ (round : Option (BitVec 2)) (t : Word → Bool),
      let x := s.gate g
      (((∀ k, k < 128 → x.mask.getLsbD k = true → t (x.slot k) = false) ∨ x.state = .disabled) →
        s.arrival g round t = s.stranger (gateField g)) ∧
      (∀ k, k < 128 → x.mask.getLsbD k = true → t (x.slot k) = true →
        (∀ j, j < k → x.mask.getLsbD j = true → t (x.slot j) = false) →
        (x.state = .faulted → ∃ n : BitVec 8, n.toNat = min (x.late.toNat + 1) 255 ∧
          s.arrival g round t = s.setGate g { x with late := n }) ∧
        (x.state = .opened ∨ x.state = .up →
          (∀ r, round = some r → r ≠ x.cur → s.arrival g round t = s.gateFault g 3 false k) ∧
          ((∀ r, round = some r → r = x.cur) →
            (x.arr.getLsbD k = true → x.nxt.getLsbD k = true → s.arrival g round t = s.gateFault g 2 false k) ∧
            (x.arr.getLsbD k = true → x.nxt.getLsbD k = false → s.arrival g round t = s.setGate g { x with
              nxt := x.nxt ||| BitVec.ofNat 128 (2 ^ k), nfirst := if x.nxt = 0 then s.tick64 else x.nfirst }) ∧
            (x.arr.getLsbD k = false →
              let y := { x with
                arr := x.arr ||| BitVec.ofNat 128 (2 ^ k), first := if x.arr = 0 then s.tick64 else x.first
                since := some (x.since.getD s.tick) }
              let b := s.setGate g y
              (x.state = .up ∨ y.arr ≠ x.mask → s.arrival g round t = b) ∧
              (x.state = .opened → y.arr = x.mask →
                (bindKind x.parent ≠ 0 → s.arrival g round t =
                  (b.setGate g { y with state := .up }).gateSend g x.parent false x.cur) ∧
                (bindKind x.parent = 0 → x.nxt ≠ x.mask → s.arrival g round t = b.gateComplete g) ∧
                (bindKind x.parent = 0 → x.nxt = x.mask →
                  s.arrival g round t = (b.gateComplete g).gateComplete g)))))))

/-- COMPLETE from the parent (R273, R276, R277, R280): at a gate that is UP, one of its round ends the round, and where all early
arrivals are there the gate is UP again at once and sends ARRIVE; one of another round, or at a gate that is DISABLED or
OPEN, is a ROUND fault of the parent; a FAULTED gate stays as it is. -/
def Claims.GateParents : Prop :=
  ∀ (s : State) (g : GateId) (round : BitVec 2),
    let b := s.arrived (gateReq true g round none)
    let x := s.gate g
    (s.hubServes (gateField g) = false ∨ s.notYet (gateReq true g round none) = true →
      exec (.complete g round) s = .next s) ∧
    (s.hubServes (gateField g) = true → s.notYet (gateReq true g round none) = false →
      (x.state = .up → round = x.cur → x.nxt ≠ x.mask → exec (.complete g round) s = .next (b.gateComplete g)) ∧
      (x.state = .up → round = x.cur → x.nxt = x.mask → bindKind x.parent ≠ 0 → exec (.complete g round) s =
        let u := b.gateComplete g
        .next ((u.setGate g { u.gate g with state := .up }).gateSend g x.parent false (x.cur + 1))) ∧
      (x.state = .up → round ≠ x.cur → exec (.complete g round) s = .next (b.gateFault g 3 true 0)) ∧
      (x.state = .disabled ∨ x.state = .opened → exec (.complete g round) s = .next (b.gateFault g 3 true 0)) ∧
      (x.state = .faulted → exec (.complete g round) s = .next b))

/-- The timeout of a gate (R279, R280): with EN, once PERIOD microseconds have passed since the round's first arrival, an OPEN
gate faults with the first enabled slot that has not arrived, one that is UP with its parent; else nothing happens. -/
def Claims.GateTimeouts : Prop :=
  ∀ (s : State) (g : GateId),
    let x := s.gate g
    let met (b : Nat) : Prop := s.hubServes (gateField g) = true ∧ x.timeout.msb = true ∧
      b + bits x.timeout 15 0 * 100 ≤ s.tick
    (∀ b, x.since = some b → met b →
      (∀ k, k < 128 → x.state = .opened → x.mask.getLsbD k = true → x.arr.getLsbD k = false →
        (∀ j, j < k → x.mask.getLsbD j = true → x.arr.getLsbD j = true) →
        exec (.gateTimeout g) s = .next (s.gateFault g 4 false k)) ∧
      (x.state = .up → exec (.gateTimeout g) s = .next (s.gateFault g 4 true 0)) ∧
      (x.state = .disabled ∨ x.state = .faulted → exec (.gateTimeout g) s = .next s)) ∧
    ((∀ b, x.since = some b → ¬ met b) → exec (.gateTimeout g) s = .next s)

/-- Enabling and disabling a gate (R272, R273): EN written to 1 while it is DISABLED checks the configuration: the mask is not 0,
each enabled slot is bound, the entry latch is none of the four round latches, and none of the five serves another gate. A
gate that passes is OPEN in round 0 with no arrival, and marks its latches; one that fails stays DISABLED with CAUSE 1. EN
written to 0 unmarks its latches, unless it was DISABLED, and disables it. -/
def Claims.GateEnables : Prop :=
  ∀ (s : State) (g : GateId),
    let f := gateField g
    let h := s.hub f
    let x := s.gate g
    let me : BitVec 6 := BitVec.ofNat 6 (gateIndex g)
    let free (k : Nat) : Prop := (∀ m, (h.latch k).entry = some m → m.toNat = gateIndex g) ∧
      (∀ m, (h.latch k).done = some m → m.toNat = gateIndex g)
    let valid : Prop := x.mask ≠ 0 ∧ (∀ k, k < 128 → x.mask.getLsbD k = true → bindKind (x.slot k) ≠ 0) ∧
      x.entry / 4 ≠ x.doneq ∧ free x.entry ∧ ∀ k, k < 4 → free (4 * x.doneq + k)
    let marked (u : State) (m : Option (BitVec 6)) : Prop :=
      (∀ j, (u.hub f).latch j = { h.latch j with
        entry := if j = x.entry then m else (h.latch j).entry
        done := if j / 4 = x.doneq then m else (h.latch j).done }) ∧
      (∀ y, y ≠ g → u.gate y = s.gate y) ∧
      u.hub f = { h with latches := (u.hub f).latches, gates := (u.hub f).gates } ∧
      (∀ e, e ≠ f → u.hub e = s.hub e) ∧ u = { s with hubs := u.hubs }
    (s.hubServes f = false ∨ x.state ≠ .disabled → exec (.gateEnable g) s = .next s) ∧
    (s.hubServes f = true → x.state = .disabled →
      (valid → ∃ u : State, exec (.gateEnable g) s = .next u ∧ marked u (some me) ∧
        u.gate g = { x with ctrl := x.ctrl ||| 0x80000000, state := .opened, cur := 0, arr := 0, nxt := 0, nfirst := 0,
                            since := none, count := 0 }) ∧
      (¬ valid → exec (.gateEnable g) s = .next (s.setGate g { x with
        ctrl := x.ctrl ||| 0x80000000, state := .disabled, cause := 1 }))) ∧
    (s.hubServes f = false → exec (.gateDisable g) s = .next s) ∧
    (s.hubServes f = true →
      let y := { x with ctrl := x.ctrl &&& 0x7FFFFFFF, state := .disabled, since := none }
      (x.state = .disabled → exec (.gateDisable g) s = .next (s.setGate g y)) ∧
      (x.state ≠ .disabled → ∃ u : State, exec (.gateDisable g) s = .next u ∧ marked u none ∧ u.gate g = y))

/-- Gates: arrivals, rounds, faults, timeouts, enabling and disabling (R272 to R280). -/
def Obligations.Gates : Prop :=
  Claims.GateStore ∧ Claims.GateFaults ∧ Claims.GateSends ∧ Claims.RoundEnds ∧ Claims.GateArrivals ∧ Claims.GateParents ∧
  Claims.GateTimeouts ∧ Claims.GateEnables

/-! ### Mailboxes (14) -/

/-- Posting and freeing a slot (R405, R406, R408): a post of a FREE slot makes it POSTED and its message waits, and is ignored
and counted elsewhere; where the ward serves and the opcode is unknown the posted slots are accepted at once; a write of 0 frees
a DONE slot, and is ignored and counted elsewhere. -/
def Claims.SlotWrites : Prop :=
  ∀ (s : State) (p : PortNo) (n : SlotNo),
    ((s.port p).slotState n ≠ 0 →
      exec (.slotPost p n) s = .next (s.setPort p { s.port p with mbSlot := satAdd (s.port p).mbSlot 1 })) ∧
    ((s.port p).slotState n = 0 →
      ∃ t : State, exec (.slotPost p n) s = .next
          (if opInfo (opcodeOf ((s.port p).opword n)) = none ∧ s.wardServes 1 = true then t.acceptAll else t) ∧
        (t.port p).slotState n = 1 ∧ t.mail = s.mail ++ [(p, n)] ∧
        (t.port p).opword n = (s.port p).opword n ∧ (t.port p).payload n = (s.port p).payload n ∧
        (∀ k, k ≠ n → (t.port p).slotState k = (s.port p).slotState k) ∧
        t.port p = { s.port p with mbox := (t.port p).mbox } ∧ (∀ q, q ≠ p → t.port q = s.port q) ∧
        t = { s with ports := t.ports, mail := t.mail }) ∧
    ((s.port p).slotState n ≠ 3 →
      exec (.slotFree p n) s = .next (s.setPort p { s.port p with mbSlot := satAdd (s.port p).mbSlot 1 })) ∧
    ((s.port p).slotState n = 3 →
      ∃ t : State, exec (.slotFree p n) s = .next t ∧ (t.port p).slotState n = 0 ∧
        (∀ k, k ≠ n → (t.port p).slotState k = (s.port p).slotState k) ∧
        t.port p = { s.port p with mbox := (t.port p).mbox } ∧ (∀ q, q ≠ p → t.port q = s.port q) ∧
        t = { s with ports := t.ports })

/-- Acceptance (R406, R408): the slot of every message in the mail is ACCEPTED, and one of an unknown opcode is DONE with status
OPCODE and leaves the mail. The words of the slots and every other slot stay as they are. -/
def Claims.Accepts : Prop :=
  ∀ s : State,
    let t := s.acceptAll
    (∀ p n, (p, n) ∈ s.mail → opInfo (opcodeOf ((s.port p).opword n)) ≠ none →
      (p, n) ∈ t.mail ∧ (t.port p).slotState n = 2 ∧ (t.port p).payload n = (s.port p).payload n) ∧
    (∀ p n, (p, n) ∈ s.mail → opInfo (opcodeOf ((s.port p).opword n)) = none →
      (p, n) ∉ t.mail ∧ (t.port p).slotState n = 3 ∧ leNat ((t.port p).slotBytes n 0x0C 2) = 1) ∧
    (∀ p n, (p, n) ∉ s.mail → ∀ i j, i + j ≤ 4096 → (t.port p).slotBytes n i j = (s.port p).slotBytes n i j) ∧
    (∀ p n, (t.port p).opword n = (s.port p).opword n) ∧ (∀ x ∈ t.mail, x ∈ s.mail) ∧
    t = { s with mail := t.mail, ports := t.ports }

/-- An answer (R404, R407, R414, R416): status, detail, length and payload are in the slot, which is DONE; its vector is
signalled, or pends where it is masked; HG_MB_LASTSEQ names a mutating command; the other slots keep their bytes. -/
def Claims.AnswerWrites : Prop :=
  ∀ (t : State) (p : PortNo) (n : SlotNo) (w : Word) (mutating : Bool) (a : Answer), a.resp.length ≤ 4032 →
    let u := t.complete p n w true mutating a
    (u.port p).slotState n = 3 ∧ leNat ((u.port p).slotBytes n 0x0C 2) = a.status % 65536 ∧
    leNat ((u.port p).slotBytes n 0x0E 2) = a.detail % 65536 ∧
    leNat ((u.port p).slotBytes n 0x10 4) = a.resp.length ∧
    (u.port p).slotBytes n 0x40 a.resp.length = a.resp ∧
    (∀ k, k ≠ n → ∀ i j, i + j ≤ 4096 → (u.port p).slotBytes k i j = (t.port p).slotBytes k i j) ∧
    ((t.port p).mask.getLsbD n.toNat = false → (u.port p).signalled = n.toNat :: (t.port p).signalled ∧
      (u.port p).pend = (t.port p).pend) ∧
    ((t.port p).mask.getLsbD n.toNat = true → (u.port p).signalled = (t.port p).signalled ∧
      (u.port p).pend.getLsbD n.toNat = true) ∧
    u.port p = { t.port p with mbox := (u.port p).mbox, pend := (u.port p).pend, signalled := (u.port p).signalled } ∧
    (mutating = true → u.lastSeq.toNat = seqOf w * 2 ^ 16 + p.toNat * 256 + opcodeOf w) ∧
    (mutating = false → u.lastSeq = t.lastSeq) ∧
    (∀ q, q ≠ p → u.port q = t.port q) ∧ u = { t with ports := u.ports, lastSeq := u.lastSeq } ∧
    t.complete p n w false mutating a = { t with lastSeq := u.lastSeq }

/-- The checks before a command (R404, R406, R408, R412, R418, R423; their order is log entry 20): a wrong length answers
LENGTH; a class-S command of a port that is not the steward NOT_STEWARD with the steward's port; a command that needs the
wafer STATE before bring-up ends or while it is stopped; a byte that no field names FIELD with its offset. The command then has
no effect, and its message is answered; a message that is not in the mail changes nothing. -/
def Claims.ChecksAnswer : Prop :=
  (∀ (s : State) (i : Instr) (p : PortNo) (n : SlotNo) (o : OpInfo) (a : Answer), mailOf i = some (p, n, o.code) →
    s.ComesToMail p n o → mailRow i ((s.port p).payload n) = true →
    s.acceptAll.generalCheck o p ((s.port p).reqLen n) ((s.port p).payload n) = some a →
    exec i s = .next ((s.mailStarted p n).mailAnswer s p n o a)) ∧
  (∀ (s : State) (i : Instr) (p : PortNo) (n : SlotNo) (code : Nat), mailOf i = some (p, n, code) →
    s.mail.contains (p, n) = false → s.running = none → exec i s = .next s) ∧
  ∀ (s : State) (o : OpInfo) (p : PortNo) (len : Nat) (l : List Byte),
    ((4032 < len ∨ (o.fixed = true ∧ len ≠ o.len) ∨ (o.fixed = false ∧ len < o.len)) →
      s.generalCheck o p len l = some (refuse 2 0)) ∧
    (len = o.len → len ≤ 4032 →
      (o.steward = true → s.steward.state = 0 → s.generalCheck o p len l = some (refuse 4 0xFFFF)) ∧
      (o.steward = true → s.steward.state ≠ 0 → s.steward.port ≠ p →
        s.generalCheck o p len l = some (refuse 4 s.steward.port.toNat)) ∧
      ((o.steward = true → s.steward.state ≠ 0 ∧ s.steward.port = p) →
        (o.wafer = true → s.boot.done < 9 ∨ s.power.stopped = true → s.generalCheck o p len l = some (refuse 5 0xFFFF)) ∧
        (o.wafer = false → ∀ i, i < o.len → (l[i]?.getD 0) ≠ 0 → (∀ r ∈ o.named, i < r.1 ∨ r.1 + r.2 ≤ i) →
          (∀ j, j < i → (l[j]?.getD 0) = 0 ∨ ∃ r ∈ o.named, r.1 ≤ j ∧ j < r.1 + r.2) →
          s.generalCheck o p len l = some (badField i))))

/-- Queries (R404, R409, R431 to R433, R516): IDENTIFY, MAP_QUERY, LEDGER_READ and ATTEST answer what the ward holds and change
nothing; LEDGER_REVIVE marks the entries of its position. -/
def Claims.Queries : Prop :=
  ∀ (s : State) (p : PortNo) (n : SlotNo) (o : OpInfo), s.ComesToMail p n o → s.MailPasses p n o →
    let m := s.mailStarted p n
    let l := (s.port p).payload n
    let hit := l.take 3
    let revived := s.ledger.map fun e => if [e.field, e.row, e.col] == hit then { e with revive := true } else e
    (o.code = 0x01 → exec (.identify p n) s = .next (m.mailAnswer s p n o (okWith
      (leBytes 2 0x1FB3 ++ leBytes 2 0x4830 ++ leBytes 8 s.serial.toNat ++ leBytes 1 (if s.licence.full then 1 else 0) ++
        leBytes 1 p.toNat ++ leBytes 2 (if s.isSteward p then 1 else 0) ++ leBytes 4 s.fw.version.toNat ++
        leBytes 4 s.libver.toNat ++ leBytes 4 s.epoch.toNat ++ leBytes 4 s.steward.gen.toNat)))) ∧
    (o.code = 0x02 → exec (.mapQuery p n) s = .next (m.mailAnswer s p n o
      (if 3072 ≤ leAt l 0 4 then badField 0
       else if leAt l 4 4 = 0 ∨ 62 < leAt l 4 4 then badField 4
       else okWith (leBytes 4 s.epoch.toNat ++ leBytes 4 3072 ++
         ((List.range (min (leAt l 4 4) (3072 - leAt l 0 4))).flatMap fun i => s.mapRecord (leAt l 0 4 + i)))))) ∧
    (o.code = 0x62 → exec (.ledgerRead p n) s = .next (m.mailAnswer s p n o (okWith
      (leBytes 4 s.ledger.length ++ leBytes 4 ((s.ledger.drop (leAt l 0 4)).take 251).length ++
        ((s.ledger.drop (leAt l 0 4)).take 251).flatMap LedgerEntry.bytes)))) ∧
    (o.code = 0x63 → (s.ledger.any fun e => [e.field, e.row, e.col] == hit) = true →
      exec (.ledgerRevive p n) s = .next (({ m with ledger := revived } : State).mailAnswer s p n o (okWith []))) ∧
    (o.code = 0x63 → (s.ledger.any fun e => [e.field, e.row, e.col] == hit) = false →
      exec (.ledgerRevive p n) s = .next (m.mailAnswer s p n o (refuse 17 0))) ∧
    (o.code = 0x54 → exec (.attest p n) s = .next (m.mailAnswer s p n o (okWith
      (s.report p l ++ padBytes (Config.identitySign (s.report p l)) 384 ++ Config.certificate.take 2048))))

/-- Slots, answers and the checks before commands. -/
def Obligations.Mailboxes : Prop := Claims.SlotWrites ∧ Claims.Accepts ∧ Claims.AnswerWrites ∧ Claims.ChecksAnswer

/-- Stewardship (R417 to R419): a claim by another port than the holder's is refused while the stewardship is HELD; else the
claiming port holds it, GEN counts a change of port or a claim of a free one, and a STEWARD notice reports it; a release
frees it; a steward's heartbeat restarts its count and ends a lapse; the count reaching the timeout lapses it. -/
def Claims.Stewardship : Prop :=
  (∀ (s : State) (p : PortNo) (n : SlotNo) (o : OpInfo), s.ComesToMail p n o → s.MailPasses p n o →
    let m := s.mailStarted p n
    let l := (s.port p).payload n
    let x := s.steward
    (o.code = 0x70 →
      (leAt l 0 4 < 100 ∨ 60000 < leAt l 0 4 → exec (.stewardClaim p n) s = .next (m.mailAnswer s p n o (badField 0))) ∧
      (100 ≤ leAt l 0 4 → leAt l 0 4 ≤ 60000 →
        (x.state = 1 → x.port ≠ p →
          exec (.stewardClaim p n) s = .next (m.mailAnswer s p n o (refuse 4 x.port.toNat))) ∧
        (x.state = 1 → x.port = p → exec (.stewardClaim p n) s = .next
          (({ m with steward := ⟨1, p, x.gen, leAt l 0 4, s.tick⟩ } : State).mailAnswer s p n o
            (okWith (leBytes 4 x.gen.toNat)))) ∧
        (x.state = 2 ∨ 3 ≤ x.state.toNat → x.port = p → exec (.stewardClaim p n) s = .next
          ((({ m with steward := ⟨1, p, x.gen, leAt l 0 4, s.tick⟩ } : State).stewardNotice).mailAnswer s p n o
            (okWith (leBytes 4 x.gen.toNat)))) ∧
        (x.state = 0 ∨ (x.state ≠ 1 ∧ x.port ≠ p) → exec (.stewardClaim p n) s = .next
          ((s.pageFaults.foldl (fun v f => v.setPort p ((v.port p).notice ⟨2, 32, s.tick, padBytes f.2.2 48⟩))
            ({ m with steward := ⟨1, p, x.gen + 1, leAt l 0 4, s.tick⟩ } : State).stewardNotice).mailAnswer s p n o
              (okWith (leBytes 4 (x.gen + 1).toNat)))))) ∧
    (o.code = 0x71 → exec (.stewardRelease p n) s = .next
      ((({ m with steward := { x with state := 0 } } : State).stewardNotice).mailAnswer s p n o (okWith []))) ∧
    (o.code = 0x72 →
      (s.isSteward p = false → exec (.heartbeat p n) s = .next (m.mailAnswer s p n o
        (okWith (leBytes 8 s.tick ++ leBytes 4 x.reg.toNat)))) ∧
      (x.state ≠ 0 → x.state ≠ 2 → x.port = p → exec (.heartbeat p n) s = .next
        (({ m with steward := { x with state := 1, since := s.tick } } : State).mailAnswer s p n o
          (okWith (leBytes 8 s.tick ++ leBytes 4 (Steward.reg { x with state := 1 }).toNat)))) ∧
      (x.state = 2 → x.port = p → exec (.heartbeat p n) s = .next
        ((({ m with steward := { x with state := 1, since := s.tick } } : State).stewardNotice).mailAnswer s p n o
          (okWith (leBytes 8 s.tick ++ leBytes 4 (Steward.reg { x with state := 1 }).toNat)))))) ∧
  ∀ s : State,
    (s.steward.state = 1 → s.steward.since + s.steward.timeout * 100000 ≤ s.tick →
      exec .stewardLapse s = .next ({ s with steward := { s.steward with state := 2 } } : State).stewardNotice) ∧
    (s.steward.state ≠ 1 ∨ s.tick < s.steward.since + s.steward.timeout * 100000 → exec .stewardLapse s = .next s) ∧
    s.stewardNotice = s.notice 5 4 (padBytes (leBytes 4 s.steward.reg.toNat) 48) ∧ ∃ t : State, s.stewardNotice = t ∧ t = { s with ports := t.ports } ∧ ∀ p : PortNo, (s.port p).ringFull = false →
      (s.port p).noticesHeld = [] → (t.port p).prod = (s.port p).prod + 1 ∧ (t.port p).seq = (s.port p).seq + 1 ∧
      (t.port p).mbox = (s.port p).mbox ∧ Store.get [] (t.port p).ring ((s.port p).prod.toNat % 1024) =
        padBytes (leBytes 2 5 ++ leBytes 2 4 ++ leBytes 4 (s.port p).seq ++ leBytes 8 s.tick ++
          padBytes (leBytes 4 s.steward.reg.toNat) 48) 64

/-- The steward's and the claim's commands of the mailbox, and the queries. -/
def Obligations.Stewardship : Prop := Claims.Stewardship ∧ Claims.Queries

/-- A change of a setting (R509; which commands change one is log entry 76) goes to the settings area of the running slot, and to
both while a slot is TRIAL. -/
def Claims.SettingAreas : Prop :=
  ∀ (s : State) (id : Nat) (v : List Byte),
    let x := s.fw
    let trial := x.a.state = 4 ∨ x.b.state = 4
    let a := Config.settingsBytes (leAt x.a.image 17 1) x.settingsA id v
    let b := Config.settingsBytes (leAt x.b.image 17 1) x.settingsB id v
    (trial → s.settingChanged id v = { s with fw := { x with settingsA := a, settingsB := b } }) ∧
    (¬ trial → x.running = false → s.settingChanged id v = { s with fw := { x with settingsA := a } }) ∧
    (¬ trial → x.running = true → s.settingChanged id v = { s with fw := { x with settingsB := b } })

/-- Settings of the ward (R266, R274, R284, R399, R402, R483): limits, HG_TALLY_CFG, windows, viewports and latches take the
values of the payload; an out-of-range field answers FIELD with its offset and leaves them. -/
def Claims.Settings : Prop :=
  ∀ (s : State) (p : PortNo) (n : SlotNo) (o : OpInfo), s.ComesToMail p n o → s.MailPasses p n o →
    let m := s.mailStarted p n
    let l := (s.port p).payload n
    let ans (t : State) (a : Answer) : Host.Outcome State Fault Refusal := .next (t.mailAnswer s p n o a)
    (o.code = 0x40 → exec (.powerLimitSet p n) s =
      if leAt l 0 4 < 4000 ∨ 33000 < leAt l 0 4 then ans m (badField 0)
      else if leAt l 4 4 < leAt l 0 4 ∨ 40000 < leAt l 4 4 then ans m (badField 4)
      else if leAt l 8 4 < 500 ∨ 10000 < leAt l 8 4 ∨ leAt l 8 4 % 2 ≠ 0 then ans m (badField 8)
      else ans (({ m with power := { s.power with
        sustained := leAt l 0 4, peak := leAt l 4 4, window := leAt l 8 4 } } : State).settingChanged 0x40 l) (okWith [])) ∧
    (o.code = 0x33 →
      let cfg : DWord := BitVec.ofNat 64 (leAt l 0 8 / 2 ^ 62 * 2 ^ 62 + leAt l 0 8 / 2 ^ 32 % 4096 * 2 ^ 32 +
        max 1000 (leAt l 0 8 % 2 ^ 32))
      exec (.tallyConfig p n) s =
        if leAt l 0 8 / 2 ^ 62 = 3 then ans m (badField 7)
        else if 3072 ≤ leAt l 0 8 / 2 ^ 32 % 4096 then ans m (badField 4)
        else ans (({ m with tally := { s.tally with cfg := cfg, since := s.tick } } : State).settingChanged 0x33
          (leBytes 8 cfg.toNat)) (okWith [])) ∧
    (o.code = 0x20 →
      let added : Window := ⟨s.steward.port, BitVec.ofNat 64 (leAt l 8 8), leAt l 16 8, leAt l 1 1 == 1, false⟩
      exec (.hostWindowAdd p n) s =
        if 64 ≤ leAt l 0 1 then ans m (badField 0)
        else if 2 ≤ leAt l 1 1 then ans m (badField 1)
        else if leAt l 8 8 % 4096 ≠ 0 then ans m (badField 8)
        else if leAt l 16 8 = 0 ∨ leAt l 16 8 % 4096 ≠ 0 ∨ 2 ^ 48 < leAt l 16 8 then ans m (badField 16)
        else ans (({ m with windows := Store.insert s.windows (leAt l 0 1) added } : State).settingChanged 0x20 l)
          (okWith [])) ∧
    (o.code = 0x22 →
      let granView : View := ⟨1, BitVec.ofNat 64 (leAt l 8 8), 0, 0, 0, 0⟩
      let loftView : View := ⟨2, 0, BitVec.ofNat 7 (leAt l 8 1), leAt l 10 2, leAt l 12 2, leAt l 14 2⟩
      let set (x : Store View) : Host.Outcome State Fault Refusal :=
        ans ((m.setPort p { m.port p with views := x }).settingChanged 0x22 l) (okWith [])
      let old := (m.port p).views
      (16 ≤ leAt l 0 1 → exec (.viewportSet p n) s = ans m (badField 0)) ∧
      (leAt l 0 1 < 16 →
        (leAt l 1 1 = 0 →
          (∀ i, i < 8 → leAt l (8 + i) 1 ≠ 0 → (∀ j, j < i → leAt l (8 + j) 1 = 0) →
            exec (.viewportSet p n) s = ans m (badField (8 + i))) ∧
          ((∀ i, i < 8 → leAt l (8 + i) 1 = 0) → exec (.viewportSet p n) s = set (Store.erase old (leAt l 0 1)))) ∧
        (leAt l 1 1 = 1 → exec (.viewportSet p n) s =
          if leAt l 8 8 % 2 ^ 21 ≠ 0 ∨ 2 ^ 42 ≤ leAt l 8 8 then ans m (badField 8)
          else set (Store.insert old (leAt l 0 1) granView)) ∧
        (leAt l 1 1 = 2 → exec (.viewportSet p n) s =
          if 96 ≤ leAt l 8 1 then ans m (badField 8)
          else if leAt l 9 1 ≠ 0 then ans m (badField 9)
          else if leAt l 14 2 = 0 ∨ 624 < leAt l 14 2 then ans m (badField 14)
          else set (Store.insert old (leAt l 0 1) loftView)) ∧
        (3 ≤ leAt l 1 1 → exec (.viewportSet p n) s = ans m (badField 1)))) ∧
    (o.code = 0x30 →
      let id : LatchId := BitVec.ofNat 17 (leAt l 0 4)
      let h := s.hub (latchField id)
      let e := (h.latch (latchIndex id)).entry
      (48 * 2048 ≤ leAt l 0 4 → exec (.latchSet p n) s = ans m (badField 0)) ∧
      (leAt l 0 4 < 48 * 2048 → exec (.latchSet p n) s =
        if 2 ≤ leAt l 4 1 then ans m (badField 4)
        else if h.dark = true then ans m (refuse 5 (latchField id).toNat)
        else if e = none then
          ans (if leAt l 4 1 = 0 then (m.countLatch id).latchSet id else (m.countLatch id).latchClr id) (okWith [])
        else ans (if leAt l 4 1 = 0 then (m.countLatch id).stranger (latchField id)
          else (m.countLatch id).misuse (latchField id)) (okWith [])))

/-- Deleting a window (R307): the entry goes at once where no wain packet to the window waits for its answer; else it closes and
the command waits until none does; one of no window answers NOT_FOUND. -/
def Claims.WindowDeletes : Prop :=
  ∀ (s : State) (p : PortNo) (n : SlotNo),
    let gone (t : State) (w : Nat) : State :=
      ({ t with windows := Store.erase t.windows w } : State).settingChanged 0x21 (leBytes 1 w)
    (∀ o, s.ComesToMail p n o → s.MailPasses p n o → o.code = 0x21 → s.runningIn p n = none →
      let m := s.mailStarted p n
      let l := (s.port p).payload n
      let w := leAt l 0 1
      (64 ≤ w → exec (.hostWindowDel p n) s = .next (m.mailAnswer s p n o (badField 0))) ∧
      (w < 64 → Store.find? s.windows w = none → exec (.hostWindowDel p n) s = .next (m.mailAnswer s p n o (refuse 17 0))) ∧
      (∀ x, w < 64 → Store.find? s.windows w = some x →
        (s.windowBusy (BitVec.ofNat 6 w) = false →
          exec (.hostWindowDel p n) s = .next ((gone m w).mailAnswer s p n o (okWith []))) ∧
        (s.windowBusy (BitVec.ofNat 6 w) = true → exec (.hostWindowDel p n) s = .next { m with
          windows := Store.insert s.windows w { x with closing := true }
          running := some ⟨p, n, (s.port p).opword n, l, true, .window (BitVec.ofNat 6 w)⟩ }))) ∧
    (∀ w l live x, s.running = some ⟨p, n, w, l, live, .window x⟩ → exec (.hostWindowDel p n) s = .next
      (if s.windowBusy x then s else (gone s x.toNat).finish (okWith [])))

/-- Writing the granary map (R300 to R302, R411): the entries are checked in order, a bad one answering with its offset; then
every copy of the map that can be reached holds them, and no cache keeps an entry of a page whose valid entry changed. Where
packets translated through such pages are not complete the command waits for them. -/
def Claims.MapWrites : Prop :=
  ∀ (s : State) (p : PortNo) (n : SlotNo),
    (∀ o, s.ComesToMail p n o → s.MailPasses p n o → o.code = 0x23 → s.runningIn p n = none →
      let m := s.mailStarted p n
      let l := (s.port p).payload n
      let first := leAt l 0 4
      let count := leAt l 4 4
      let e (k : Nat) : DWord := BitVec.ofNat 64 (leAt l (8 + 8 * k) 8)
      (count = 0 ∨ 503 < count → exec (.granaryMap p n) s = .next (m.mailAnswer s p n o (badField 4))) ∧
      (0 < count → count ≤ 503 → l.length ≠ 8 + 8 * count →
        exec (.granaryMap p n) s = .next (m.mailAnswer s p n o (refuse 2 0))) ∧
      (0 < count → count ≤ 503 → l.length = 8 + 8 * count →
        (2 ^ 21 < first + count → exec (.granaryMap p n) s = .next (m.mailAnswer s p n o (badField 0))) ∧
        (first + count ≤ 2 ^ 21 →
          (∀ k st, k < count → s.entryRefused (e k) = some st → (∀ j, j < k → s.entryRefused (e j) = none) →
            exec (.granaryMap p n) s = .next (m.mailAnswer s p n o (refuse st (8 + 8 * k)))) ∧
          ((∀ k, k < count → s.entryRefused (e k) = none) →
            let changed := ((List.range count).filter fun k =>
              entryValid (s.mapEntry (first + k)) && s.mapEntry (first + k) != e k).map fun k => first + k
            let hit (g : BitVec 21) : Bool := changed.contains g.toNat
            let reached := s.copiesFor s.hingeField
            let dropped (w : Wain) : Wain := { w with
              cache := w.cache.filter fun x => !hit x.1
              partDst := if w.partPages.any hit then none else w.partDst
              part := if w.partPages.any hit then [] else w.part
              partPages := if w.partPages.any hit then [] else w.partPages }
            ∃ u : State, exec (.granaryMap p n) s = .next (if u.pagesBusy changed
                then { u with running := some ⟨p, n, (s.port p).opword n, l, true, .map changed⟩ }
                else u.mailAnswer s p n o (okWith [])) ∧
              (∀ j k, k < 2 ^ 21 → Store.get 0 u.gmap (copyKey j k) =
                if j ∈ reached ∧ first ≤ k ∧ k < first + count then e (k - first) else Store.get 0 s.gmap (copyKey j k)) ∧
              u.hingeCache = s.hingeCache.filter (fun x => !hit x.1) ∧
              (∀ w, u.wain w = dropped (s.wain w)) ∧
              (∀ x, u.mill x = { s.mill x with mapCache := (s.mill x).mapCache.filter fun x => !hit x.1 }) ∧
              (∀ q, u.plot q = { s.plot q with contexts := (s.plot q).contexts.map dropped }) ∧
              u.granary = s.granary ∧
              u = { m with gmap := u.gmap, granErr := u.granErr, gstacks := u.gstacks, hingeCache := u.hingeCache,
                           wains := u.wains, mills := u.mills, plots := u.plots })))) ∧
    (∀ w l live pages, s.running = some ⟨p, n, w, l, live, .map pages⟩ →
      exec (.granaryMap p n) s = .next (if s.pagesBusy pages then s else s.finish (okWith [])))

/-- The answer to a page fault (R304, R309): of an unknown number NOT_FOUND; else the fault is forgotten and its wain runs
again, or with ABORT ends in error 11; where the context of a scanned plot holds the fault, the action waits there. -/
def Claims.FaultAnswers : Prop :=
  ∀ (s : State) (p : PortNo) (n : SlotNo) (o : OpInfo), s.ComesToMail p n o → s.MailPasses p n o → o.code = 0x24 →
    let m := s.mailStarted p n
    let l := (s.port p).payload n
    let q : Word := BitVec.ofNat 32 (leAt l 0 4)
    (2 ≤ leAt l 4 1 → exec (.faultResume p n) s = .next (m.mailAnswer s p n o (badField 4))) ∧
    (leAt l 4 1 < 2 → (∀ f ∈ s.pageFaults, f.1 ≠ q) →
      exec (.faultResume p n) s = .next (m.mailAnswer s p n o (refuse 17 0))) ∧
    (∀ l₁ f l₂, leAt l 4 1 < 2 → s.pageFaults = l₁ ++ f :: l₂ → f.1 = q → (∀ x ∈ l₁, x.1 ≠ q) →
      let b : State := { m with pageFaults := s.pageFaults.filter fun x => x.1 != q }
      let w := s.wain f.2.1
      let held : Prop := ∃ e ∈ s.plots, ∃ c ∈ e.2.contexts, c.faultSeq = some q
      (w.faultSeq = some q → ¬ held →
        (leAt l 4 1 = 0 → exec (.faultResume p n) s = .next (((b.setWain f.2.1 { w with
          faultSeq := none, resume := none, state := .running, err := 0, stopReq := false }).thrWain f.2.1).mailAnswer
            s p n o (okWith []))) ∧
        (leAt l 4 1 = 1 → exec (.faultResume p n) s = .next ((((b.setWain f.2.1 { w with
          faultSeq := none, resume := none }).wainError f.2.1 11).thrWain f.2.1).mailAnswer s p n o (okWith [])))) ∧
      (w.faultSeq ≠ some q ∨ held → exec (.faultResume p n) s = .next (({ b with plots := s.plots.map fun e =>
        (e.1, { e.2 with contexts := e.2.contexts.map fun c =>
          if c.faultSeq = some q then { c with resume := some (leAt l 4 1 == 0) } else c }) } : State).mailAnswer
            s p n o (okWith []))))

/-- Resident ranges (R180, R183, R411): a declaration that keeps the limits adds a range claimed by the plan; one that does not
answers RESIDENT, without a plan PLAN; a release zeroes the windows of the unclaimed ranges of its key and forgets them. -/
def Claims.ResidentSettings : Prop :=
  ∀ (s : State) (p : PortNo) (n : SlotNo) (o : OpInfo), s.ComesToMail p n o → s.MailPasses p n o →
    let m := s.mailStarted p n
    let l := (s.port p).payload n
    (o.code = 0x78 →
      let id : PlotId := BitVec.ofNat 7 (leAt l 4 1)
      let q := s.plot id
      let start := leAt l 16 4
      let len := leAt l 20 4
      let cells := rectCells (q.lx.toNat + leAt l 8 2) (q.ly.toNat + leAt l 10 2) (leAt l 12 2) (leAt l 14 2)
      let kept : Prop := leAt l 0 4 ≠ 0 ∧ q.holds = true ∧ 0 < leAt l 12 2 ∧ 0 < leAt l 14 2 ∧
        leAt l 8 2 + leAt l 12 2 ≤ q.width.toNat ∧ leAt l 10 2 + leAt l 14 2 ≤ q.height.toNat ∧ start % 4096 = 0 ∧
        0 < len ∧ len % 4096 = 0 ∧ start + len ≤ 0x1FF000 ∧ s.residents.length < 256 ∧
        ∀ c ∈ cells, (s.windowsOf c).length < 4 ∧ (∀ r ∈ s.windowsOf c, rangesMeet (start, start + len) (r.start, r.start + r.len) = false) ∧
          ∀ r ∈ s.planRings id c, rangesMeet (start, start + len) r = false
      (s.plan = none → exec (.residentDeclare p n) s = .next (m.mailAnswer s p n o (refuse 14 0))) ∧
      (s.plan ≠ none → 96 ≤ leAt l 4 1 → exec (.residentDeclare p n) s = .next (m.mailAnswer s p n o (badField 4))) ∧
      (s.plan ≠ none → leAt l 4 1 < 96 → ¬ kept → exec (.residentDeclare p n) s = .next (m.mailAnswer s p n o (refuse 13 0))) ∧
      (s.plan ≠ none → leAt l 4 1 < 96 → kept → exec (.residentDeclare p n) s = .next (({ m with residents := s.residents ++
        [⟨BitVec.ofNat 32 (leAt l 0 4), q.lx.toNat + leAt l 8 2, q.ly.toNat + leAt l 10 2, leAt l 12 2, leAt l 14 2,
          start, len, true, false, id⟩] } : State).mailAnswer s p n o (okWith [])))) ∧
    (o.code = 0x79 →
      let key : Word := BitVec.ofNat 32 (leAt l 0 4)
      ((∀ r ∈ s.residents, r.key ≠ key) → exec (.residentRelease p n) s = .next (m.mailAnswer s p n o (refuse 17 0))) ∧
      ((∃ r ∈ s.residents, r.key = key ∧ r.claimed = true) →
        exec (.residentRelease p n) s = .next (m.mailAnswer s p n o (refuse 13 0))) ∧
      ((∃ r ∈ s.residents, r.key = key) → (∀ r ∈ s.residents, r.key = key → r.claimed = false) →
        let freed (k : Nat) : Prop := ∃ r ∈ s.residents, r.key = key ∧ ∃ c ∈ rectCells r.lx r.ly r.width r.height,
          s.isHole c = false ∧ loftKey c r.start ≤ k ∧ k < loftKey c r.start + r.len
        let freedWord (k : Nat) : Prop := ∃ r ∈ s.residents, r.key = key ∧ ∃ c ∈ rectCells r.lx r.ly r.width r.height,
          s.isHole c = false ∧ k ∈ wordsOf c r.start r.len
        ∃ t : State, exec (.residentRelease p n) s = .next (t.mailAnswer s p n o (okWith [])) ∧
          t.residents = s.residents.filter (fun x => x.key != key) ∧
          (∀ k, freed k → t.loft.read k = 0) ∧ (∀ k, ¬ freed k → t.loft.read k = s.loft.read k) ∧
          (∀ k, freedWord k → Store.find? t.loftErr k = none) ∧
          (∀ k, ¬ freedWord k → Store.find? t.loftErr k = Store.find? s.loftErr k) ∧
          t = { m with residents := t.residents, loft := t.loft, loftErr := t.loftErr }))

/-- The settings of the ward (R180, R183, R266, R284, R300 to R309, R399, R402, R483, R509). -/
def Obligations.Settings : Prop :=
  Claims.SettingAreas ∧ Claims.Settings ∧ Claims.WindowDeletes ∧ Claims.MapWrites ∧ Claims.FaultAnswers ∧
  Claims.ResidentSettings

/-! ### Plans and plots (07, 13, 14) -/

/-- PLAN_LOAD (R380 to R383, R408, R410): with a plan loaded it answers PLAN; a request that R380 does not allow answers FIELD or
LENGTH; a block that cannot be read, or an image or a placement that fails a check, answers its status with the block and the
plot; a RESIDENT entry that can claim nothing answers RESIDENT. Else the plan is committed. -/
def Claims.PlanLoads : Prop :=
  ∀ (s : State) (p : PortNo) (n : SlotNo) (o : OpInfo), s.ComesToMail p n o → s.MailPasses p n o → o.code = 0x10 →
    let m := s.mailStarted p n
    let l := (s.port p).payload n
    let a := leAt l 0 8
    let k := leAt l 9 1
    let pl := placings l k
    let r (t : State) (x : Answer) : Prop := exec (.planLoad p n) s = .next (t.mailAnswer s p n o x)
    (s.plan ≠ none → r m (refuse 14 0)) ∧
    (s.plan = none → 2 ≤ leAt l 8 1 → r m (badField 8)) ∧
    (s.plan = none → leAt l 8 1 < 2 → 96 < k → r m (badField 9)) ∧
    (s.plan = none → leAt l 8 1 < 2 → k ≤ 96 → l.length ≠ 16 + 8 * k → r m (refuse 2 0)) ∧
    (s.plan = none → leAt l 8 1 < 2 → k ≤ 96 → l.length = 16 + 8 * k →
      (∀ i, placingStray l k = some i → r m (badField i)) ∧
      (placingStray l k = none → a % 4096 ≠ 0 ∨ 2 ^ 42 ≤ a → r m (badField 0)) ∧
      (placingStray l k = none → a % 4096 = 0 → a < 2 ^ 42 →
        (∀ u bs b, m.readBlocks a 0 65536 0 a = (u, bs, some b) → r u b.answer) ∧
        (∀ u bs, m.readBlocks a 0 65536 0 a = (u, bs, none) →
          let im := takeImage bs
          (∀ b, im.formatBad = some b → r u b.answer) ∧
          (∀ b, im.formatBad = none → u.loadBad im (leAt l 8 1 == 1) pl = some b → r u b.answer) ∧
          (im.formatBad = none → u.loadBad im (leAt l 8 1 == 1) pl = none →
            (∀ t bs' b, u.readBlocks a 0 65536 0 a = (t, bs', some b) → r t b.answer) ∧
            (∀ t bs', u.readBlocks a 0 65536 0 a = (t, bs', none) →
              (∀ rs, claimAll im pl im.claims t.residents = .inl rs → r (t.commit im a pl rs) (okWith [])) ∧
              (∀ q, claimAll im pl im.claims t.residents = .inr q →
                r t ⟨13, 0, leBytes 2 (im.blockOf 14) ++ leBytes 1 q⟩))))))

/-- PLAN_UNLOAD (R228, R281, R310, R366) and MAP_REBUILD (R430): an unload without a plan answers PLAN, and while a threshing step
holds a plot BUSY with its group; it stops the wains that run for the plan, and once their packets are complete the plan is
gone. A rebuild needs no plan and no resident range; it builds the map anew, trains the links and counts the epoch. -/
def Claims.PlanEnds : Prop :=
  ∀ (s : State) (p : PortNo) (n : SlotNo),
    (∀ o, s.ComesToMail p n o → s.MailPasses p n o → o.code = 0x11 →
      let m := s.mailStarted p n
      let u := m.stopWains m.planWains
      (s.plan = none → exec (.planUnload p n) s = .next (m.mailAnswer s p n o (refuse 14 0))) ∧
      (∀ g, s.plan ≠ none → m.plotIds.findSome? m.thrHolds = some g →
        exec (.planUnload p n) s = .next (m.mailAnswer s p n o (refuse 6 g))) ∧
      (s.plan ≠ none → m.plotIds.findSome? m.thrHolds = none → exec (.planUnload p n) s = .next (
        if u.wainsQuiet u.planWains then u.unload.mailAnswer s p n o (okWith [])
        else { u with running := some ⟨p, n, (s.port p).opword n, (s.port p).payload n, true, .abandon⟩ }))) ∧
    (∀ w l live, s.running = some ⟨p, n, w, l, live, .abandon⟩ → opcodeOf w = 0x11 → exec (.planUnload p n) s =
      .next (if s.wainsQuiet s.planWains then s.unload.finish (okWith []) else s)) ∧
    (∀ o, s.ComesToMail p n o → s.MailPasses p n o → o.code = 0x03 →
      let m := s.mailStarted p n
      let new := ({ m with failComp := [], failRtr := [], failLink := [] } : State).builtMap
      let own (t : NiTables) : NiTables := { t with self := none, coords := none }
      (s.plan ≠ none → exec (.mapRebuild p n) s = .next (m.mailAnswer s p n o (refuse 14 0))) ∧
      (s.plan = none → s.residents ≠ [] → exec (.mapRebuild p n) s = .next (m.mailAnswer s p n o (refuse 13 0))) ∧
      (s.plan = none → s.residents = [] → ∃ t : State,
        exec (.mapRebuild p n) s = .next (t.mailAnswer s p n o (okWith (leBytes 4 t.epoch.toNat))) ∧
        t = { (m.remap new).linksTrained with
          epoch := s.epoch + 1, flashMap := new, flashEpoch := s.epoch + 1, ni := own s.ni
          niCell := s.niCell.map fun e => (e.1, own e.2) } ∧ t.map = new))

/-- What an unload leaves (R182, R281, R310): no plan, no job and no page fault; every plot EMPTY; the resident ranges unclaimed;
the plan's wains at 127 with no chain; the cells of the plots as after reset; no threshing group. Memories keep their bytes. -/
def Claims.Unloaded : Prop :=
  ∀ s : State, let u := s.unload
    u.plan = none ∧ u.jobLoaded = false ∧ u.pageFaults = [] ∧
    u.residents = s.residents.map (fun r => { r with claimed := false, holder := 127 }) ∧
    (∀ q ∈ s.plotIds, (u.plot q).state = .empty ∧ (u.plot q).scan = none ∧ (u.plot q).snaps = [] ∧
      (u.plot q).contexts = [] ∧ (u.plot q).record = []) ∧
    (∀ k ∈ s.planWains, (u.wain k).owner = 127 ∧ (u.wain k).state = .idle ∧ (u.wain k).chains = [] ∧
      (u.wain k).dcount = (s.wain k).dcount ∧ (u.wain k).refused = (s.wain k).refused) ∧
    (∀ x, (u.mill x).thrGroups = []) ∧
    u.loft = s.loft ∧ u.granary = s.granary ∧ u.hostMem = s.hostMem ∧ u.map = s.map ∧ u.ranks = s.ranks ∧ u.routes = s.routes

/-- What a commit leaves (R23, R228, R337, R338, R346, R383): the plan with its image's address, blocks and rings and a load
number that is never given again; wafer, job tag and resident ranges of the image; its rank and route tables in every mill of
a field that is not dark; its threshing groups in their mills, whose engines rest. -/
def Claims.Committed : Prop :=
  ∀ (s : State) (im : PlanImage) (addr : Nat) (pl : Placing) (rs : List Resident),
    let u := s.commit im addr pl rs
    u.residents = rs ∧ u.wafer = im.wafer ∧ u.jobtag = im.jobtag ∧ u.jobLoaded = true ∧ u.nextLoad = s.nextLoad + 1 ∧
    u.plan = some ⟨addr, im.blocks.map fun b => ⟨b.kind, b.plot, b.config, b.addr, b.body.length, b.crc⟩, s.nextLoad, im.allRings⟩ ∧
    (∀ l, im.rank = some l → u.ranks = s.copies (2 ^ 21) (tableOf l)) ∧ (im.rank = none → u.ranks = s.ranks) ∧
    (∀ l, im.route = some l → u.routes = s.copies 4096 (tableOf l)) ∧ (im.route = none → u.routes = s.routes) ∧
    (∀ x : MillNo, (u.mill x).thrGroups = im.groupsOf x.toNat ∧ (u.mill x).thrState = .idle) ∧
    u.granary = s.granary ∧ u.hostMem = s.hostMem ∧ u.map = s.map ∧ u.epoch = s.epoch

/-- Plot commands without a plan answer PLAN, and of a plot above 95 FIELD (R12, R193, R408). -/
def Claims.PlotChecks : Prop :=
  ∀ (s : State) (p : PortNo) (n : SlotNo) (o : OpInfo) (i : Instr), s.ComesToMail p n o → s.MailPasses p n o →
    ((o.code = 0x12 ∧ i = .plotStart p n) ∨ (o.code = 0x14 ∧ i = .plotScanOut p n) ∨ (o.code = 0x15 ∧ i = .plotScanIn p n) ∨
      (o.code = 0x16 ∧ i = .plotMove p n) ∨ (o.code = 0x17 ∧ i = .plotReset p n) ∨
      (o.code = 0x13 ∧ leAt ((s.port p).payload n) 1 1 ≠ 1 ∧ i = .plotStopHalt p n) ∨
      (o.code = 0x13 ∧ leAt ((s.port p).payload n) 1 1 = 1 ∧ i = .plotStopDry p n)) →
    (s.plan = none → exec i s = .next ((s.mailStarted p n).mailAnswer s p n o (refuse 14 0))) ∧
    (s.plan ≠ none → 96 ≤ leAt ((s.port p).payload n) 0 1 →
      exec i s = .next ((s.mailStarted p n).mailAnswer s p n o (badField 0)))

/-- PLOT_START (R60, R184, R193, R214 to R218): a plot that is not LOADED, DONE or STOPPED answers STATE, a configuration that it
does not have FIELD; a scrub holds the command; blocks that no longer read as loaded answer their status. With the season it
has, the plot starts. A new season that is the one before, or that takes a queue from a plot that is not EMPTY, answers SEASON;
with DISCARD the queues that the plot feeds are emptied and it starts; without, its channels send markers, and once they are
answered, or WINDOW has passed, it starts if those queues are empty and answers SEASON if not. -/
def Claims.PlotStarts : Prop :=
  ∀ (s : State) (p : PortNo) (n : SlotNo),
    (∀ o, s.ComesToMail p n o → s.MailPasses p n o → o.code = 0x12 → s.plan ≠ none →
      leAt ((s.port p).payload n) 0 1 < 96 →
      let m := s.mailStarted p n
      let l := (s.port p).payload n
      let id := plotArg l
      let q := s.plot id
      let k := leAt l 1 1
      let can : Prop := q.state = .loaded ∨ q.state = .done ∨ q.state = .stopped
      let r (t : State) (x : Answer) : Prop := exec (.plotStart p n) s = .next (t.mailAnswer s p n o x)
      (2 ≤ leAt l 2 1 → r m (badField 2)) ∧ (leAt l 2 1 < 2 → ¬ can → r m (refuse 5 id.toNat)) ∧
      (leAt l 2 1 < 2 → can → q.configs ≤ k → r m (badField 1)) ∧
      (leAt l 2 1 < 2 → can → k < q.configs →
        ((∃ c ∈ q.cells, (s.cell c).scrubbing = true) → exec (.plotStart p n) s = .next s.acceptAll) ∧
        ((∀ c ∈ q.cells, (s.cell c).scrubbing = false) →
          (∀ u b, m.reread (configBlocks id.toNat k) = (u, .inl b) → r u (refuse b.status b.block)) ∧
          (∀ u im, m.reread (configBlocks id.toNat k) = (u, .inr im) →
            (im.config id.toNat k = none → r u (refuse 5 id.toNat)) ∧
            (∀ c, im.config id.toNat k = some c →
              (c.season = q.season → r (u.startConfig id im c) (okWith [])) ∧
              (c.season ≠ q.season → c.season = q.prev ∨ u.producerClash id c = true → r u (refuse 15 0)) ∧
              (c.season ≠ q.season → c.season ≠ q.prev → u.producerClash id c = false →
                (leAt l 2 1 = 1 → r ((u.discardIn id (u.fedQueues (u.chansOf id)).dedup).startConfig id im c) (okWith [])) ∧
                (leAt l 2 1 = 0 → exec (.plotStart p n) s = .next { (u.chansOf id).foldl State.sendMarker u with
                  running := some ⟨p, n, (s.port p).opword n, l, true, .drain id s.tick⟩ }))))))) ∧
    (∀ w l live id since, s.running = some ⟨p, n, w, l, live, .drain id since⟩ →
      let q := s.plot id
      let can : Prop := q.state = .loaded ∨ q.state = .done ∨ q.state = .stopped
      let ended : Prop := s.markersBack (s.chansOf id) = true ∨ since + bits q.dryCfg 15 0 * 100 ≤ s.tick
      let t := s.modChans (s.chansOf id) fun o => { o with markers := 0 }
      let k := leAt l 1 1
      (¬ can → exec (.plotStart p n) s = .next (s.finish (refuse 5 id.toNat))) ∧
      (can → ¬ ended → exec (.plotStart p n) s = .next s) ∧
      (can → ended → t.heldIn (t.fedQueues (s.chansOf id)) ≠ 0 → exec (.plotStart p n) s = .next (t.finish (refuse 15 0))) ∧
      (can → ended → t.heldIn (t.fedQueues (s.chansOf id)) = 0 →
        (∀ u b, t.reread (configBlocks id.toNat k) = (u, .inl b) →
          exec (.plotStart p n) s = .next (u.finish (refuse b.status b.block))) ∧
        (∀ u im, t.reread (configBlocks id.toNat k) = (u, .inr im) →
          (im.config id.toNat k = none → exec (.plotStart p n) s = .next (u.finish (refuse 5 id.toNat))) ∧
          (∀ c, im.config id.toNat k = some c →
            exec (.plotStart p n) s = .next ((u.startConfig id im c).finish (okWith []))))))

/-- PLOT_STOP in mode HALT (R193, R194): only a RUNNING plot stops. Its cells issue nothing further, and one that sleeps is
HALTED; once what they issued is complete they are HALTED with an empty hold and the plot is STOPPED; until then the command
waits. In mode DRY (R230): a RUNNING or FAULTED plot's cells run on, its queues fed from other plots keep their credits back,
its wains end at the end of their descriptors, and the command waits for DRY_END. -/
def Claims.PlotStops : Prop :=
  ∀ (s : State) (p : PortNo) (n : SlotNo),
    (∀ o, s.ComesToMail p n o → s.MailPasses p n o → o.code = 0x13 → s.plan ≠ none →
      leAt ((s.port p).payload n) 0 1 < 96 →
      let m := s.mailStarted p n
      let l := (s.port p).payload n
      let id := plotArg l
      let q := s.plot id
      (2 ≤ leAt l 1 1 → exec (.plotStopHalt p n) s = .next (m.mailAnswer s p n o (badField 1))) ∧
      (leAt l 1 1 = 0 → q.state ≠ .running → exec (.plotStopHalt p n) s = .next (m.mailAnswer s p n o (refuse 5 id.toNat))) ∧
      (leAt l 1 1 = 0 → q.state = .running →
        ((m.stopCells id).cellsIdle id = true → ∃ t : State,
          exec (.plotStopHalt p n) s = .next (t.mailAnswer s p n o (okWith [])) ∧ t.plot id = { q with state := .stopped } ∧
          (∀ d, d ≠ id → t.plot d = s.plot d) ∧
          (∀ c ∈ q.cells, t.cell c = match (s.cell c).run with
            | .running => { (s.cell c).freeze with run := .halted, held := [], wait := none, frozen := false }
            | .sleeping => { s.cell c with run := .halted, wait := none, frozen := false }
            | _ => { s.cell c with frozen := false }) ∧
          (∀ c, c ∉ q.cells → t.cell c = s.cell c) ∧
          (∀ f, t.hub f = { s.hub f with waiters := (s.hub f).waiters.filter fun w => !q.cells.contains w.cell }) ∧
          t = { m with cells := t.cells, hubs := t.hubs, plots := t.plots }) ∧
        ((m.stopCells id).cellsIdle id = false → exec (.plotStopHalt p n) s = .next { m.stopCells id with
          running := some ⟨p, n, (s.port p).opword n, l, true, .stop id⟩ })) ∧
      (leAt l 1 1 = 1 →
        (q.state ≠ .running → q.state ≠ .faulted →
          exec (.plotStopDry p n) s = .next (m.mailAnswer s p n o (refuse 5 id.toNat))) ∧
        (q.state = .running ∨ q.state = .faulted → ∃ t : State, exec (.plotStopDry p n) s = .next t ∧
          t.running = some ⟨p, n, (s.port p).opword n, l, true, .dry id⟩ ∧
          t.plot id = { q with dryStart := some s.tick, progress := s.tick } ∧ (∀ d, d ≠ id → t.plot d = s.plot d) ∧
          (∀ k, t.wain k = if k ∈ m.plotWains id then { s.wain k with dryReq := true } else s.wain k) ∧
          (∀ c ∈ q.cells, ∀ j, (t.cell c).queue j = if ((s.cell c).queue j).en = true ∧
              (∃ d, m.producer c j = some d ∧ (s.cell d.1).owner ≠ id) then { (s.cell c).queue j with dryHeld := true }
            else (s.cell c).queue j) ∧
          (∀ c ∈ q.cells, t.cell c = { s.cell c with
            queues := (t.cell c).queues
            frozen := (s.cell c).frozen && ((s.cell c).dead || (s.cell c).lockedOut) }) ∧
          (∀ c, c ∉ q.cells → t.cell c = s.cell c) ∧
          t = { m with cells := t.cells, wains := t.wains, plots := t.plots, running := t.running }))) ∧
    (∀ w l live id, s.running = some ⟨p, n, w, l, live, .stop id⟩ →
      let q := s.plot id
      (q.state = .running → exec (.plotStopHalt p n) s = .next (if s.cellsIdle id then
        ((s.modCells q.cells Cell.halts).setPlot id { q with state := .stopped }).finish (okWith []) else s)) ∧
      (q.state ≠ .running → exec (.plotStopHalt p n) s = .next (s.finish (refuse 5 id.toNat)))) ∧
    (∀ w l live id, s.running = some ⟨p, n, w, l, live, .dry id⟩ →
      let q := s.plot id
      (q.dryStart = none → exec (.dryEnd id) s = .next s) ∧
      (∀ b, q.dryStart = some b →
        let windowEnd := q.progress + bits q.dryCfg 15 0 * 100
        let maxEnd := b + bits q.dryCfg 31 16 * 100000
        let u := s.stopCells id
        let t := (u.modCells q.cells Cell.halts).setPlot id { q with state := .dry, dryStart := none }
        (s.tick < windowEnd → s.tick < maxEnd → exec (.dryEnd id) s = .next s) ∧
        (windowEnd ≤ s.tick ∨ maxEnd ≤ s.tick → u.cellsIdle id = false → exec (.dryEnd id) s = .next u) ∧
        (windowEnd ≤ s.tick ∨ maxEnd ≤ s.tick → u.cellsIdle id = true → exec (.dryEnd id) s =
          .next ((if maxEnd < windowEnd then t.plotEvent id 16 else t).finish (okWith []))))) ∧
    (∀ id, (∀ r, s.running = some r → r.what ≠ .dry id) → exec (.dryEnd id) s = .next s)

/-- PLOT_SCAN_OUT (R193, R223, R225, R226, R366, R451): refused for a bad target or copy field, in a state that no scan-out
captures, with a cell dead, locked out or a hole, while threshing holds the plot, without a scan area for LOFT, and for a
buffer that is not aligned or mapped for writing. Else the cells freeze, the wains stop at a packet boundary, and the plot's
channels and those that feed it send markers, the latter stopped; the command waits for SCAN_CAPTURE. -/
def Claims.ScanOuts : Prop :=
  ∀ (s : State) (p : PortNo) (n : SlotNo) (o : OpInfo), s.ComesToMail p n o → s.MailPasses p n o → o.code = 0x14 →
    s.plan ≠ none → leAt ((s.port p).payload n) 0 1 < 96 →
    let m := s.mailStarted p n
    let l := (s.port p).payload n
    let id := plotArg l
    let q := s.plot id
    let a := if leAt l 8 8 / 2 ^ 60 = 1 then leAt l 8 8 % 2 ^ 60 else leAt l 8 8
    let can : Prop := (q.state = .running ∨ q.state = .done ∨ q.state = .stopped ∨ q.state = .faulted) ∧
      ∀ c ∈ q.cells, (s.cell c).dead = false ∧ (s.cell c).lockedOut = false ∧ s.isHole c = false
    let r (x : Answer) : Prop := exec (.plotScanOut p n) s = .next (m.mailAnswer s p n o x)
    let target : Prop := if leAt l 1 1 = 0 then q.scanArea ≠ none
      else m.bufferOk a (bufferLen q.cells.length (leAt l 2 1 == 1)) true = true
    (2 ≤ leAt l 1 1 → r (badField 1)) ∧ (leAt l 1 1 < 2 → 2 ≤ leAt l 2 1 → r (badField 2)) ∧
    (leAt l 1 1 < 2 → leAt l 2 1 < 2 →
      (¬ can → r (refuse 5 id.toNat)) ∧ (∀ g, can → m.thrHolds id = some g → r (refuse 6 g)) ∧
      (can → m.thrHolds id = none →
        (¬ target → r (if leAt l 1 1 = 0 then refuse 5 id.toNat else badField 8)) ∧
        (target → exec (.plotScanOut p n) s = .next { m.scanBegins id with
          running := some ⟨p, n, (s.port p).opword n, l, true, .scan id⟩ })))

/-- SCAN_CAPTURE (R223, R225, R227, R458): a cell that the scan chain finds dead, or one lost meanwhile, ends the command with
STATE, the plot's channels staying stopped; before markers, cells and wains are settled nothing happens; then every cell is
captured, and the answer gives the bytes written. -/
def Claims.ScanCaptures : Prop :=
  ∀ (s : State) (id : PlotId),
    ((∀ r, s.running = some r → r.what ≠ .scan id) → ∀ x, exec (.scanCapture id x) s = .next s) ∧
    (∀ p n w l live, s.running = some ⟨p, n, w, l, live, .scan id⟩ →
      let q := s.plot id
      let cut (t : State) : State := (t.setPlot id { t.plot id with scanning := false, scanCut := true }).finish (refuse 5 id.toNat)
      (∀ c, exec (.scanCapture id (some c)) s = .next (
        if c ∈ q.cells ∧ (s.cell c).lockedOut = false then cut (s.cellDies c 2 false) else s)) ∧
      (s.lostCell id = true → exec (.scanCapture id none) s = .next (cut s)) ∧
      (s.lostCell id = false → exec (.scanCapture id none) s = .next (if s.scanReady id then
        (s.capturePlot id (scanTarget l)).finish (okWith (leBytes 8 (match scanTarget l with
          | .loft => q.cells.length * 65536
          | .granary _ copy => bufferLen q.cells.length copy))) else s)) ∧
      (∀ t, let u := s.capturePlot id t
        (u.plot id).state = .scanned ∧ (u.plot id).captured = q.state ∧ (u.plot id).scan = some t ∧
        (u.plot id).scanning = false ∧ (u.plot id).snaps.length = q.cells.length ∧
        (u.plot id).contexts = (s.plotWains id).map s.wain ∧
        (t = .loft → (u.plot id).snaps.map (fun x => x.cell) = q.cells.map s.cell) ∧ u.plan = s.plan))

/-- PLOT_SCAN_IN (R193, R225, R228, R308): a plot that is not SCANNED answers STATE; a granary scan names a buffer, and a bad one
answers FIELD; ground that the plot may not stand on answers PLACE; images that cannot be read or fail a check, more contexts
than wains, or lofts that cannot be read answer SCAN; else the plot is restored. -/
def Claims.ScanIns : Prop :=
  ∀ (s : State) (p : PortNo) (n : SlotNo) (o : OpInfo), s.ComesToMail p n o → s.MailPasses p n o → o.code = 0x15 →
    s.plan ≠ none → leAt ((s.port p).payload n) 0 1 < 96 →
    let m := s.mailStarted p n
    let l := (s.port p).payload n
    let id := plotArg l
    let q := s.plot id
    let k := q.coords.length
    let a := if leAt l 8 8 / 2 ^ 60 = 1 then leAt l 8 8 % 2 ^ 60 else leAt l 8 8
    let r (t : State) (x : Answer) : Prop := exec (.plotScanIn p n) s = .next (t.mailAnswer s p n o x)
    let area := (q.scanArea.map BitVec.toNat).getD 0
    let fits (bodies : List (List Byte)) : Prop := (q.scanned bodies).length ≤ q.ground.wains.length
    (q.state ≠ .scanned ∨ q.scan = none → r m (refuse 5 id.toNat)) ∧
    (q.state = .scanned → q.scan = some .loft →
      (m.mayStand id q.lx.toNat q.ly.toNat = false → r m (refuse 12 id.toNat)) ∧
      (m.mayStand id q.lx.toNat q.ly.toNat = true →
        (∀ u, m.readImages id .loft area q.coords.zipIdx = (u, none) → r u (refuse 16 0)) ∧
        (∀ u bodies, m.readImages id .loft area q.coords.zipIdx = (u, some bodies) →
          (¬ fits bodies → r u (refuse 16 0)) ∧ (fits bodies → r (u.scanInCommit id .loft bodies none) (okWith []))))) ∧
    (∀ a₀ copy, q.state = .scanned → q.scan = some (.granary a₀ copy) →
      let t : ScanTarget := .granary (BitVec.ofNat 42 a) copy
      (m.bufferOk a (bufferLen k copy) false = false → r m (badField 8)) ∧
      (m.bufferOk a (bufferLen k copy) false = true → m.mayStand id q.lx.toNat q.ly.toNat = false → r m (refuse 12 id.toNat)) ∧
      (m.bufferOk a (bufferLen k copy) false = true → m.mayStand id q.lx.toNat q.ly.toNat = true →
        (∀ u, m.readImages id t area q.coords.zipIdx = (u, none) → r u (refuse 16 0)) ∧
        (∀ u bodies, m.readImages id t area q.coords.zipIdx = (u, some bodies) →
          (¬ fits bodies → r u (refuse 16 0)) ∧
          (fits bodies → copy = false → r (u.scanInCommit id t bodies none) (okWith [])) ∧
          (fits bodies → copy = true →
            (∀ v, u.readLofts (a % 2 ^ 42) k (List.range k) = (v, none) → r v (refuse 16 0)) ∧
            (∀ v lofts, u.readLofts (a % 2 ^ 42) k (List.range k) = (v, some lofts) →
              r (v.scanInCommit id t bodies (some lofts)) (okWith []))))))

/-- PLOT_MOVE (R182, R225, R388 to R390): refused in the states R388 names, with a claimed window, while threshing holds the plot,
and with wains or job-owned gates at work; blocks that no longer read as loaded answer their status, and a place where it does
not fit PLACE. A plot released to the granary only changes its place; else the channels that feed it stop and send
markers, and once these are answered it moves, and the command waits for the scrubs of its new cells. -/
def Claims.PlotMoves : Prop :=
  ∀ (s : State) (p : PortNo) (n : SlotNo),
    let after (t : State) (id : PlotId) (lx ly : Nat) (w : Word) (l : List Byte) (live : Bool) (x : State → Answer → State) : Prop :=
      (∀ u b, t.reread (moveBlocks id.toNat) = (u, .inl b) → exec (.plotMove p n) s =
        .next (x (u.resumeChans (u.feedersOf id)) (refuse b.status b.block))) ∧
      (∀ u im, t.reread (moveBlocks id.toNat) = (u, .inr im) → exec (.plotMove p n) s = .next (if u.moveFits id im lx ly
        then { u.movePlot id im lx ly with running := some ⟨p, n, w, l, live, .moved id⟩ }
        else x (u.resumeChans (u.feedersOf id)) (refuse 12 id.toNat)))
    (∀ o, s.ComesToMail p n o → s.MailPasses p n o → o.code = 0x16 → s.plan ≠ none →
      leAt ((s.port p).payload n) 0 1 < 96 →
      let m := s.mailStarted p n
      let l := (s.port p).payload n
      let id := plotArg l
      let q := s.plot id
      let lx := leAt l 2 2
      let ly := leAt l 4 2
      let away : Prop := q.state = .scanned ∧ q.holds = false
      let busy : Prop := (∃ k ∈ m.plotWains id, (s.wain k).state ≠ .idle) ∨
        ∃ g ∈ m.jobGates q, (s.gate g).state = .up ∨ (s.gate g).arr ≠ 0
      let claim : Prop := ∃ x ∈ s.residents, x.claimed = true ∧ x.holder = id
      let can : Prop := q.state ≠ .empty ∧ q.state ≠ .running ∧ (q.state = .scanned → q.holds = false)
      let r (t : State) (x : Answer) : Prop := exec (.plotMove p n) s = .next (t.mailAnswer s p n o x)
      (¬ can → r m (refuse 5 id.toNat)) ∧ (can → claim → r m (refuse 13 0)) ∧
      (∀ g, can → ¬ claim → m.thrHolds id = some g → r m (refuse 6 g)) ∧
      (can → ¬ claim → m.thrHolds id = none → ¬ away → busy → r m (refuse 5 id.toNat)) ∧
      (can → ¬ claim → m.thrHolds id = none → away ∨ ¬ busy →
        (∀ u b, m.reread (moveBlocks id.toNat) = (u, .inl b) → r u (refuse b.status b.block)) ∧
        (∀ u im, m.reread (moveBlocks id.toNat) = (u, .inr im) →
          (u.moveFits id im lx ly = false → r u (refuse 12 id.toNat)) ∧
          (u.moveFits id im lx ly = true → q.state = .scanned → r (u.setPlot id { u.plot id with
            lx := BitVec.ofNat 10 lx, ly := BitVec.ofNat 9 ly }) (okWith [])) ∧
          (u.moveFits id im lx ly = true → q.state ≠ .scanned →
            let v := u.stopChans (u.feedersOf id)
            (v.markersBack (v.feedersOf id) = false → exec (.plotMove p n) s = .next { v with
              running := some ⟨p, n, (s.port p).opword n, l, true, .move id⟩ }) ∧
            (v.markersBack (v.feedersOf id) = true →
              after v id lx ly ((s.port p).opword n) l true fun t x => t.mailAnswer s p n o x))))) ∧
    (∀ w l live id, s.running = some ⟨p, n, w, l, live, .move id⟩ →
      (s.markersBack (s.feedersOf id) = false → exec (.plotMove p n) s = .next s) ∧
      (s.markersBack (s.feedersOf id) = true → after s id (leAt l 2 2) (leAt l 4 2) w l live State.finish)) ∧
    (∀ w l live id, s.running = some ⟨p, n, w, l, live, .moved id⟩ → exec (.plotMove p n) s = .next (
      if (s.plot id).cells.any fun c => (s.cell c).scrubbing then s else s.finish (okWith [])))

/-- PLOT_RESET (R193, R224, R310, R366): an EMPTY plot answers STATE, one that threshing holds BUSY, and one without its ground
that may not stand there PLACE; its wains stop, and once their packets are complete it is reset. -/
def Claims.PlotResets : Prop :=
  ∀ (s : State) (p : PortNo) (n : SlotNo),
    (∀ o, s.ComesToMail p n o → s.MailPasses p n o → o.code = 0x17 → s.plan ≠ none →
      leAt ((s.port p).payload n) 0 1 < 96 →
      let m := s.mailStarted p n
      let l := (s.port p).payload n
      let id := plotArg l
      let q := s.plot id
      let stands : Prop := q.holds = true ∨ m.mayStand id q.lx.toNat q.ly.toNat = true
      let r (t : State) (x : Answer) : Prop := exec (.plotReset p n) s = .next (t.mailAnswer s p n o x)
      (q.state = .empty → r m (refuse 5 id.toNat)) ∧
      (∀ g, q.state ≠ .empty → m.thrHolds id = some g → r m (refuse 6 g)) ∧
      (q.state ≠ .empty → m.thrHolds id = none → ¬ stands → r m (refuse 12 id.toNat)) ∧
      (q.state ≠ .empty → m.thrHolds id = none → stands →
        (∀ u b, m.reread (placeBlocks id.toNat) = (u, .inl b) → r u (refuse b.status b.block)) ∧
        (∀ u im, m.reread (placeBlocks id.toNat) = (u, .inr im) →
          let v := u.stopWains (u.plotWains id)
          (v.wainsQuiet (v.plotWains id) = true → ∀ t a, v.resetPlot id = (t, a) → r t a) ∧
          (v.wainsQuiet (v.plotWains id) = false → exec (.plotReset p n) s = .next { v with
            running := some ⟨p, n, (s.port p).opword n, l, true, .abandon⟩ })))) ∧
    (∀ w l live, s.running = some ⟨p, n, w, l, live, .abandon⟩ → opcodeOf w = 0x17 →
      (s.wainsQuiet (s.plotWains (plotArg l)) = false → exec (.plotReset p n) s = .next s) ∧
      (s.wainsQuiet (s.plotWains (plotArg l)) = true → ∀ t a, s.resetPlot (plotArg l) = (t, a) →
        exec (.plotReset p n) s = .next (t.finish a)))

/-- What starts, scans, moves and resets leave of a plot (R60, R194, R211, R217, R224, R228, R232, R390): cells that start are
RUNNING from address 0 with an empty hold; a plot that starts is RUNNING in its configuration and season; a restored one is in
the state that the scan-out captured; a reset one is LOADED with its class P registers at their reset values; a moved one
is LOADED at its new place. -/
def Claims.PlotState : Prop :=
  ∀ (s : State) (p : PlotId),
    ((s.startCells p).plot p = { s.plot p with state := .running, progress := s.tick, unheld := s.tick } ∧
      (∀ c ∈ (s.plot p).cells, (s.startCells p).cell c = { s.cell c with
        pc := 0, held := [], wait := none, run := .running, frozen := false, reported := false, doubleTrap := false, missed := 0 }) ∧
      (∀ c, c ∉ (s.plot p).cells → (s.startCells p).cell c = s.cell c) ∧ (∀ d, d ≠ p → (s.startCells p).plot d = s.plot d) ∧
      s.startCells p = { s with cells := (s.startCells p).cells, plots := (s.startCells p).plots }) ∧
    (∀ im c, let x := (s.startConfig p im c).plot p
      x.state = .running ∧ x.config = BitVec.ofNat 4 c.config ∧ x.season = c.season ∧
      x.prev = (if c.season = (s.plot p).season then (s.plot p).prev else (s.plot p).season) ∧
      x.lx = (s.plot p).lx ∧ x.ly = (s.plot p).ly) ∧
    (∀ t bodies lofts, let x := (s.scanInCommit p t bodies lofts).plot p
      x.scan = none ∧ x.snaps = [] ∧ x.contexts = [] ∧ x.scanCut = false) ∧
    (∀ t bodies lofts, (∀ x ∈ (s.plot p).scanned bodies, x.faultSeq = none) →
      ((s.scanInCommit p t bodies lofts).plot p).state = (s.plot p).captured) ∧
    (∀ t im u, s.reread (placeBlocks p.toNat) = (u, .inr im) →
      ((s.plot p).holds = true ∨ s.mayStand p (s.plot p).lx.toNat (s.plot p).ly.toNat = true) →
      s.resetPlot p = (t, okWith []) → let x := t.plot p
        x.state = .loaded ∧ x.config = 0 ∧ x.events = 0 ∧ x.wdog = 0x800003E8 ∧ x.dryCfg = 0x000A0064 ∧ x.faultReg = 0 ∧
        x.stale = 0 ∧ x.stallAt = 0 ∧ x.fenceDrop = 0 ∧ x.scan = none ∧ x.lx = (s.plot p).lx ∧ x.ly = (s.plot p).ly) ∧
    (∀ im lx ly, let x := (s.movePlot p im lx ly).plot p
      x.state = .loaded ∧ x.lx = BitVec.ofNat 10 lx ∧ x.ly = BitVec.ofNat 9 ly ∧ x.faultReg = 0)

/-- Loading and unloading a plan, and rebuilding the map (R228, R281, R310, R380 to R383, R430). -/
def Obligations.Plans : Prop := Claims.PlanLoads ∧ Claims.PlanEnds ∧ Claims.Unloaded ∧ Claims.Committed

/-- The commands that start and stop a plot, and what they leave of it (R60, R184, R193, R194, R214 to R218, R230). -/
def Obligations.Plots : Prop := Claims.PlotChecks ∧ Claims.PlotStarts ∧ Claims.PlotStops ∧ Claims.PlotState

/-- The commands that scan, restore, move and reset a plot (R193, R223 to R228, R308, R388 to R390). -/
def Obligations.PlotScans : Prop :=
  Claims.ScanOuts ∧ Claims.ScanCaptures ∧ Claims.ScanIns ∧ Claims.PlotMoves ∧ Claims.PlotResets

/-! ### Fences and rejoins (R420, R452 to R455) -/

/-- FENCE (R445, R452, R453): a bad kind or unit answers FIELD; one that is out already, a blocked hole, or a link whose ends do
not both serve answers STATE. Else the unit is locked out, and a fault of class 7 names the kind, whether a hole was made, and
the plots struck: those of the cell, or of a link's end cells that are no holes; none for a mill. -/
def Claims.Fences : Prop :=
  ∀ (s : State) (p : PortNo) (n : SlotNo) (o : OpInfo), s.ComesToMail p n o → s.MailPasses p n o → o.code = 0x60 →
    let m := s.mailStarted p n
    let l := (s.port p).payload n
    let w := leAt l 4 4
    let c : CellId := BitVec.ofNat 19 (w % 2 ^ 19)
    let d := w / 2 ^ 19
    let x : MillNo := BitVec.ofNat 5 w
    let r (t : State) (a : Answer) : Prop := exec (.fence p n) s = .next (t.mailAnswer s p n o a)
    let struck (q : Plot) (c : CellId) : Bool := q.covers c && !s.isHole c
    let named (t : Plot → Bool) : List PlotId := (s.plots.filter fun e => e.2.state != .empty && t e.2).map fun e =>
      BitVec.ofNat 7 e.1
    (3 ≤ leAt l 0 1 → r m (badField 0)) ∧
    (leAt l 0 1 = 0 →
      (2 ^ 19 ≤ w ∨ cellIdOk c = false → r m (badField 4)) ∧
      (w < 2 ^ 19 → cellIdOk c = true →
        ((s.cell c).lockedOut = true ∨ s.isBlocked c = true → r m (refuse 5 0xFFFF)) ∧
        ((s.cell c).lockedOut = false → s.isBlocked c = false → ∀ t made, m.lockUnit (.cell c) = (t, made) →
          r (t.fault 7 w [0] (if made then 2 else 0) (named fun q => struck q c)) (okWith [])))) ∧
    (leAt l 0 1 = 1 →
      (2 ^ 21 ≤ w ∨ cellIdOk c = false ∨ neighbour c d = none → r m (badField 4)) ∧
      (∀ e, w < 2 ^ 21 → cellIdOk c = true → neighbour c d = some e →
        (linkName c d ∈ s.linksOut ∨ s.routerOk c = false ∨ s.routerOk e = false → r m (refuse 5 0xFFFF)) ∧
        (linkName c d ∉ s.linksOut → s.routerOk c = true → s.routerOk e = true →
          r (((m.lockLink c d).fault 7 w [1] 0 (named fun q => struck q c || struck q e))) (okWith [])))) ∧
    (leAt l 0 1 = 2 →
      (32 ≤ w → r m (badField 4)) ∧ (w < 32 → x ∈ s.millsOut → r m (refuse 5 0xFFFF)) ∧
      (w < 32 → x ∉ s.millsOut →
        r ((({ m with millsOut := s.millsOut ++ [x] } : State).millDisable x 5).fault 7 w [2] 0 []) (okWith [])))

/-- REJOIN (R408, R455): a bad kind or unit answers FIELD; a unit that is not out, a cell with a dead router or in a blocked hole,
or a link whose ends do not both serve answers STATE with the unit's low bits. Else a cell is taken back, a mill enabled, and a
link enters INIT while the command waits for it; after a second it is locked out again and the answer is STATE. -/
def Claims.Rejoins : Prop :=
  ∀ (s : State),
    (∀ p n o, s.ComesToMail p n o → s.MailPasses p n o → o.code = 0x61 →
      let m := s.mailStarted p n
      let l := (s.port p).payload n
      let w := leAt l 4 4
      let c : CellId := BitVec.ofNat 19 (w % 2 ^ 19)
      let d := w / 2 ^ 19
      let x : MillNo := BitVec.ofNat 5 w
      let r (t : State) (a : Answer) : Prop := exec (.rejoin p n) s = .next (t.mailAnswer s p n o a)
      let no := refuse 5 (w % 2 ^ 16)
      (3 ≤ leAt l 0 1 → r m (badField 0)) ∧
      (leAt l 0 1 = 0 →
        (2 ^ 19 ≤ w ∨ cellIdOk c = false → r m (badField 4)) ∧
        (w < 2 ^ 19 → cellIdOk c = true →
          ((s.cell c).lockedOut = false ∨ (s.cell c).routerDead = true ∨ s.isBlocked c = true → r m no) ∧
          ((s.cell c).lockedOut = true → (s.cell c).routerDead = false → s.isBlocked c = false →
            r (m.setCell c { s.cell c with lockedOut := false }) (okWith [])))) ∧
      (leAt l 0 1 = 1 →
        (2 ^ 21 ≤ w ∨ cellIdOk c = false ∨ neighbour c d = none → r m (badField 4)) ∧
        (∀ e, w < 2 ^ 21 → cellIdOk c = true → neighbour c d = some e →
          (linkName c d ∉ s.linksOut ∨ s.routerOk c = false ∨ s.routerOk e = false → r m no) ∧
          (linkName c d ∈ s.linksOut → s.routerOk c = true → s.routerOk e = true → ∃ t : State,
            exec (.rejoin p n) s = .next { t with
              running := some ⟨p, n, (s.port p).opword n, l, true, .rejoin c (BitVec.ofNat 2 d) s.tick⟩ } ∧
            t.linksOut = s.linksOut.filter (· != linkName c d) ∧ t.linkIn c d = .init ∧ t.linkIn e (facing d) = .init ∧
            (∀ a b, (a, b) ≠ (c, d) → (a, b) ≠ (e, facing d) → b < 4 → t.linkIn a b = s.linkIn a b) ∧
            t = { m with linksOut := t.linksOut, links := t.links }))) ∧
      (leAt l 0 1 = 2 →
        (32 ≤ w → r m (badField 4)) ∧ (w < 32 → x ∉ s.millsOut → r m no) ∧
        (w < 32 → x ∈ s.millsOut →
          r (({ m with millsOut := s.millsOut.filter (· != x) } : State).millEnable x) (okWith [])))) ∧
    (∀ p n w l live c d b, s.running = some ⟨p, n, w, l, live, .rejoin c d b⟩ →
      exec (.rejoinLinkTimeout c d) s = .next (if b + 100000000 ≤ s.tick
        then (s.lockLink c d.toNat).finish (refuse 5 (leAt l 4 4 % 2 ^ 16)) else s)) ∧
    (∀ c d, (∀ r b, s.running = some r → r.what ≠ .rejoin c d b) → exec (.rejoinLinkTimeout c d) s = .next s)

/-- What a lock-out leaves (R429, R431, R453): a cell that was no hole becomes one, marked in service, with its defect in the
ledger, or counted as lost where the ledger is full; resident ranges that hold it are damaged; its waiters go. A hole with an
entry in the ledger gets none again. A link goes DOWN in both directions. -/
def Claims.LockOuts : Prop :=
  ∀ s : State,
    (∀ c : CellId,
      let u := s.setCell c { s.cell c with lockedOut := true }
      let e := u.cellEntry c
      let known : Prop := ∃ x ∈ s.ledger, x.field.toNat = e.field.toNat ∧ x.row.toNat = e.row.toNat ∧ x.col.toNat = e.col.toNat
      e = ⟨BitVec.ofNat 8 (fieldOf c).toNat, BitVec.ofNat 8 (rowIn c), BitVec.ofNat 8 (s.physCol c), 1, true,
        (s.cell c).routerDead || s.isBlocked c, false, s.epoch⟩ ∧
      (s.isHole c = false → s.lockUnit (.cell c) = (((u.ledgerAdd e).makeHole c).unregister (· == c), true)) ∧
      (s.isHole c = true → known → s.lockUnit (.cell c) = (u.unregister (· == c), false)) ∧
      (s.isHole c = true → ¬ known → s.lockUnit (.cell c) = ((u.ledgerAdd e).unregister (· == c), false))) ∧
    (∀ e : LedgerEntry,
      (s.ledger.length < 4096 → s.ledgerAdd e = { s with ledger := s.ledger ++ [e] }) ∧
      (4096 ≤ s.ledger.length → s.ledgerAdd e =
        { s with ledgerLost := BitVec.ofNat 32 (min (s.ledgerLost.toNat + 1) 65535) })) ∧
    (∀ c : CellId, cellIdOk c = true → let t := s.makeHole c
      t.isHole c = true ∧ t.isBlocked c = (s.isBlocked c || (s.cell c).routerDead) ∧
      (∀ x : CellId, cellIdOk x = true → x ≠ c → t.isHole x = s.isHole x ∧ t.isBlocked x = s.isBlocked x) ∧
      t.residents = s.residents.map (fun r =>
        if c ∈ rectCells r.lx r.ly r.width r.height then { r with damaged := true } else r) ∧
      t = { s with map := t.map, residents := t.residents }) ∧
    (∀ (c : CellId) (d : BitVec 2) (n : CellId), neighbour c d.toNat = some n → let t := s.lockLink c d.toNat
      t.linksOut = s.linksOut ++ [linkName c d.toNat] ∧ t.linkIn c d.toNat = .down ∧ t.linkIn n (facing d.toNat) = .down ∧
      t = { s with linksOut := t.linksOut, links := t.links })

/-- FENCE_NOTICE (R420, R452, R453): one of another sender than the ward is dropped and counted in the unit's field; one of a unit
that carries nothing to lock out does nothing; else the unit is locked out. -/
def Claims.FenceNotices : Prop :=
  ∀ (s : State) (src : Endpoint) (u : FenceUnit),
    (wardSrc src = true ↔ ∃ f tap, src = .hub f 20 tap ∧ (f = 0 ∨ f = 8)) ∧
    (wardSrc src = false → exec (.fenceNotice src u) s = .next (s.setHub (unitField u) { s.hub (unitField u) with
      dropcnt := satAdd (s.hub (unitField u)).dropcnt 1 })) ∧
    (wardSrc src = true → s.fenceRefused u = true → exec (.fenceNotice src u) s = .next s) ∧
    (∀ c, u = .cell c → wardSrc src = true → s.fenceRefused u = false →
      exec (.fenceNotice src u) s = .next (s.setCell c { s.cell c with lockedOut := true })) ∧
    (∀ c d, u = .link c d → wardSrc src = true → s.fenceRefused u = false →
      exec (.fenceNotice src u) s = .next (s.lockLink c d.toNat)) ∧
    (∀ m, u = .mill m → wardSrc src = true → s.fenceRefused u = false →
      exec (.fenceNotice src u) s = .next (({ s with millsOut := s.millsOut ++ [m] } : State).millDisable m 5)) ∧
    (∀ c, s.fenceRefused (.cell c) = ((s.cell c).lockedOut || s.isBlocked c)) ∧
    (∀ c d e, neighbour c d.toNat = some e →
      s.fenceRefused (.link c d) = (s.linksOut.contains (linkName c d.toNat) || !(s.routerOk c && s.routerOk e))) ∧
    (∀ m, s.fenceRefused (.mill m) = s.millsOut.contains m)

/-! ### Broadcasts and CONTROL packets (R420, R436) -/

/-- How a CONTROL packet is taken (R243, R420): one that still travels is waited for; in a dark field it is gone; from any other
sender than the ward's hinge unit it is dropped and counted in the field; from the ward it acts. -/
def Claims.controlled (s : State) (src : Endpoint) (f : FieldNo) (k : Nat) (off : Word) (l : List Byte) (act : State → State)
    (x : Host.Outcome State Fault Refusal) : Prop :=
  let t (p : Packet) : Bool := sameUnit p.src src && p.body == .control (BitVec.ofNat 8 k) off l
  let u := s.arrived t
  (s.notYet t = true → x = .next s) ∧
  (s.notYet t = false → f.toNat < 48 ∧ (s.hub f).dark = false →
    ((∃ g tap, src = .hub g 20 tap ∧ (g = 0 ∨ g = 8)) → x = .next (act u)) ∧
    ((∀ g tap, src = .hub g 20 tap → g ≠ 0 ∧ g ≠ 8) →
      x = .next (u.setHub f { s.hub f with dropcnt := satAdd (s.hub f).dropcnt 1 }))) ∧
  (s.notYet t = false → 48 ≤ f.toNat ∨ (s.hub f).dark = true → x = .next u)

/-- CONTROL packets and row broadcasts (R37, R247, R338, R420, R436): PMEM writes its words up to the end of program memory,
VECDEF the vector table defaults, NITAB the tables, in every cell that the broadcast reaches, whose field leaves GATED;
TABLE_WRITE writes the tables of one cell; SCRUB scrubs every cell reached. -/
def Claims.Broadcasts : Prop :=
  ∀ (s : State) (src : Endpoint) (f : FieldNo) (rect : Option Rect),
    let awake (t : State) : State := t.setHub f { t.hub f with roused := some t.tick }
    (∀ a ws, Claims.controlled s src f 0x10 (BitVec.ofNat 32 a.toNat) (ws.flatMap fun w => leBytes 2 w.toNat)
      (fun t => (t.reached f rect).foldl (fun u c => u.putWords c a.toNat (ws.take (8192 - a.toNat))) (awake t))
      (exec (.pmem src f rect a ws) s)) ∧
    Claims.controlled s src f 0x11 0 []
      (fun t => (t.reached f rect).foldl (fun u c => u.putWords c 0 ((List.range 16).map fun k =>
        if k = 0 then 0x3240 else BitVec.ofNat 14 (0x0160 + k))) (awake t))
      (exec (.vecdef src f rect) s) ∧
    (∀ off l, Claims.controlled s src f 0x12 off l
      (fun t => (t.reached f rect).foldl (fun u c => u.writeTables off l c) (awake t))
      (exec (.nitab src f rect off l) s)) ∧
    (∀ c off l, Claims.controlled s src (fieldOf c) 0x01 off l
      (fun t => if cellIdOk c = true ∧ t.isHole c = false then t.writeTables off l c else t)
      (exec (.tableWrite src c off l) s)) ∧
    Claims.controlled s src f 0x13 0 [] (fun t => t.scrubCells (t.reached f rect).contains (t.reached f rect))
      (exec (.scrub src f rect) s)

/-- The cells that a broadcast of a hub reaches (R18, R258, R260, R436): in each column, outward from the seam while routers serve
and links are UP, those that are no holes and lie in the rectangle. -/
def Claims.Reached : Prop :=
  ∀ (s : State) (f : FieldNo) (rect : Option Rect) (c : CellId), f.toNat < 48 → cellIdOk c = true →
    (c ∈ s.reached f rect ↔ fieldOf c = f ∧ s.isHole c = false ∧
      (∀ r, rect = some r → r.lxLo.toNat ≤ lxOf c ∧ lxOf c ≤ r.lxHi.toNat ∧ r.lyLo.toNat ≤ lyOf c ∧ lyOf c ≤ r.lyHi.toNat) ∧
      let seam := 64 * fyOf f + 31
      if lyOf c ≤ seam then (∀ y, lyOf c ≤ y → y ≤ seam → s.routerOk (mkCell (lxOf c) y) = true ∧
          (lyOf c < y → s.linkState (mkCell (lxOf c) y) 0 = .up))
      else (∀ y, seam < y → y ≤ lyOf c → s.routerOk (mkCell (lxOf c) y) = true ∧
          (y < lyOf c → s.linkState (mkCell (lxOf c) y) 1 = .up)))

/-- A word written to a cell's program memory, a scrub and its end (R33, R184): the word is read back with its parity, and other
words stay; a scrubbed cell holds zeros outside resident windows, with no error, an empty scoreboard and empty rings, until
SCRUB_COMPLETE ends its scrub. -/
def Claims.BroadcastEffects : Prop :=
  ∀ (s : State),
    (∀ (c : CellId) (a : Nat) (w : Word14), a < 8192 → ∃ t : State, t = s.putWord c a w ∧
      (Store.find? t.pmem (c.toNat * 8192 + a)).getD (Store.get 0 s.pmemAll a) = withParity w ∧
      (∀ k, k ≠ c.toNat * 8192 + a → Store.find? t.pmem k = Store.find? s.pmem k) ∧ t = { s with pmem := t.pmem }) ∧
    (∀ l : List CellId,
      let t := s.scrubCells l.contains l
      let kept (c : CellId) (a : Nat) : Prop := c ∉ l ∨ ∃ r ∈ s.residents, r.lx ≤ lxOf c ∧ lxOf c < r.lx + r.width ∧
        r.ly ≤ lyOf c ∧ lyOf c < r.ly + r.height ∧ r.start ≤ a ∧ a < r.start + r.len
      (∀ c a, a < 2 ^ 21 → kept c a → t.loft.read (loftKey c a) = s.loft.read (loftKey c a)) ∧
      (∀ c a, a < 2 ^ 21 → ¬ kept c a → t.loft.read (loftKey c a) = 0) ∧
      (∀ c a, a < 2 ^ 21 → a % 16 = 0 → ¬ kept c a → Store.get 0 t.loftErr (wordKey c a) = 0) ∧
      (∀ c a, a < 2 ^ 21 → a % 16 = 0 → kept c a → Store.get 0 t.loftErr (wordKey c a) = Store.get 0 s.loftErr (wordKey c a)) ∧
      (∀ c ∈ l, t.cell c = { s.cell c with board := [], queues := (t.cell c).queues, scrubbing := true } ∧
        ∀ q, (t.cell c).queue q = { (s.cell c).queue q with ringHead := 0, ringLen := 0 }) ∧
      (∀ c, c ∉ l → t.cell c = s.cell c) ∧
      t = { s with cells := t.cells, loft := t.loft, loftErr := t.loftErr, scrubs := t.scrubs }) ∧
    (∀ c, (s.cell c).scrubbing = true →
      exec (.scrubComplete c) s = .next (s.setCell c { s.cell c with scrubbing := false })) ∧
    (∀ c, (s.cell c).scrubbing = false → exec (.scrubComplete c) s = .next s)

/-! ### Resets and the dormant state (R437 to R443) -/

/-- WARM_RESET and COMPUTE_RESET (R310, R366, R423, R437, R439): a warm reset starts, or is held before stage 9, and its command
waits for READY; a compute reset abandons the steps of the mills, stops every wain, and takes place once their packets are
complete. -/
def Claims.ResetCommands : Prop :=
  ∀ (s : State) (p : PortNo) (n : SlotNo),
    (∀ o, s.ComesToMail p n o → s.MailPasses p n o → o.code = 0x7E →
      let m := s.mailStarted p n
      let wait (t : State) : State :=
        { t with running := some ⟨p, n, (s.port p).opword n, (s.port p).payload n, true, .warm⟩ }
      (s.boot.done = 9 ∨ s.power.stopped = true → exec (.warmReset p n) s = .next (wait (m.warmBegin 3))) ∧
      (s.boot.done ≠ 9 → s.power.stopped = false →
        exec (.warmReset p n) s = .next (wait { m with boot := { s.boot with held := some 3 } }))) ∧
    (∀ o, s.ComesToMail p n o → s.MailPasses p n o → o.code = 0x7F →
      let u := (List.range 32).foldl (fun (v : State) i => v.thrAbandon (BitVec.ofNat 5 i)) (s.mailStarted p n)
      let t := u.stopWains u.wainKeys
      exec (.computeReset p n) s = .next (if t.wainsQuiet t.wainKeys then t.computeReset.mailAnswer s p n o (okWith [])
        else { t with running := some ⟨p, n, (s.port p).opword n, (s.port p).payload n, true, .abandon⟩ })) ∧
    (∀ w l live, s.running = some ⟨p, n, w, l, live, .abandon⟩ → opcodeOf w = 0x7F → exec (.computeReset p n) s =
      .next (if s.wainsQuiet s.wainKeys then s.computeReset.finish (okWith []) else s))

/-- What the cells keep over a reset: that they are locked out, dead or without a router (R454). -/
def Claims.marksOnly (m : Store Cell) : Store Cell :=
  m.filterMap fun e => if e.2.lockedOut || e.2.dead || e.2.routerDead then
    some (e.1, { lockedOut := e.2.lockedOut, dead := e.2.dead, routerDead := e.2.routerDead }) else none

/-- The dormant state (R443, R495): it is refused with a plot RUNNING, a wain not IDLE or a threshing step; it loses the cells and
their programs, the hubs but for their supply, and what travels, puts the stacks into SELFREF and stops the field loops. Its
end is refused to a wafer that is not dormant; the blocks of configuration 0 that no longer read as loaded answer their
status; else the fields' loops lock, the stacks serve, and the plots with their ground are LOADED again. -/
def Claims.Dormancy : Prop :=
  ∀ (s : State) (p : PortNo) (n : SlotNo) (o : OpInfo), s.ComesToMail p n o → s.MailPasses p n o →
    let m := s.mailStarted p n
    let busy : Prop := (∃ e ∈ s.plots, e.2.state = .running) ∨ (∃ e ∈ s.wains, e.2.state ≠ .idle) ∨
      ∃ e ∈ s.mills, e.2.run ≠ none
    (o.code = 0x42 →
      (busy → exec (.dormantEnter p n) s = .next (m.mailAnswer s p n o (refuse 5 0xFFFF))) ∧
      (¬ busy → ∃ t : State, exec (.dormantEnter p n) s = .next (t.mailAnswer s p n o (okWith [])) ∧
        t.dormant = true ∧ t.net = [] ∧ t.pmem = [] ∧ t.pmemAll = [] ∧
        t.cells = Claims.marksOnly s.cells ∧
        (∀ k, t.stack k = if (s.stack k).state = .active then { s.stack k with state := .selfref } else s.stack k) ∧
        (∀ f, t.hub f = { powered := (s.hub f).powered, dark := (s.hub f).dark, clkStop := (s.hub f).clkStop, power := {
          cal := (s.hub f).power.cal, trip := (s.hub f).power.trip, weights := (s.hub f).power.weights } }) ∧
        (∀ k, t.clocks.lock.getLsbD k = (decide (48 ≤ k) && s.clocks.lock.getLsbD k)) ∧
        t.clocks = { s.clocks with lock := t.clocks.lock } ∧
        t = { m with dormant := true, net := [], cells := t.cells, pmem := [], pmemAll := [], gstacks := t.gstacks,
                     hubs := t.hubs, clocks := t.clocks, tally := t.tally })) ∧
    (o.code = 0x43 →
      (s.dormant = false → exec (.dormantExit p n) s = .next (m.mailAnswer s p n o (refuse 5 0xFFFF))) ∧
      (s.dormant = true →
        let standing := s.plotIds.filter fun x => (s.plot x).holds
        let u := m.reread (wakeBlocks (standing.filter fun x => (s.plot x).state != .scanned))
        (∀ t b, u = (t, .inl b) → exec (.dormantExit p n) s = .next (t.mailAnswer s p n o (refuse b.status b.block))) ∧
        (∀ t im, u = (t, .inr im) → ∃ v : State, exec (.dormantExit p n) s = .next (v.mailAnswer s p n o (okWith [])) ∧
          v.dormant = false ∧ v.power = { s.power with hist := [], lastAt := s.tick } ∧ v.plan = s.plan ∧
          (∀ x ∈ standing, (v.plot x).state = if (s.plot x).state = .scanned then .scanned else .loaded) ∧
          (∀ f : FieldNo, f.toNat < 48 → (s.hub f).powered = true → (s.hub f).dark = false →
            v.clocks.lock.getLsbD f.toNat = true) ∧
          v.granary = t.granary ∧ v.map = s.map ∧ v.residents = s.residents)))

/-- What resets leave (R10, R423, R437 to R441, R493, R507, R527): a warm reset keeps the granary, the ledger, the map, the
epoch, and the ports' slots and rings; it loses every plot, wain, window, resident range and loft byte, what travels, and the
stewardship, and stands at stage 4 of the fast path, or at stage 2 where no image can start; a licence of another variant
that then takes effect is Licences' concern. A compute reset loses the plots
and wains, clears the sync units, keeps the windows, and counts as KIND 4; WARM# requests a reset on its falling edge. -/
def Claims.ResetEffects : Prop :=
  ∀ (s : State),
    (∀ (kind : BitVec 3) (t : State), t = s.warmBegin kind → (∀ v n, s.licence.next = some (v, n) → v = s.licence.full) →
      t.loft = [] ∧ t.loftErr = [] ∧ t.pmem = [] ∧ t.pmemAll = [] ∧ t.plots = [] ∧ t.wains = [] ∧ t.windows = [] ∧
      t.plan = none ∧ t.net = [] ∧ t.residents = [] ∧ t.links = [] ∧ t.linkAll = .down ∧ t.ranks = [] ∧ t.routes = [] ∧
      t.granary = s.granary ∧ t.ledger = s.ledger ∧ t.flashMap = s.flashMap ∧ t.hostMem = s.hostMem ∧ t.dormant = false ∧
      t.power.stopped = false ∧ t.power.sustained = 33000 ∧ t.power.peak = 40000 ∧ t.power.window = 1000 ∧
      t.boot.fast = true ∧ t.boot.doing = kind ∧ t.boot.held = none ∧ t.faultSeq = 0 ∧ t.epoch = s.epoch ∧ t.map = s.map ∧
      t.steward.state = 0 ∧ t.steward.gen = 0 ∧
      t.cells = Claims.marksOnly s.cells ∧
      (∀ k, t.stack k = if (s.stack k).state = .active then { s.stack k with state := .selfref } else s.stack k)) ∧
    (∀ t : State, t = s.computeReset → (∀ v n, s.licence.next = some (v, n) → v = s.licence.full) →
      t.plots = [] ∧ t.wains = [] ∧ t.plan = none ∧ t.pageFaults = [] ∧ t.windows = s.windows ∧ t.granary = s.granary ∧
      t.ledger = s.ledger ∧ t.boot = { s.boot with kind := 4 } ∧
      (∀ f : FieldNo, (t.hub f).latches = [] ∧ (t.hub f).gates = [] ∧ (t.hub f).waiters = []) ∧
      t.residents = s.residents.map (fun r => { r with claimed := false, holder := 127 }) ∧ t.tally.counts = [] ∧ t.net = s.net ∧
      (∀ c, t.cell c = { lockedOut := (t.cell c).lockedOut, dead := (t.cell c).dead, routerDead := (t.cell c).routerDead })) ∧
    (s.boot.done ≠ 0 → exec .warmAssert s = .next ({ s with pins := { s.pins with
      warmHigh := false, armed := false, request := s.pins.request || s.pins.armed } } : State).pinReset) ∧
    (s.boot.done = 0 → exec .warmAssert s = .next { s with pins := { s.pins with warmHigh := false } }) ∧
    (s.pins.request = true → s.running = none → s.boot.done = 9 ∨ s.power.stopped = true → s.pinReset = s.warmBegin 2) ∧
    (s.pins.request = false ∨ s.running ≠ none ∨ (s.boot.done ≠ 9 ∧ s.power.stopped = false) → s.pinReset = s) ∧
    exec .warmDeassert s = .next { s with pins := { s.pins with warmHigh := true, armed := true, extest := false } }

/-! ### Bring-up (15) -/

/-- Stage 1 (R421, R428, R440, R513): input power brings the ward to stage 2 with the stored map and epoch in force, and a licence
installed last takes effect; with power on nothing happens. -/
def Claims.ColdStart : Prop :=
  ∀ s : State,
    (s.pins.input = true → exec .coldBringup s = .next s) ∧
    (s.pins.input = false → exec .coldBringup s = .next { s with
      pins := { s.pins with input := true }
      boot := { stage := 2, done := 1, doing := 1 }
      map := s.flashMap
      epoch := s.flashEpoch
      licence := match s.licence.next with
        | some (v, k) => { s.licence with full := v, number := k, next := none }
        | none => s.licence })

/-- Stage 4 (R421, R424, R429, R432, R444, R460, R493, R494): fields power up in order, each with its loop locked; one that is to
stay unpowered goes dark, one whose peak currents exceed a trip level trips; the last ends the stage. Out of order, with no
coolant or while the module is stopped nothing happens. -/
def Claims.FieldsPowerUp : Prop :=
  ∀ (s : State) (f : FieldNo) (vc vl : BitVec 16),
    let stays : Prop := (s.boot.fast = true ∧ (s.hub f).dark = true) ∨
      ∃ e ∈ s.ledger, e.field.toNat = f.toNat ∧ e.row = 0xFF ∧ e.col = 0xFF ∧ (s.boot.fast = true ∨ e.revive = false)
    let after (t : State) : State :=
      let u : State := { t with boot := { t.boot with nextField := t.boot.nextField + 1 } }
      if f.toNat = 47 then { u with boot := { u.boot with done := 4, stage := 5 } } else u
    let lit (t : State) : Prop := t.hub f = { s.hub f with powered := true, clkStop := false } ∧
      (∀ g, g ≠ f → t.hub g = s.hub g) ∧ (∀ k, t.clocks.lock.getLsbD k = (decide (k = f.toNat ∧ k < 63) || s.clocks.lock.getLsbD k)) ∧
      t.clocks = { s.clocks with lock := t.clocks.lock } ∧ t = { s with hubs := t.hubs, clocks := t.clocks }
    let due : Prop := s.boot.done = 3 ∧ s.power.stopped = false ∧ s.boot.coolWait = false ∧ f.toNat = s.boot.nextField
    (¬ due → exec (.fieldPowerUp f vc vl) s = .next s) ∧
    (due → stays → (s.hub f).dark = true → exec (.fieldPowerUp f vc vl) s = .next (after s).refreshAlert) ∧
    (due → stays → (s.hub f).dark = false → exec (.fieldPowerUp f vc vl) s = .next (after (s.fieldDark f)).refreshAlert) ∧
    (due → ¬ stays → ∃ t : State, lit t ∧ exec (.fieldPowerUp f vc vl) s = .next (
      if bits (s.hub f).power.trip 31 16 < vc.toNat ∨ bits (s.hub f).power.trip 15 0 < vl.toNat
      then (after (t.fieldTrips f vc vl)).refreshAlert else (after t).refreshAlert))

/-- Stage 5 (R21, R246, R299, R326, R421, R422): links go UP; each stitch crossing that fails is DOWN, a router failure of the cell
that owns it; stacks that train serve, and failed ones lose their contents; the mills' links train. On the fast path stages 6
and 7's work is over. -/
def Claims.Trains : Prop :=
  ∀ (s : State) (fl : List (CellId × BitVec 2)) (st : List StackNo),
    (s.boot.done ≠ 4 ∨ s.power.stopped = true → exec (.linkTraining fl st) s = .next s) ∧
    (s.boot.done = 4 → s.power.stopped = false → ∃ t : State, exec (.linkTraining fl st) s = .next t ∧
      t.boot = { s.boot with done := 5, stage := if s.boot.fast then 7 else 6 } ∧
      t.linkAll = .up ∧
      (∀ k, k < 16 → t.stack k =
        if (s.hub (stackField k)).dark = true then
          (if (s.stack k).state = .off then { s.stack k with state := .selfref } else s.stack k)
        else if st.contains (BitVec.ofNat 4 k) = true then { s.stack k with state := .failed }
        else if (s.stack k).state = .off then { s.stack k with state := .active } else s.stack k) ∧
      (∀ a, t.granary.read a = if a / 2 ^ 38 < 16 ∧ (s.hub (stackField (a / 2 ^ 38))).dark = false ∧
        st.contains (BitVec.ofNat 4 (a / 2 ^ 38)) = true then 0 else s.granary.read a) ∧
      (∀ x ∈ fl, s.crossing x.1 x.2.toNat = true → t.linkState x.1 x.2.toNat = .down ∧
        physKey (fieldOf (linkOwner x.1 x.2.toNat)).toNat (rowIn (linkOwner x.1 x.2.toNat))
          (s.physCol (linkOwner x.1 x.2.toNat)) ∈ t.failLink) ∧
      t.failLink.length = s.failLink.length + (fl.filter fun x => s.crossing x.1 x.2.toNat).length ∧
      (∀ x : MillNo, t.mill x = if s.millEnabled x = true then (s.linkTrain x).mill x else s.mill x) ∧
      t = { s with boot := t.boot, links := t.links, linkAll := .up, failLink := t.failLink, gstacks := t.gstacks,
                   granary := t.granary, granErr := t.granErr, gmap := t.gmap, mills := t.mills })

/-- Stages 6 and 7 (R422, R425 to R428, R432, R513): the self-test of a cold bring-up darkens powered fields whose hub fails and
keeps the verdicts on cells that no fuse marks in fields that are not dark; entries marked for revival go where the test
passes. The map built from the fuses, the ledger and the failures comes into force; one that differs from the stored one is
stored under the next epoch; the failures enter the ledger and the units of the licence are selected. The fast path keeps
the map. -/
def Claims.TestsAndMaps : Prop :=
  ∀ s : State,
    (∀ v hf ex, s.boot.done ≠ 5 ∨ s.power.stopped = true ∨ s.boot.fast = true → exec (.selfTest v hf ex) s = .next s) ∧
    (∀ v hf ex, s.boot.done = 5 → s.power.stopped = false → s.boot.fast = false →
      let u := hf.foldl (fun u f => if f.toNat < 48 ∧ (u.hub f).powered = true then u.fieldDark f else u) s
      let key (x : Verdict) : Nat := physKey x.field.toNat x.row.toNat x.col.toNat
      let known (x : Verdict) : Bool := x.field.toNat < 48 && x.col.toNat < 80 && !(u.hub x.field).dark &&
        !(s.fuseComp.contains (key x) || s.fuseRtr.contains (key x))
      let w : State := { u with
        failComp := (v.filter fun x => known x && x.comp).map key
        failRtr := (v.filter fun x => known x && x.rtr).map key }
      exec (.selfTest v hf ex) s = .next ({ w with
        ledger := w.revived ex, boot := { u.boot with done := 6, stage := 7 } } : State).refreshAlert) ∧
    (∀ ex (e : LedgerEntry), let f : FieldNo := BitVec.ofNat 6 e.field.toNat
      let key := physKey e.field.toNat e.row.toNat e.col.toNat
      let passed : Prop := (s.hub f).dark = false ∧
        (e.row = 0xFF → (s.hub f).powered = true ∧ f ∉ s.tripped) ∧
        (e.row ≠ 0xFF → key ∉ s.failComp ∧ key ∉ s.failRtr ∧
          ∃ x ∈ ex, e.field.toNat = x.1.toNat ∧ e.row.toNat = x.2.1.toNat ∧ e.col.toNat = x.2.2.toNat)
      ∀ l, s.ledger = e :: l → let rest := ({ s with ledger := l } : State).revived ex
        (e.revive = false → s.revived ex = e :: rest) ∧ (e.revive = true → passed → s.revived ex = rest) ∧
        (e.revive = true → ¬ passed → s.revived ex = { e with revive := false } :: rest)) ∧
    (s.boot.done = 6 → s.power.stopped = false → s.boot.fast = false → ∃ u : State,
      u = (if s.builtMap = s.flashMap then { s with map := s.builtMap } else { s with
        map := s.builtMap, epoch := s.flashEpoch + 1, flashMap := s.builtMap, flashEpoch := s.flashEpoch + 1 }) ∧
      ∃ t : State, exec .mapBuild s = .next t ∧ t.boot = { s.boot with done := 7, stage := 8 } ∧ t.map = s.builtMap ∧
        t.epoch = u.epoch ∧ t.flashMap = u.flashMap ∧ t.flashEpoch = u.flashEpoch ∧
        t.ledger = u.recordFailures.ledger ∧ t.loft = s.loft) ∧
    (s.boot.done = 5 → s.power.stopped = false → s.boot.fast = true → ∃ t : State, exec .mapBuild s = .next t ∧
      t = { s with ledger := t.ledger, ledgerLost := t.ledgerLost, boot := { s.boot with done := 7, stage := 8 } } ∧
      t.ledger = s.recordFailures.ledger) ∧
    ((s.boot.fast = true ∧ s.boot.done ≠ 5) ∨ (s.boot.fast = false ∧ s.boot.done ≠ 6) ∨ s.power.stopped = true →
      exec .mapBuild s = .next s)

/-- Stages 8 and 9 (R24, R58, R299, R423, R424, R434, R438): with fields 0 and 8 dark the ward stands with ERR BRIDGE; else it
chooses the bridge, and the cells take the library; READY lets the stacks serve and reports the ward, and a warm reset that
was held, or that WARM# has asked for, follows; a WARM_RESET that waits is answered. -/
def Claims.LastStages : Prop :=
  ∀ s : State,
    (s.boot.done ≠ 7 ∨ s.power.stopped = true → exec .hubTableBroadcast s = .next s) ∧
    (s.boot.done = 7 → s.power.stopped = false → (s.hub 0).dark = true → (s.hub 8).dark = true →
      exec .hubTableBroadcast s = .next ({ s with boot := { s.boot with err := 4 } } : State).chooseBridge.refreshAlert) ∧
    (s.boot.done = 7 → s.power.stopped = false → ((s.hub 0).dark = false ∨ (s.hub 8).dark = false) →
      ∃ u t : State, exec .hubTableBroadcast s = .next t ∧
        t.boot = { s.boot with done := 8, stage := 9 } ∧ t.libver = imageLibver (s.fw.slot s.fw.running).image ∧
        t.pmemAll = s.codeAll ∧ (∀ a, a < 16 ∨ 0x1C00 ≤ a → ∀ c : CellId, a < 8192 →
          Store.find? t.pmem (c.toNat * 8192 + a) = none) ∧
        (∀ f ∈ t.darkOrder, (s.hub f).dark = true) ∧ (∀ f : FieldNo, f.toNat < 48 → (s.hub f).dark = true → f ∈ t.darkOrder) ∧
        u = s.chooseBridge ∧ t.bridge = u.bridge ∧ t.switchEnd = u.switchEnd ∧ t.ports = u.ports ∧
        t = { s with boot := t.boot, libver := t.libver, pmem := t.pmem, pmemAll := t.pmemAll, darkOrder := t.darkOrder,
                     darkSeen := t.darkSeen, niCell := t.niCell, niHub := t.niHub, bridge := t.bridge,
                     switchEnd := t.switchEnd, ports := t.ports }) ∧
    (s.boot.done ≠ 8 ∨ s.power.stopped = true → exec .ready s = .next s) ∧
    (s.boot.done = 8 → s.power.stopped = false → ∃ u : State,
      (∀ k, k < 16 → u.stack k = if (s.stack k).state = .selfref ∧ (s.hub (stackField k)).powered = true ∧
        (s.hub (stackField k)).dark = false then { s.stack k with state := .active } else s.stack k) ∧
      u = { s with boot := { s.boot with done := 9, stage := 9, kind := s.boot.doing }, gstacks := u.gstacks } ∧
      let v := u.notice 6 4 (padBytes (leBytes 4 s.fw.version.toNat) 48)
      (∀ k, s.boot.held = some k → exec .ready s = .next (v.warmBegin k)) ∧
      (s.boot.held = none → (∃ r, s.running = some r ∧ r.what = .warm) →
        exec .ready s = .next (v.finish (okWith [])).pinReset.refreshAlert) ∧
      (s.boot.held = none → (∀ r, s.running = some r → r.what ≠ .warm) → exec .ready s = .next v.pinReset.refreshAlert))

/-- Bring-up, stage by stage (R421, R424 to R428, R434, R444): each stage runs after the one before it and leaves HG_BOOT at the
next. -/
def Claims.BringUp : Prop :=
  Claims.ColdStart ∧ Claims.FieldsPowerUp ∧ Claims.Trains ∧ Claims.TestsAndMaps ∧ Claims.LastStages

/-! ### Clocks (17) -/

/-- Windows (R470, R472): every window from stage 3 on records its counts, and passes in a row; at stage 3 a crystal is STABLE
from three passes in a row and FAILED after 40 windows without; in service the selected one that fails brings holdover. Before
stage 3 there are none. -/
def Claims.Windows : Prop :=
  ∀ (s : State) (a b r : BitVec 18),
    let ok (n : BitVec 18) : Prop := 97000 ≤ n.toNat ∧ n.toNat ≤ 103000
    let w : Clocks := { s.clocks with
      cntA := a, cntB := b, windows := s.clocks.windows + 1, agree := decide (99980 ≤ r.toNat ∧ r.toNat ≤ 100020)
      passA := if 97000 ≤ a.toNat ∧ a.toNat ≤ 103000 then s.clocks.passA + 1 else 0
      passB := if 97000 ≤ b.toNat ∧ b.toNat ≤ 103000 then s.clocks.passB + 1 else 0 }
    let status (x : BitVec 2) (n : Nat) : BitVec 2 :=
      if x = 1 then 1 else if 3 ≤ n ∧ (x = 0 ∨ s.boot.recheck = true) then 1 else if x = 0 ∧ 40 ≤ w.windows then 2 else x
    let held : Clocks := { w with sel := 2, switches := satAdd s.clocks.switches 1, since := some s.tick }
    (s.boot.done < 2 → exec (.stabilityWindow a b r) s = .next s) ∧
    (s.boot.done = 2 → exec (.stabilityWindow a b r) s = .next { s with clocks := { w with
      xa := status w.xa w.passA, xb := status w.xb w.passB
      agree3 := if w.agree3 = none ∧ status w.xa w.passA = 1 ∧ status w.xb w.passB = 1 then some w.agree else w.agree3 } }) ∧
    (2 < s.boot.done →
      (s.clocks.sel = 0 → ¬ ok a → exec (.stabilityWindow a b r) s = .next { s with clocks := { held with
        xa := 2, relocking := decide (3 ≤ w.passB) && s.clocks.agree } }) ∧
      (s.clocks.sel = 1 → ¬ ok b → exec (.stabilityWindow a b r) s = .next { s with clocks := { held with
        xb := 2, relocking := false } }) ∧
      ((s.clocks.sel = 0 → ok a) → (s.clocks.sel = 1 → ok b) → exec (.stabilityWindow a b r) s = .next { s with clocks := w }))

/-- Crystals (R471 to R473, R424): the check selects XA where it is stable and agrees with XB where that is stable too, else XB
with XA's cause, else neither and ERR is CRYSTAL; the root loop and its companions lock, and stage 4, or after a holdover a
warm reset, follows. A crystal that stops in service brings holdover; a relock to XB ends it, and ten milliseconds without one
stop every loop and return to stage 3. -/
def Claims.Crystals : Prop :=
  ∀ s : State,
    let c := s.clocks
    let locks (x : Clocks) (xb : Bool) : State := { s with
      clocks := { x with lock := c.lock ||| ~~~(BitVec.ofNat 63 (2 ^ 48 - 1)), since := none, relocking := false }
      boot := { s.boot with xb := xb } }
    let follows (t : State) : State := if s.boot.recheck = true then t.warmBegin 3 else ({ t with
      tripped := []
      boot := { t.boot with stage := 4, done := 3, nextField := 0, coolWait := !s.pins.coolOk
                            err := if s.pins.coolOk then 0 else 3 } } : State).refreshAlert
    (s.boot.done ≠ 2 ∨ c.xa = 0 ∨ c.xb = 0 → exec .crystalCheck s = .next s) ∧
    (s.boot.done = 2 → c.xa ≠ 0 → c.xb ≠ 0 →
      (c.xa = 1 → c.xb ≠ 1 ∨ c.agree3 = some true → exec .crystalCheck s = .next (follows (locks { c with sel := 0 } false))) ∧
      (c.xa ≠ 1 ∨ (c.xb = 1 ∧ c.agree3 ≠ some true) → c.xb = 1 → exec .crystalCheck s =
        .next (follows (locks { c with sel := 1, xa := if c.xa = 1 then 3 else c.xa } true))) ∧
      (c.xa ≠ 1 → c.xb ≠ 1 → exec .crystalCheck s = .next ({ s with boot := { s.boot with err := 2 } } : State).refreshAlert)) ∧
    (s.boot.done < 3 ∨ 2 ≤ c.sel.toNat → exec .crystalFail s = .next s) ∧
    (3 ≤ s.boot.done → c.sel = 0 → exec .crystalFail s = .next { s with clocks := { c with
      sel := 2, xa := 2, switches := satAdd c.switches 1, since := some s.tick
      relocking := decide (3 ≤ c.passB) && c.agree } }) ∧
    (3 ≤ s.boot.done → c.sel = 1 → exec .crystalFail s = .next { s with clocks := { c with
      sel := 2, xb := 2, switches := satAdd c.switches 1, since := some s.tick, relocking := false } }) ∧
    (c.sel = 2 → c.relocking = true → exec .rootLoopRelock s = .next { s with
      clocks := { c with sel := 1, since := none, relocking := false }, boot := { s.boot with xb := true } }) ∧
    (c.sel ≠ 2 ∨ c.relocking = false → exec .rootLoopRelock s = .next s) ∧
    (∀ b, c.since = some b → c.sel = 2 → b + 1000000 ≤ s.tick → ∃ t : State,
      exec .holdoverTimeout s = .next t.refreshAlert ∧
      t.clocks = { c with
        sel := 3, xa := 0, xb := 0, since := none, relocking := false, windows := 0, passA := 0, passB := 0, agree3 := none
        lock := t.clocks.lock } ∧
      (∀ k, t.clocks.lock.getLsbD k = (decide (48 ≤ k ∧ k ≠ 62) && c.lock.getLsbD k)) ∧
      t.boot = { s.boot with stage := 3, err := 2, done := 2, recheck := true } ∧
      t.hubs = s.hubs.map (fun e => (e.1, { e.2 with clkStop := true })) ∧
      t = { s with hubs := t.hubs, clocks := t.clocks, boot := t.boot }) ∧
    ((∀ b, c.since = some b → c.sel = 2 → s.tick < b + 1000000) → exec .holdoverTimeout s = .next s)

/-- Field loops and the spread profile (R236, R455, R476 to R478): a loop that loses lock is counted; a field's clock stops, and each
of its crossings that was not DOWN goes DOWN and counts at both sides. A field's loop that locks again starts its clock and
brings the crossings that are DOWN into INIT. CK_SSC takes effect when the profile period ends. -/
def Claims.Loops : Prop :=
  ∀ s : State,
    let c := s.clocks
    (∀ d, d = 63 ∨ c.lock.getLsbD d.toNat = false → exec (.loopLockLoss d) s = .next s) ∧
    (∀ d, c.lock.getLsbD d.toNat = true → ∃ x : Clocks,
      x = { c with lock := x.lock, relock := satAdd c.relock 1 } ∧
      (∀ k, x.lock.getLsbD k = (c.lock.getLsbD k && k != d.toNat)) ∧
      (48 ≤ d.toNat → exec (.loopLockLoss d) s = .next { s with clocks := x }) ∧
      (d.toNat < 48 → ∃ t u : State, u = { s with clocks := x }.modHub d (fun h => { h with clkStop := true }) ∧
        t = (fieldCrossings d).foldl (fun v y => if v.linkState y.1 y.2 = .down then v else v.stitchLost y.1 y.2) u ∧
        exec (.loopLockLoss d) s = .next t ∧ (t.hub d).clkStop = true ∧ (∀ y ∈ fieldCrossings d, t.linkState y.1 y.2 = .down) ∧
        (∀ g, t.hub g = { s.hub g with clkStop := (s.hub g).clkStop || g == d, stitcherr := (t.hub g).stitcherr }) ∧
        t = { s with clocks := x, hubs := t.hubs, links := t.links })) ∧
    (∀ a k, neighbour a k = none → s.stitchLost a k = s) ∧
    (∀ a k b, neighbour a k = some b → lxOf a < 624 → lyOf a < 384 → ∃ t : State, t = s.stitchLost a k ∧
      t.linkState a k = .down ∧
      (fieldOf a ≠ fieldOf b →
        (∀ g, t.hub g = { s.hub g with stitcherr := satAdd (s.hub g).stitcherr (if g = fieldOf a ∨ g = fieldOf b then 1 else 0) })) ∧
      (∀ a' k', lxOf a' < 624 → lyOf a' < 384 → linkName a' k' ≠ linkName a k → t.linkState a' k' = s.linkState a' k') ∧
      t = { s with hubs := t.hubs, links := t.links }) ∧
    (∀ f, 48 ≤ f.toNat ∨ (s.hub f).powered = false ∨ (s.hub f).dark = true ∨ c.lock.getLsbD f.toNat = true ∨ s.boot.done < 4 ∨
      s.dormant = true → exec (.fieldLoopRelock f) s = .next s) ∧
    (∀ f, f.toNat < 48 → (s.hub f).powered = true → (s.hub f).dark = false → c.lock.getLsbD f.toNat = false →
      4 ≤ s.boot.done → s.dormant = false → ∃ t : State, exec (.fieldLoopRelock f) s = .next t ∧
      t.clocks = { c with lock := t.clocks.lock } ∧ (∀ k, t.clocks.lock.getLsbD k = (c.lock.getLsbD k || k == f.toNat)) ∧
      t.hub f = { s.hub f with powered := true, clkStop := false } ∧ (∀ g, g ≠ f → t.hub g = s.hub g) ∧
      (∀ y ∈ fieldCrossings f, s.linkState y.1 y.2 = .down → s.endsOk y.1 y.2 = true → linkName y.1 y.2 ∉ s.linksOut →
        t.linkState y.1 y.2 = .init) ∧
      t = { s with clocks := t.clocks, hubs := t.hubs, links := t.links }) ∧
    (c.sscStart + 200000 / c.rate.toNat ≤ s.tick → exec .sscPeriodStart s = .next { s with clocks := { c with
      depth := c.ssc.1, rate := c.ssc.2, sscStart := s.tick } }) ∧
    (s.tick < c.sscStart + 200000 / c.rate.toNat → exec .sscPeriodStart s = .next s)

/-- Fences, rejoins, and the lock-outs that they set and clear (R420, R429, R431, R452 to R455). -/
def Obligations.Fences : Prop := Claims.Fences ∧ Claims.Rejoins ∧ Claims.LockOuts ∧ Claims.FenceNotices

/-- CONTROL packets and row broadcasts: program words, vector defaults, tables and scrubs (R33, R37, R184, R247, R338, R420,
R436). -/
def Obligations.RowBroadcasts : Prop := Claims.Broadcasts ∧ Claims.Reached ∧ Claims.BroadcastEffects

/-- Warm and compute resets, the dormant state, and what each leaves (R423, R437 to R443, R493, R495). -/
def Obligations.Resets : Prop := Claims.ResetCommands ∧ Claims.Dormancy ∧ Claims.ResetEffects

/-- The stages of a bring-up (R421 to R434, R444). -/
def Obligations.BringUp : Prop := Claims.BringUp

/-- Crystals, loops and the spread profile (R470 to R478). -/
def Obligations.Clocks : Prop := Claims.Windows ∧ Claims.Crystals ∧ Claims.Loops

/-! ### Power, heat and pins (18, 20) -/

/-- The terms of a field (R480, R481, R490): its dynamic power is its twelve weights times its counts, its static power that of
60 °C and so much for each degree above, and its activity is the share of DFULL, rounded up; where DFULL is 0 the spec states
none, and it is free. -/
def Claims.EstimatorTerms : Prop :=
  ∀ (p : FieldPower) (counts : List Nat),
    let full := bits p.cal 47 32 * fieldUnit
    p.dynamic counts =
      ((List.range 12).map fun k => (bits (Store.get 0 p.weights k) 15 0 : Int) * (((counts[k]?).getD 0 : Nat) : Int)).sum ∧
    p.static = (bits p.cal 15 0 : Int) * 320000 + (bits p.cal 31 16 : Int) * (p.tf.toInt - 960) * 2000 ∧
    (full ≠ 0 → p.activity = (64 * p.dyn.toNat + full - 1) / full) ∧ (full = 0 → p.activity = Config.activityNoScale p.dyn)

/-- The estimates of an interval (R480, R482, R495): every field that takes part has its terms, of its ballast alone while it is
GATED, and its energy is counted; the module estimate is theirs with that of the companions, times CONV, and the latest of
50,000. -/
def Claims.Estimates : Prop :=
  ∀ (s : State) (acts : List Activity),
    let counts (f : FieldNo) : List Nat :=
      let l := ((acts.find? fun a => a.field == f).map Activity.counts).getD []
      if s.gated f then ballastOnly l else l
    let d (f : FieldNo) : Int := (s.hub f).power.dynamic (counts f)
    let x (f : FieldNo) : Int := (s.hub f).power.static
    let total := (((s.litFields.map fun f => d f + x f).sum + (s.companions * fieldUnit : Nat)) * s.power.conv).toNat
    ∃ t : State, t = s.estimated acts ∧ (∀ f, f ∉ s.litFields → t.hub f = s.hub f) ∧
      (∀ f ∈ s.litFields, t.hub f = { s.hub f with power := { (s.hub f).power with
        dyn := d f, stat := x f, reason := (s.hub f).power.charge
        est := BitVec.ofNat 32 (watts (d f + x f) fieldUnit * 2 ^ 16 + watts (d f) fieldUnit) } }) ∧
      (∀ f ∈ s.litFields, Store.get 0 t.tally.energy f.toNat = Store.get 0 s.tally.energy f.toNat + (d f + x f).toNat) ∧
      t.tally = { s.tally with energy := t.tally.energy } ∧
      t.power = { s.power with comp := s.companions, module_ := watts total moduleUnit, hist := (total :: s.power.hist).take 50000 } ∧
      t = { s with hubs := t.hubs, power := t.power, tally := t.tally } ∧
      s.companions = s.power.hingeW + ((List.range 16).filter fun k => (s.stack k).state == .active).length * s.power.stackW +
        ((List.range 32).filter fun i => (s.mill (BitVec.ofNat 5 i)).link != 0).length * s.power.millW ∧
      (∀ f, f ∈ s.litFields ↔ f.toNat < 48 ∧ (s.hub f).powered = true ∧ (s.hub f).dark = false)

/-- The budget (R484): the sustained limit where the last 100 ms stand at it or above, else the peak limit, or as much as keeps the
window at it. -/
def Claims.Budgets : Prop :=
  ∀ w : Power,
    let n := w.window / 2
    let last := (w.hist.take (n - 1)).sum
    (w.sustained * 50000 * moduleUnit ≤ (w.hist.take 50000).sum → w.budgetOf = (((w.sustained * moduleUnit : Nat) : Int), true)) ∧
    ((w.hist.take 50000).sum < w.sustained * 50000 * moduleUnit → w.budgetOf =
      (min ((w.peak * moduleUnit : Nat) : Int) ((n * w.peak * moduleUnit : Nat) - (last : Int)), false))

/-- H_B (R487): none without dynamic power, else 64 less the share of what the field would draw with no holds, at most 60; and a
frame of 64 cycles has as many held cycles as the hold (R486). -/
def Claims.Holds : Prop :=
  (∀ (avail : Int) (conv total demand : Nat) (p : FieldPower) (hold : Nat), 0 < conv →
    (p.dyn ≤ 0 → holdFor avail conv total demand p hold = 0) ∧
    (0 < p.dyn → 0 < total → avail < 0 → 0 < demand → hold ≤ 60 → holdFor avail conv total demand p hold = 60) ∧
    (0 < p.dyn → total = 0 → holdFor avail conv total demand p hold = 60) ∧
    (0 < p.dyn → 0 < total → ∃ q r : Int, 0 ≤ r ∧ r < conv * total * p.dyn ∧ avail * demand * (64 - hold : Nat) = q * (conv * total * p.dyn) + r ∧
      holdFor avail conv total demand p hold = min 60 (64 - q).toNat)) ∧
  (∀ hold, hold ≤ 60 → ((List.range 64).filter fun c => heldCycle hold c).length = hold)

/-- The budgets and holds of the coming interval (R485, R487, R489 to R491): what the budget leaves beyond the companions and the
static terms is shared by the weights of the RUNNING plots; the hold follows H_B and H_T by one step, but is never less than the
slope and the supply require, nor more than 60; the interval is charged to the lowest reason whose requirement it is; the
ballast stands one below the activity, and none once it is below 4. -/
def Claims.Throttles : Prop :=
  ∀ s : State,
    let b := s.power.budgetOf
    let avail := b.1 - ((s.litFields.map fun f => (s.hub f).power.stat).sum + (s.companions * fieldUnit : Nat)) * s.power.conv
    let total := (s.litFields.map s.demand).sum
    ∃ t : State, t = s.throttled ∧ (∀ f, f ∉ s.litFields → t.hub f = s.hub f) ∧
      (∀ f ∈ s.litFields,
        let h := s.hub f
        let p := h.power.settleAlert s.tick
        let hb := holdFor avail s.power.conv total (s.demand f) h.power h.hold
        let slope := 63 - max p.activity 4
        let supply := if p.hs then 60 else 0
        let hold := min 60 (max (max supply slope) (max (h.hold - 1) (min (max hb p.ht) (h.hold + 1))))
        t.hub f = { h with
          hold := hold
          power := { p with
            hb := hb, act := p.activity, ballast := (if p.activity - 1 < 4 then 0 else p.activity - 1),
            charge := (if hold = 0 then 0 else if hb = hold then (if b.2 then 1 else 2) else if slope = hold then 3
              else if p.ht = hold then 4 else if supply = hold then 6 else 3) } }) ∧
      t.power = { s.power with budget := watts b.1 moduleUnit } ∧ t = { s with hubs := t.hubs, power := t.power } ∧
      (∀ f, s.demand f =
        (s.plots.map fun (e : Nat × Plot) => if e.2.state = .running then e.2.weight.toNat * e.2.cellsIn f else 0).sum) ∧
      (∀ (p : FieldPower) (n : Nat), (∀ k, p.clearAt = some k → k ≤ n → p.settleAlert n = { p with hs := false, clearAt := none }) ∧
        (∀ k, p.clearAt = some k → n < k → p.settleAlert n = p) ∧ (p.clearAt = none → p.settleAlert n = p))

/-- The throttle log (R497): at a boundary an open episode goes on with its charge, or closes after ten intervals without it; a
charge that no open episode has opens one; 8,192 records are held, and the oldest is overwritten. -/
def Claims.ThrottleLog : Prop :=
  ∀ (w : Power) (l : List Charge) (start now n gap : Nat) (c : Charge) (r : ThrottleRec),
    let e := w.rec_ n
    (∀ x, l.find? (fun x => x.field == e.field && x.reason == e.reason) = some x → ∃ y, y = w.episode l now n gap ∧
      y.open_ = w.open_ ++ [(n, 0)] ∧ y.rec_ n = { e with
        dur := (now - e.start) / 100, maxH := max e.maxH x.hold, maxP := max e.maxP x.watts, maxT := max e.maxT x.temp } ∧ (∀ k, k ≠ n → y.rec_ k = w.rec_ k) ∧
      y = { w with open_ := y.open_, log := y.log }) ∧
    (l.find? (fun x => x.field == e.field && x.reason == e.reason) = none →
      (gap < 9 → w.episode l now n gap = { w with open_ := w.open_ ++ [(n, gap + 1)] }) ∧
      (9 ≤ gap → ∃ y, y = w.episode l now n gap ∧ y.rec_ n = { e with isOpen := false } ∧ (∀ k, k ≠ n → y.rec_ k = w.rec_ k) ∧
        y = { w with log := y.log })) ∧
    ((∃ k ∈ w.open_, (w.rec_ k.1).field = c.field ∧ (w.rec_ k.1).reason = c.reason) → w.opens start now c = w) ∧
    ((∀ k ∈ w.open_, ¬ ((w.rec_ k.1).field = c.field ∧ (w.rec_ k.1).reason = c.reason)) → w.opens start now c =
      { w.append ⟨start, (now - start) / 100, c.field, c.reason, c.hold, true, c.watts, c.temp⟩ with
        open_ := w.open_ ++ [(w.logNext, 0)] }) ∧
    (∃ y, y = w.append r ∧ y.logNext = w.logNext + 1 ∧ y.rec_ w.logNext = r ∧
      (∀ k ∈ y.log, w.logNext < k.1 + 8192) ∧ (∀ k, k ≠ w.logNext → w.logNext < k + 8192 → y.rec_ k = w.rec_ k) ∧
      y = { w with logNext := y.logNext, log := y.log }) ∧
    w.logged l start now = l.foldl (fun x y => x.opens start now y)
      (w.open_.foldl (fun x y => x.episode l now y.1 y.2) { w with open_ := [] }) ∧
    ((w.rec_ n).bytes.length = 32 ∧ (e.start < 2 ^ 64 → leAt e.bytes 0 8 = e.start) ∧ (e.dur < 2 ^ 32 → leAt e.bytes 8 4 = e.dur) ∧
      (e.field < 256 → leAt e.bytes 12 1 = e.field) ∧ (e.reason < 256 → leAt e.bytes 13 1 = e.reason) ∧
      (e.maxH < 256 → leAt e.bytes 14 1 = e.maxH) ∧ leAt e.bytes 15 1 = (if e.isOpen then 1 else 0) ∧
      (e.maxP < 2 ^ 16 → leAt e.bytes 16 2 = e.maxP) ∧ leAt e.bytes 18 2 = (BitVec.ofInt 16 e.maxT).toNat ∧ leAt e.bytes 20 12 = 0)

/-- What the charges of an interval do beside the log (R463, R497, R498): each adds 2 µs to its field's counter 16 to 21, and a reason
that no field was charged to in the 10 ms before raises one POWER notice, of the lowest such field. -/
def Claims.Charges : Prop :=
  ∀ (s : State) (l : List Charge) (start : Nat),
    s.charges = s.litFields.filterMap (fun f => if (s.hub f).power.reason = 0 then none else
      some ⟨f.toNat, (s.hub f).power.reason, (s.hub f).hold, bits (s.hub f).power.est 31 16, (s.hub f).power.tf.toInt⟩) ∧
    s.chargeCounts l = l.foldl (fun t c => t.count (hubCtr (BitVec.ofNat 6 c.field) (15 + c.reason)) 2) s ∧
    (∃ one : State → Nat → State, s.chargeNotices l start = [1, 2, 3, 4, 5, 6].foldl one s ∧ ∀ (u : State) (r : Nat),
      (l.find? (fun c => c.reason == r) = none → one u r = u) ∧
      (∀ c, l.find? (fun c => c.reason == r) = some c →
        let v : State := { u with power := { u.power with charged := Store.insert u.power.charged r u.tick } }
        let quiet : Prop := ∀ k, Store.find? u.power.charged r = some k → k + 1000000 ≤ start
        (¬ quiet → one u r = v) ∧
        (quiet → one u r = v.powerNotice r (some (BitVec.ofNat 6 c.field)) (BitVec.ofInt 16 c.temp) (v.power.episodeOf c)))) ∧
    (∀ (r : Nat) (f : Option FieldNo) (tf : BitVec 16) (k : Nat), s.powerNotice r f tf k = s.notice 8 14
      (padBytes (leBytes 1 r ++ leBytes 1 ((f.map BitVec.toNat).getD 0xFF) ++ leBytes 2 0 ++ leBytes 4 s.power.module_ ++
        leBytes 2 tf.toNat ++ leBytes 4 k) 48)) ∧
    (∀ (w : Power) (c : Charge),
      (∀ e, w.open_.find? (fun e => (w.rec_ e.1).field == c.field && (w.rec_ e.1).reason == c.reason) = some e → w.episodeOf c = e.1) ∧
      (w.open_.find? (fun e => (w.rec_ e.1).field == c.field && (w.rec_ e.1).reason == c.reason) = none →
        w.episodeOf c = 0xFFFFFFFF))

/-- The estimator (R480, R490, R491, R495, R497, R498): every 200 ticks the estimates of the interval that ends, its charges in the log, the
counters and the notices, and then the holds of the interval that begins. Before the interval has passed, with no field
powered, and in the dormant state, nothing happens. -/
def Claims.Estimator : Prop :=
  ∀ (s : State) (acts : List Activity),
    (s.tick < s.power.lastAt + 200 ∨ s.dormant = true ∨ s.litFields = [] → exec (.estimatorInterval acts) s = .next s) ∧
    (s.power.lastAt + 200 ≤ s.tick → s.dormant = false → s.litFields ≠ [] →
      let u := s.estimated acts
      let v : State := { u with power := { u.power.logged u.charges s.power.lastAt s.tick with lastAt := s.tick } }
      exec (.estimatorInterval acts) s =
        .next ((v.chargeCounts u.charges).chargeNotices u.charges s.power.lastAt).throttled.refreshAlert)

/-- Supply alerts, heat and stops (R424, R488, R489, R492, R493, R499): an alert holds its fields at 60 until 10 µs after it clears;
a sensor reading sets T_f and H_T; a coolant stop, and a reading of 105 °C from stage 4 on, stop the module, and COOL_OK holds
stage 4. -/
def Claims.AlertsAndStops : Prop :=
  ∀ (s : State),
    (∀ f g, g ∈ s.alertFields f ↔ s.dormant = false ∧ g ∈ s.litFields ∧ (∀ x, f = some x → x = g)) ∧
    (∀ f, ∃ t : State, exec (.supplyAlert f) s = .next t ∧
      (∀ g ∈ s.alertFields f, t.hub g = { s.hub g with
        hold := 60
        power := { (s.hub g).power with
          alert := true, hs := true, clearAt := none,
          charge := (if (s.hub g).hold = 60 ∧ (s.hub g).power.charge ≠ 0 then (s.hub g).power.charge else 6) } }) ∧
      (∀ g, g ∉ s.alertFields f → t.hub g = s.hub g) ∧ t = { s with hubs := t.hubs }) ∧
    (∀ f, ∃ t : State, exec (.supplyAlertClear f) s = .next t ∧
      (∀ g ∈ s.alertFields f, t.hub g = { s.hub g with power :=
        (if (s.hub g).power.alert then { (s.hub g).power with alert := false, clearAt := some (s.tick + 1000) }
        else (s.hub g).power.settleAlert s.tick) }) ∧
      (∀ g, g ∉ s.alertFields f → t.hub g = s.hub g) ∧ t = { s with hubs := t.hubs }) ∧
    (∀ f l, l.length ≠ 8 ∨ f ∉ s.litFields ∨ s.dormant = true → exec (.tempSensorRead f l) s = .next s) ∧
    (∀ f l, l.length = 8 → f ∈ s.litFields → s.dormant = false →
      ∃ (t : State) (k : Nat) (x : BitVec 16), k < 8 ∧ l[k]? = some x ∧ (∀ y ∈ l, y.toInt ≤ x.toInt) ∧
        (∀ j y, j < k → l[j]? = some y → y.toInt < x.toInt) ∧
        t = s.setHub f { s.hub f with power := { (s.hub f).power with
          tf := x, sensor := BitVec.ofNat 4 k
          ht := if 1520 ≤ x.toInt then min 60 ((s.hub f).power.ht + 2)
            else if x.toInt < 1488 then (s.hub f).power.ht - 1 else (s.hub f).power.ht } } ∧
        (1680 ≤ x.toInt → 4 ≤ s.boot.done → exec (.tempSensorRead f l) s = .next (t.stop 2)) ∧
        (x.toInt < 1680 ∨ s.boot.done < 4 → exec (.tempSensorRead f l) s = .next t)) ∧
    (let low : State := { s with pins := { s.pins with coolOk := false } }
     (s.power.stopped = true → exec .coolantStop s = .next { low with power := { s.power with cause := 1 } }) ∧
      (s.power.stopped = false → s.boot.done < 3 → exec .coolantStop s = .next low) ∧
      (s.power.stopped = false → s.boot.done = 3 →
        exec .coolantStop s = .next ({ low with boot := { s.boot with err := 3, coolWait := true } } : State).refreshAlert) ∧
      (s.power.stopped = false → 4 ≤ s.boot.done → exec .coolantStop s = .next (low.stop 1))) ∧
    (let high : State := { s with pins := { s.pins with coolOk := true } }
     (s.boot.coolWait = true →
        exec .coolOkRise s = .next ({ high with boot := { s.boot with err := 0, coolWait := false } } : State).refreshAlert) ∧
      (s.boot.coolWait = false → exec .coolOkRise s = .next high))

/-- What a stop does (R29, R416, R492, R493, R497, R498): every field that takes part loses its supply and with it all it held, keeping only
what flash and fuses give it, with no entry in the ledger; the mills that serve go DOWN; a scan or run-dry that runs answers
ABORTED; HG_BOOT.ERR is COOLANT, PW_STATUS has the cause, the log a record of field 0xFF and the hottest T_f, every open episode
ends, and both ports get its notice. -/
def Claims.Stops : Prop :=
  ∀ (s : State) (cause : BitVec 2),
    let temp : BitVec 16 := BitVec.ofInt 16 s.hottest.1
    let u := (s.litFields.foldl State.fieldStops s).millsOff.abortScan fun _ => true
    let v : State := { u with
      boot := { u.boot with err := 3 }
      power := { u.power.append ⟨s.tick, 0, 0xFF, 5, 0, false, 0, temp.toInt⟩ with stopped := true, cause := cause, open_ := [] } }
    s.stop cause = (v.powerNotice 5 none temp s.power.logNext).refreshAlert ∧
    (∀ f, s.fieldStops f = (s.fieldLost f).setHub f { dark := (s.hub f).dark, power := {
      cal := (s.hub f).power.cal, trip := (s.hub f).power.trip, weights := (s.hub f).power.weights } }) ∧
    (∀ m : MillNo, s.millEnabled m = true → s.millsOff.mill m = { s.mill m with link := 1 }) ∧
    (∀ m : MillNo, s.millEnabled m = false → s.millsOff.mill m = s.mill m) ∧ s.millsOff = { s with mills := s.millsOff.mills } ∧
    (∃ f, f < 48 ∧ s.hottest.1 = (s.hub (BitVec.ofNat 6 f)).power.tf.toInt ∧ s.hottest.2 = f ∧
      (∀ g, g < 48 → (s.hub (BitVec.ofNat 6 g)).power.tf.toInt ≤ s.hottest.1) ∧
      (∀ g, g < f → (s.hub (BitVec.ofNat 6 g)).power.tf.toInt < s.hottest.1))

/-- Loss of power (R228, R440, R500, R519; log entry 3): without the input nothing more is lost; with it, all is as after reset but what
flash and fuses hold, the load identifiers given out, the levels of the pins, the host's memory and the queue. -/
def Claims.PowerLoss : Prop :=
  ∀ s : State,
    (s.pins.input = false → exec .powerLoss s = .next s) ∧
    (s.pins.input = true → ∃ t : State, exec .powerLoss s = .next t ∧
      (∀ f, t.hub f = { power := { cal := (s.hub f).power.cal, trip := (s.hub f).power.trip, weights := (s.hub f).power.weights } }) ∧
      (∀ k, t.stack k = { bad := (s.stack k).bad }) ∧ (∀ m, t.mill m = { bad := (s.mill m).bad }) ∧
      t.fw = { a := s.fw.unstage.a, b := s.fw.unstage.b, attempts := s.fw.attempts, fuse := s.fw.fuse,
               settingsA := s.fw.settingsA, settingsB := s.fw.settingsB } ∧
      t = { State.reset with
        hubs := t.hubs, gstacks := t.gstacks, mills := t.mills, fw := t.fw
        pending := s.pending, drawn := s.drawn, hostMem := s.hostMem, ledger := s.ledger
        flashMap := s.flashMap, flashEpoch := s.flashEpoch, map := s.flashMap, epoch := s.flashEpoch
        fuseComp := s.fuseComp, fuseRtr := s.fuseRtr, serial := s.serial, licence := s.licence, nextLoad := s.nextLoad
        clocks := { fosc := s.clocks.fosc }
        power := { conv := s.power.conv, stackW := s.power.stackW, millW := s.power.millW, hingeW := s.power.hingeW }
        pins := { warmHigh := s.pins.warmHigh, armed := s.pins.warmHigh, coolOk := s.pins.coolOk } })

/-- The management target, JTAG and ALERT# (R528 to R530): I3C_READ returns the read map from an index on, 0 beyond it; before stage 1
ends the target takes nothing; each JTAG instruction takes effect, EXTEST only while WARM# is low; ALERT# is low while a condition
of R528 holds, and each change of it is an in-band interrupt. -/
def Claims.ManagementPins : Prop :=
  ∀ (s : State),
    (∀ i k, s.boot.done = 0 → exec (.i3cRead i k) s = .next s) ∧
    (∀ i k, s.boot.done ≠ 0 → ∃ l : List Byte, l.length = k.toNat ∧
      (∀ j, j < k.toNat → l[j]? = some (((s.i3cMap)[i.toNat + j]?).getD 0)) ∧
      exec (.i3cRead i k) s = .next { s with pins := { s.pins with i3cOut := l }, drawn := s.drawn + 1 }) ∧
    (∀ a, s.boot.done ≠ 0 → exec (.dynamicAddressAssignment a) s = .next { s with pins := { s.pins with i3cAddr := some a } }) ∧
    (∀ a, s.boot.done = 0 → exec (.dynamicAddressAssignment a) s = .next s) ∧
    exec .bypass s = .next { s with pins := { s.pins with jtag := .bypass, extest := false } } ∧
    exec .idcode s = .next { s with pins := { s.pins with jtag := .idcode, extest := false } } ∧
    exec .samplePreload s = .next { s with pins := { s.pins with jtag := .sample, extest := false } } ∧
    (s.pins.warmHigh = false → exec .extest s = .next { s with pins := { s.pins with jtag := .extest, extest := true } }) ∧
    (s.pins.warmHigh = true → exec .extest s = .next { s with pins := { s.pins with jtag := .bypass, extest := false } }) ∧
    (s.pins.alertLow = (s.alertBits != 0) → s.refreshAlert = s) ∧
    (s.pins.alertLow ≠ (s.alertBits != 0) →
      s.refreshAlert = { s with pins := { s.pins with alertLow := s.alertBits != 0, ibis := s.pins.ibis + 1 } }) ∧
    (let bit (k : Nat) : Bool := s.alertBits / 2 ^ k % 2 == 1
     s.alertBits < 16 ∧ (bit 0 = true ↔ s.power.stopped = true) ∧ (bit 1 = true ↔ s.boot.err ≠ 0) ∧
      (bit 2 = true ↔ ∃ e ∈ s.hubs, e.2.dark = true) ∧
      (bit 3 = true ↔ ∃ e ∈ s.hubs, e.2.power.reason = 4 ∨ e.2.power.reason = 6))

/-- The bytes of the read map (R529). -/
def Claims.ReadMap : Prop :=
  ∀ s : State,
    let l := s.i3cMap
    l.length = 28 ∧ leAt l 0 8 = s.serial.toNat ∧ leAt l 8 1 = (if s.licence.full then 1 else 0) ∧
    leAt l 9 1 = s.alertBits + (if s.alertBits = 0 then 128 else 0) ∧
    (∀ r, s.hingeReg 0x30400 = some r → leAt l 10 2 = r.value.toNat / 2 ^ 16 % 2 ^ 16) ∧
    (∀ r, s.hingeReg 0x30710 = some r → leAt l 12 4 = r.value.toNat % 2 ^ 32) ∧
    leAt l 16 2 = min 0xFFFF s.power.module_ ∧ leAt l 18 2 = (BitVec.ofInt 16 s.hottest.1).toNat ∧ leAt l 20 1 = s.hottest.2 ∧
    leAt l 21 1 = ((List.range 48).filter fun f => (s.hub (BitVec.ofNat 6 f)).dark).length ∧
    leAt l 22 2 = (Config.inputVoltage s.drawn).toNat ∧ leAt l 24 4 = s.fw.version.toNat

/-! ### Ports (14, 20) -/

/-- What a function reset leaves (R307, R391, R403, R413, R415): class F fields at their reset values and slots FREE; the port's waiting
messages are lost, its running command ends without an answer, and its windows are deleted, those that packets use once they are
complete; the stewardship and the other port stay. -/
def Claims.FunctionReset : Prop :=
  ∀ (s : State) (p : PortNo), ∃ t : State, t = s.portReset p ∧
    t.port p = { linkUp := (s.port p).linkUp, perst := (s.port p).perst, bme := (s.port p).bme, msix := [] } ∧
    (∀ n, (t.port p).slotState n = 0) ∧ (∀ q, q ≠ p → t.port q = s.port q) ∧
    t.mail = s.mail.filter (fun x => x.1 != p) ∧
    t.running = s.running.map (fun r => if r.port = p then { r with live := false } else r) ∧
    t.forced = s.forced.map (fun x => if x.port = p then { x with live := false } else x) ∧
    t.dump = s.dump.map (fun x => if x.port = p then { x with live := false } else x) ∧
    (∃ one : Nat × Window → Option (Nat × Window), t.windows = s.windows.filterMap one ∧ ∀ e,
      (e.2.port ≠ p → one e = some e) ∧
      (e.2.port = p → s.windowBusy (BitVec.ofNat 6 e.1) = true → one e = some (e.1, { e.2 with closing := true })) ∧
      (e.2.port = p → s.windowBusy (BitVec.ofNat 6 e.1) = false → one e = none)) ∧
    t = { s with ports := t.ports, mail := t.mail, running := t.running, forced := t.forced, dump := t.dump, windows := t.windows }

/-- Resets and links of a port (R306, R391, R403, R415, R417, R525): where the link goes down the wains with packets to the port's
windows stop with HOSTWIN, and all but LINK stays; PERST# resets the function besides, and keeps the port from training until
it rises; a link comes up with the width and speed it has negotiated. -/
def Claims.PortEvents : Prop :=
  ∀ (s : State) (p : PortNo),
    let lost := s.failHost p
    let uses (w : Wain) : Prop := ∃ n x, Store.find? s.windows n = some x ∧ x.port = p ∧ ∃ q ∈ w.packets,
      (q.done = false ∧ ∃ h : BitVec 6, q.tgt = .host h ∧ h.toNat = n) ∨
      (∃ r ∈ q.reads, ∃ h : BitVec 6, r.2.tgt = .host h ∧ h.toNat = n) ∨ (∃ r ∈ q.todo, ∃ h : BitVec 6, r.tgt = .host h ∧ h.toNat = n)
    (∃ l : List Nat, lost = l.foldl (fun t k => t.wainError k 9) s ∧ (∀ k, k ∈ l ↔ ∃ w, (k, w) ∈ s.wains ∧ uses w)) ∧
    exec (.portReset p) s = .next (s.portReset p) ∧
    exec (.perstAssert p) s = .next ((lost.setPort p { lost.port p with
      linkUp := false, perst := true, width := 0, speed := 0, bme := false }).portReset p) ∧
    exec (.perstDeassert p) s = .next (s.setPort p { s.port p with perst := false }) ∧
    exec (.pcieLinkDown p) s = .next (lost.setPort p { lost.port p with linkUp := false }) ∧
    (∀ w g, (s.port p).perst = false → (w = 1 ∨ w = 2 ∨ w = 4 ∨ w = 8) → 1 ≤ g.toNat → g.toNat ≤ 6 →
      exec (.pcieLinkUp p w g) s = .next (s.setPort p { s.port p with linkUp := true, width := w, speed := g, bme := true })) ∧
    (∀ w g, (s.port p).perst = true ∨ ¬ (w = 1 ∨ w = 2 ∨ w = 4 ∨ w = 8) ∨ g = 0 ∨ g = 7 → exec (.pcieLinkUp p w g) s = .next s)

/-- What the configuration space of each port identifies (R1, R392, R393, R514): the subsystem is the variant in force. -/
def Claims.PortIdentity : Prop :=
  ∀ s : State, s.pciIdentity = {
    vendor := 0x1FB3, device := 0x4830, classCode := 0x120000, subVendor := 0x1FB3
    subsystem := if s.licence.full then 2 else 1
    serial := s.serial, msixVectors := 64, maxPayload := 512, maxReadReq := 4096
    bar0 := (67108864, false), bar2 := (68719476736, true) }

/-- BAR2 (R25, R399 to R401): a read returns the bytes of its viewport, piece by piece, and completes with an abort, counted, where there is
no viewport, a piece has no place or is uncorrectable, or the bridge switches; a write of the steward's port lands, or is
dropped and counted, in HG_BRIDGE where the bridge switches; a write of another port is counted and has no effect. -/
def Claims.Viewports : Prop :=
  ∀ (s : State) (p : PortNo) (off : BitVec 36),
    let aborts (t : State) : State := t.setPort p { t.port p with lastRead := none, vpAbort := satAdd (t.port p).vpAbort 1 }
    (s.switching = true ↔ ∃ k, s.switchEnd = some k ∧ s.tick < k) ∧
    (∀ len, s.switching = true → exec (.bar2Read p off len) s = .next (aborts s)) ∧
    (∀ len : BitVec 13, ∀ t l, s.switching = false → s.viewportRead p off.toNat len.toNat = (t, some l) →
      exec (.bar2Read p off len) s = .next (t.setPort p { t.port p with lastRead := some l })) ∧
    (∀ len : BitVec 13, ∀ t, s.switching = false → s.viewportRead p off.toNat len.toNat = (t, none) →
      exec (.bar2Read p off len) s = .next (aborts t)) ∧
    (∀ l, s.isSteward p = false →
      exec (.bar2Write p off l) s = .next (s.setPort p { s.port p with vpRo := satAdd (s.port p).vpRo 1 })) ∧
    (∀ l, s.isSteward p = true → s.switching = true →
      exec (.bar2Write p off l) s = .next { s with bridgeDrop := satAdd s.bridgeDrop 1 }) ∧
    (∀ l t u, s.isSteward p = true → s.switching = false → s.viewportWrite p off.toNat l = (t, some u) →
      exec (.bar2Write p off l) s = .next u) ∧
    (∀ l t, s.isSteward p = true → s.switching = false → s.viewportWrite p off.toNat l = (t, none) →
      exec (.bar2Write p off l) s = .next (t.setPort p { t.port p with vpDrop := satAdd (t.port p).vpDrop 1 })) ∧
    (∀ o n l, Store.find? (s.port p).views (o / 2 ^ 32) = none →
      s.viewportRead p o n = (s, none) ∧ s.viewportWrite p o l = (s, none)) ∧
    (∀ o n l v, Store.find? (s.port p).views (o / 2 ^ 32) = some v →
      (∀ t, s.viewPieces v false (viewRuns (o % 2 ^ 32) n) = (t, none) → s.viewportRead p o n = (t, none)) ∧
      (∀ t x, s.viewPieces v false (viewRuns (o % 2 ^ 32) n) = (t, some x) → s.viewportRead p o n = t.viewRead x) ∧
      (∀ t, s.viewPieces v true (viewRuns (o % 2 ^ 32) l.length) = (t, none) → s.viewportWrite p o l = (t, none)) ∧
      (∀ t x, s.viewPieces v true (viewRuns (o % 2 ^ 32) l.length) = (t, some x) →
        s.viewportWrite p o l = (t, some (t.viewWrite x l))))

/-- The place of an offset of a viewport (R400): the granary at its base, through the hinge's cache of the map, where the hinge reaches the
stack; a cell of the plot in row order, where the hinge reaches it; none elsewhere. -/
def Claims.ViewPlaces : Prop :=
  ∀ (s : State) (v : View) (o : Nat) (w : Bool),
    (v.kind = 1 → 2 ^ 42 ≤ v.base.toNat + o → s.viewPlace v o w = (s, none)) ∧
    (v.kind = 1 → v.base.toNat + o < 2 ^ 42 → ∀ t x, s.hingeTranslate (v.base.toNat + o) w = (t, x) →
      (∀ a, x = .phys a → t.hingeReaches (.hub (stackField (physStack a)) (stackUnit (physStack a)) 0) = true →
        s.viewPlace v o w = (t, some (.gran a))) ∧
      (∀ a, x = .phys a → t.hingeReaches (.hub (stackField (physStack a)) (stackUnit (physStack a)) 0) = false →
        s.viewPlace v o w = (t, none)) ∧
      ((∀ a, x ≠ .phys a) → s.viewPlace v o w = (t, none))) ∧
    (v.kind ≠ 1 →
      let q := s.plot v.plot
      let px := v.px0 + o / 2 ^ 21 % v.width
      let py := v.py0 + o / 2 ^ 21 / v.width
      let c := q.cellAt px py
      let ok : Prop := q.holds = true ∧ px < q.width.toNat ∧ py < q.height.toNat ∧ s.isHole c = false ∧
        (s.cell c).lockedOut = false ∧ s.hingeReaches (.cell c) = true
      (ok → s.viewPlace v o w = (s, some (.loft c (o % 2 ^ 21)))) ∧ (¬ ok → s.viewPlace v o w = (s, none))) ∧
    (∀ e, s.bridge = 2 ∨ s.dormant = true ∨ (s.hub s.hingeField).powered = false → s.hingeReaches e = false)

/-- The pieces of a BAR2 request, and their bytes (R167, R298, R400, R401): each piece of a run between multiples of 2^21 has its place
or none has; reads are checked, with the sources of BAR2, and one uncorrectable piece spoils the request; writes land piece
by piece. -/
def Claims.ViewPieces : Prop :=
  ∀ (s : State) (v : View) (w : Bool) (bs : List Byte),
    s.viewPieces v w [] = (s, some []) ∧ s.viewRead [] = (s, some []) ∧ s.viewWrite [] bs = s ∧
    (∀ o n l t, s.viewPlace v o w = (t, none) → s.viewPieces v w ((o, n) :: l) = (t, none)) ∧
    (∀ o n l t x u, s.viewPlace v o w = (t, some x) → t.viewPieces v w l = (u, none) → s.viewPieces v w ((o, n) :: l) = (u, none)) ∧
    (∀ o n l t x u r, s.viewPlace v o w = (t, some x) → t.viewPieces v w l = (u, some r) →
      s.viewPieces v w ((o, n) :: l) = (u, some ((x, n) :: r))) ∧
    (∀ x n l t b bad, (match x with | .gran a => s.granRead a n 5 | .loft c a => s.loftRead c a n 2) = (t, b, bad) →
      (bad = true → s.viewRead ((x, n) :: l) = (t, none)) ∧
      (∀ u r, bad = false → t.viewRead l = (u, some r) → s.viewRead ((x, n) :: l) = (u, some (b ++ r))) ∧
      (∀ u, bad = false → t.viewRead l = (u, none) → s.viewRead ((x, n) :: l) = (u, none))) ∧
    (∀ a n l, s.viewWrite ((.gran a, n) :: l) bs = (s.granWrite a (bs.take n)).viewWrite l (bs.drop n)) ∧
    (∀ c a n l, s.viewWrite ((.loft c a, n) :: l) bs = (s.loftPut c a (bs.take n)).viewWrite l (bs.drop n))

/-! ### Registers (00, 14) -/

/-- The fields of a register (R7): a write of part of it puts its RW fields there and clears the W1C bits written as 1, and the rest stays;
a clear leaves its RC fields there 0; a WO register reads as 0. -/
def Claims.FieldMasks : Prop :=
  ∀ (s : State) (v : RegView) (part x : DWord),
    (∃ y : DWord, v.write part x = v.store y ∧ ∀ i, y.getLsbD i =
      ((if v.rw.getLsbD i && part.getLsbD i then x.getLsbD i else v.value.getLsbD i) &&
        !(v.w1c.getLsbD i && part.getLsbD i && x.getLsbD i))) ∧
    (v.rc &&& part = 0 → v.clear part s = s) ∧
    (v.rc &&& part ≠ 0 → ∃ y : DWord, v.clear part s = v.store y ∧ ∀ i, y.getLsbD i =
      (v.value.getLsbD i && !(v.rc.getLsbD i && part.getLsbD i))) ∧
    v.shown = (if v.wo then 0 else v.value)

/-- Reads of a block (R6, R10): a 32-bit register reads as its value; the low half of a 64-bit register captures the high half, which the
next read returns where it is that of offset + 4; a 64-bit read takes both at once; what may be cleared is cleared as the half
that is read says. -/
def Claims.SplitReads : Prop :=
  ∀ (s : State) (r : Requester) (b : RegBlock) (off : Nat) (clears : Bool),
    let x := s.acc r b
    let cleared (v : RegView) (part : DWord) : State := if clears then v.clear part s else s
    let high (v : RegView) : DWord := v.shown.extractLsb' 32 32 |>.setWidth 64
    (s.regAt b off = none → s.read32 r b off clears = (s.setAcc r b {}, 0)) ∧
    (∀ v, s.regAt b off = some v → v.wide = false →
      s.read32 r b off clears = ((cleared v lowMask).setAcc r b {}, v.shown.setWidth 32)) ∧
    (∀ v, s.regAt b off = some v → v.wide = true → v.base = off → s.read32 r b off clears =
      ((cleared v (lowMask ||| highMask)).setAcc r b ⟨some (off, (high v).setWidth 32), x.heldAt off⟩, v.shown.setWidth 32)) ∧
    (∀ v, s.regAt b off = some v → v.wide = true → v.base ≠ off →
      (∀ h, x.snap = some (v.base, h) → s.read32 r b off clears = (s.setAcc r b ⟨none, x.heldAt v.base⟩, h)) ∧
      ((∀ h, x.snap ≠ some (v.base, h)) → s.read32 r b off clears =
        ((cleared v highMask).setAcc r b ⟨none, x.heldAt v.base⟩, (high v).setWidth 32))) ∧
    (∀ v, s.regAt b off = some v → v.wide = true →
      s.read64 r b off clears = ((cleared v (lowMask ||| highMask)).setAcc r b {}, v.shown)) ∧
    ((∀ v, s.regAt b off = some v → v.wide = false) → ∀ t lo u hi, s.read32 r b off clears = (t, lo) →
      t.read32 r b (off + 4) clears = (u, hi) → s.read64 r b off clears = (u, hi ++ lo))

/-- Writes of a block (R7, R10): the low half of a 64-bit register is held, and the write of its high half commits both; without a held half
the high half alone is written; an access to another register discards it; an offset without a register takes nothing. -/
def Claims.SplitWrites : Prop :=
  ∀ (s : State) (r : Requester) (b : RegBlock) (off : Nat) (x : Word) (d : DWord),
    (s.regAt b off = none → s.write32 r b off x = s.setAcc r b {}) ∧
    (∀ v, s.regAt b off = some v → v.wide = false → s.write32 r b off x = (v.write lowMask (x.setWidth 64)).setAcc r b {}) ∧
    (∀ v, s.regAt b off = some v → v.wide = true → v.base = off → s.write32 r b off x = s.setAcc r b ⟨none, some (off, x)⟩) ∧
    (∀ v, s.regAt b off = some v → v.wide = true → v.base ≠ off →
      (∀ lo, (s.acc r b).held = some (v.base, lo) →
        s.write32 r b off x = (v.write (lowMask ||| highMask) (x ++ lo)).setAcc r b {}) ∧
      ((∀ lo, (s.acc r b).held ≠ some (v.base, lo)) →
        s.write32 r b off x = (v.write highMask (x ++ (0 : Word))).setAcc r b {})) ∧
    (∀ v, s.regAt b off = some v → v.wide = true → s.write64 r b off d = (v.write (lowMask ||| highMask) d).setAcc r b {}) ∧
    ((∀ v, s.regAt b off = some v → v.wide = false) → s.write64 r b off d =
      (s.write32 r b off (d.extractLsb' 0 32)).write32 r b (off + 4) (d.extractLsb' 32 32))

/-- Reads in BAR0 (R394 to R398, R405, R413, R414): a read of a size that the region does not take aborts; so does one of the space of a dark
field, which a port counts; a register reads by R10, and RC fields stay where another port than the steward's reads a shared block;
slots, ring, MSI-X table and PBA read as the port holds them, the mirror as R398 gives it, and all else as 0. -/
def Claims.BarReads : Prop :=
  ∀ (s : State) (r : Requester) (off : BitVec 26) (wide : Bool),
    let n := if wide then 8 else 4
    let g := regionOf r off.toNat
    let fit : Prop := (∀ o, g = .slots o → off.toNat % 128 + n ≤ 128) ∧ (∀ o, g = .ring o → off.toNat % 128 + n ≤ 128) ∧
      ((∀ o, g ≠ .slots o ∧ g ≠ .ring o) → off.toNat % n = 0)
    let reads (x : Option DWord) : Prop := exec (.registerRead r off wide) s = .next { s with regOut := x }
    (¬ fit → reads none) ∧
    (fit → s.hubGone g = true → (∀ p, r = .port p → exec (.registerRead r off wide) s =
        .next { s.setPort p { s.port p with vpAbort := satAdd (s.port p).vpAbort 1 } with regOut := none }) ∧
      ((∀ p, r ≠ .port p) → reads none)) ∧
    (fit → s.hubGone g = false →
      (∀ b o t x, g = .regs b o → wide = false → s.read32 r b o (s.clearsRc r g) = (t, x) →
        exec (.registerRead r off wide) s = .next { t with regOut := some (x.setWidth 64) }) ∧
      (∀ b o t x, g = .regs b o → wide = true → s.read64 r b o (s.clearsRc r g) = (t, x) →
        exec (.registerRead r off wide) s = .next { t with regOut := some x }) ∧
      (∀ o p, g = .slots o → r = .port p → reads (some (BitVec.ofNat 64 (leNat ((s.port p).mbox.readBytes o n))))) ∧
      (∀ o p, g = .ring o → r = .port p → reads (some (BitVec.ofNat 64 (leNat ((s.port p).ringBytes o n))))) ∧
      (∀ o, g = .mirror o → reads (some (BitVec.ofNat 64 (leAt s.mirror o n)))) ∧
      (∀ o p, g = .msix o → r = .port p →
        (wide = false → reads (some (((s.port p).msixWord (o / 4)).setWidth 64))) ∧
        (wide = true → reads (some ((s.port p).msixWord (o / 4 + 1) ++ (s.port p).msixWord (o / 4))))) ∧
      (∀ o p, g = .pba o → r = .port p → reads (some (BitVec.ofNat 64 ((s.port p).pend.toNat / 2 ^ (8 * o) % 2 ^ (8 * n))))) ∧
      (g = .none → reads (some 0))) ∧
    ((∀ f o, g = .regs (.hub f) o → (s.hubGone g = true ↔ (s.hub f).dark = true ∨ s.unreachable = true)) ∧
      ((∀ f o, g ≠ .regs (.hub f) o) → s.hubGone g = false)) ∧
    (s.clearsRc r g = false ↔ ∃ p, r = .port p ∧ s.isSteward p = false ∧ ∀ q o, g ≠ .regs (.port q) o)

/-- The map of BAR0 (R394), and the bytes of the mirror (R398). -/
def Claims.BarMap : Prop :=
  ∀ (s : State) (r : Requester) (p : PortNo) (k : Nat),
    (k < 0x1000 → regionOf (.port p) k = .regs (.port p) k) ∧ (k < 0x10000 → regionOf (.port p) (0x10000 + k) = .slots k) ∧
    (k < 0x10000 → regionOf (.port p) (0x20000 + k) = .ring k) ∧ (k < 0x1000 → regionOf (.port p) (0x30000 + k) = .mirror k) ∧
    (k < 0x400 → regionOf (.port p) (0x40000 + k) = .msix k) ∧ (k < 8 → regionOf (.port p) (0x41000 + k) = .pba k) ∧
    (k < 0x100000 → regionOf r (0x100000 + k) = .regs .hinge k) ∧
    (∀ f : FieldNo, f.toNat < 48 → k < 0x10000 → regionOf r (0x1000000 + f.toNat * 0x10000 + k) = .regs (.hub f) k) ∧
    s.mirror.length = 448 ∧ (s.tick < 2 ^ 64 → leAt s.mirror 0 8 = s.tick) ∧ leAt s.mirror 8 4 = s.epoch.toNat ∧
    leAt s.mirror 12 4 = s.steward.reg.toNat ∧
    leAt s.mirror 16 1 = (if s.plan.isSome then 1 else 0) + (if s.unreachable then 2 else 0) + (if s.bridge = 1 then 4 else 0) ∧
    leAt s.mirror 17 47 = 0 ∧
    (∀ q : PlotId, q.toNat < 96 → leAt s.mirror (64 + 4 * q.toNat) 4 = (s.plot q).prev.toNat * 2 ^ 20 + (s.plot q).season.toNat * 2 ^ 16 +
      (s.plot q).config.toNat * 2 ^ 12 + (s.plot q).state.code)

/-- Writes in BAR0 (R10, R272, R395 to R397, R405, R413, R414): a write that breaks the size limits is counted as BADACC; a port's own
registers take every write of its; a shared block takes those of the steward's port, and counts others as ROWRITE; a write to a dark
field's space is dropped and counted; gates and slot tables take none; the dropped ones discard what the port held. -/
def Claims.BarWrites : Prop :=
  ∀ (s : State) (p : PortNo) (off : Nat) (x : Word),
    let g := regionOf (.port p) off
    let bad : State := s.setPort p { s.port p with mbBad := satAdd (s.port p).mbBad 1 }
    let ro : State := s.setPort p { s.port p with mbRo := satAdd (s.port p).mbRo 1 }
    let gone : State := s.setPort p { s.port p with vpDrop := satAdd (s.port p).vpDrop 1 }
    ((∀ o, g = .slots o ∨ g = .ring o → off % 128 + 4 ≤ 128) → ((∀ o, g ≠ .slots o ∧ g ≠ .ring o) → off % 4 = 0) →
      (∀ o, g = .regs (.port p) o → s.barWrite p off x none = s.write32 (.port p) (.port p) o x) ∧
      (∀ b o, g = .regs b o → (∀ q, b ≠ .port q) →
        (s.isSteward p = false → s.barWrite p off x none = ro.setAcc (.port p) b {}) ∧
        (s.isSteward p = true → s.hubGone g = true → s.barWrite p off x none = gone.setAcc (.port p) b {}) ∧
        (s.isSteward p = true → s.hubGone g = false → (∃ f, b = .hub f ∧ 0x2000 ≤ o ∧ o < 0xC000) →
          s.barWrite p off x none = s.setAcc (.port p) b {}) ∧
        (s.isSteward p = true → s.hubGone g = false → (¬ ∃ f, b = .hub f ∧ 0x2000 ≤ o ∧ o < 0xC000) →
          s.barWrite p off x none = s.write32 (.port p) b o x)) ∧
      (∀ o, g = .slots o → s.barWrite p off x none = s.slotWrite p o x) ∧
      (∀ o, g = .msix o → s.barWrite p off x none = s.setPort p ((s.port p).msixWrite (o / 4) x)) ∧
      (∀ o, g = .mirror o → s.barWrite p off x none = if s.isSteward p then s else ro) ∧
      ((∃ o, g = .ring o) ∨ (∃ o, g = .pba o) ∨ g = .none → s.barWrite p off x none = s)) ∧
    ((∃ o, (g = .slots o ∨ g = .ring o) ∧ 128 < off % 128 + 4) ∨ ((∀ o, g ≠ .slots o ∧ g ≠ .ring o) ∧ off % 4 ≠ 0) →
      s.barWrite p off x none = bad) ∧
    (∀ y, (∀ o, g = .slots o ∨ g = .ring o → off % 128 + 8 ≤ 128) → ((∀ o, g ≠ .slots o ∧ g ≠ .ring o) → off % 8 = 0) →
      (∀ o, g = .regs (.port p) o → s.barWrite p off x (some y) = s.write64 (.port p) (.port p) o (y ++ x)) ∧
      (∀ b o, g = .regs b o → (∀ q, b ≠ .port q) →
        (s.isSteward p = false → s.barWrite p off x (some y) = ro.setAcc (.port p) b {}) ∧
        (s.isSteward p = true → s.hubGone g = true → s.barWrite p off x (some y) = gone.setAcc (.port p) b {}) ∧
        (s.isSteward p = true → s.hubGone g = false → (∃ f, b = .hub f ∧ 0x2000 ≤ o ∧ o < 0xC000) →
          s.barWrite p off x (some y) = s.setAcc (.port p) b {}) ∧
        (s.isSteward p = true → s.hubGone g = false → (¬ ∃ f, b = .hub f ∧ 0x2000 ≤ o ∧ o < 0xC000) →
          s.barWrite p off x (some y) = s.write64 (.port p) b o (y ++ x))) ∧
      (∀ o, g = .slots o → s.barWrite p off x (some y) = (s.slotWrite p (o + 4) y).slotWrite p o x) ∧
      (∀ o, g = .msix o → s.barWrite p off x (some y) =
        s.setPort p (((s.port p).msixWrite (o / 4) x).msixWrite (o / 4 + 1) y)) ∧
      (∀ o, g = .mirror o → s.barWrite p off x (some y) = if s.isSteward p then s else ro) ∧
      ((∃ o, g = .ring o) ∨ (∃ o, g = .pba o) ∨ g = .none → s.barWrite p off x (some y) = s)) ∧
    (∀ y, (∃ o, (g = .slots o ∨ g = .ring o) ∧ 128 < off % 128 + 8) ∨ ((∀ o, g ≠ .slots o ∧ g ≠ .ring o) ∧ off % 8 ≠ 0) →
      s.barWrite p off x (some y) = bad)

/-- REGISTER_WRITE (R10, R272, R395, R396): a port's write is one in BAR0, its high half at offset + 4; the ward's writes reach every
block, gates and slot tables too, but for those of a dark field; a hub's or a cell's write none. -/
def Claims.RegisterWrites : Prop :=
  ∀ (s : State) (off : BitVec 26) (x : Word) (y : DWord),
    (∀ p, exec (.registerWrite (.port p) off (.low x)) s = .next (s.barWrite p off.toNat x none) ∧
      exec (.registerWrite (.port p) off (.high x)) s = .next (s.barWrite p (off.toNat + 4) x none) ∧
      exec (.registerWrite (.port p) off (.full y)) s =
        .next (s.barWrite p off.toNat (y.extractLsb' 0 32) (some (y.extractLsb' 32 32)))) ∧
    (∀ b o, regionOf .ward off.toNat = .regs b o →
      (s.hubGone (.regs b o) = false →
        exec (.registerWrite .ward off (.low x)) s = .next (s.write32 .ward b o x) ∧
        exec (.registerWrite .ward off (.high x)) s = .next (s.write32 .ward b (o + 4) x) ∧
        exec (.registerWrite .ward off (.full y)) s = .next (s.write64 .ward b o y)) ∧
      (s.hubGone (.regs b o) = true → ∀ w, exec (.registerWrite .ward off w) s = .next s)) ∧
    ((∀ b o, regionOf .ward off.toNat ≠ .regs b o) → ∀ w, exec (.registerWrite .ward off w) s = .next s) ∧
    (∀ f w, exec (.registerWrite (.hub f) off w) s = .next s) ∧ (∀ c w, exec (.registerWrite (.cell c) off w) s = .next s)

/-- The masks and the effects of the registers with a command of their own: where each stands, and what a write leaves. -/
def Claims.RegisterPlaces : Prop :=
  ∀ (s : State) (p : PortNo),
    (∃ v, s.regAt .hinge 0x30200 = some v ∧ v.base = 0x30200 ∧ v.wide = true ∧ v.wo = true ∧ v.rw = 0x001FFFFFFFFFFFFF ∧
      ∀ y, v.store y = s.writeRank y) ∧
    (∃ v, s.regAt .hinge 0x30208 = some v ∧ v.base = 0x30208 ∧ v.wide = true ∧ v.wo = true ∧ v.rw = 0x00000FFFFFFFFFFF ∧
      ∀ y, v.store y = s.writeRoute y) ∧
    (∃ v, s.regAt .hinge 0x30210 = some v ∧ v.wide = false ∧ v.w1c = 2 ∧
      v.value = BitVec.ofNat 64 ((if s.badEnt then 2 else 0) + (if s.rankBusy then 1 else 0)) ∧
      ∀ y, v.store y = { s with badEnt := y.getLsbD 1 }) ∧
    (∃ v, s.regAt .hinge 0x30614 = some v ∧ v.wide = false ∧ v.rw = 0x1F7F ∧ ∀ y, v.store y = s.writeSsc y) ∧
    (∃ v, s.regAt .hinge 0x30618 = some v ∧ v.wide = false ∧ v.rw = 0x7F00FFFF ∧ ∀ y, v.store y = s.writeClkmon y) ∧
    (∃ v, s.regAt (.port p) 0x014 = some v ∧ v.wide = false ∧ v.rw = lowMask ∧ v.value = (s.port p).cons.setWidth 64 ∧
      ∀ y, v.store y = s.setPort p ((s.port p).writeCons (y.setWidth 32))) ∧
    (∀ f : FieldNo, let h := s.hub f
      (∃ v, s.regAt (.hub f) 0xC04 = some v ∧ v.wide = false ∧ v.rc = lowMask ∧ v.rw = 0 ∧ v.value = h.cecnt.setWidth 64 ∧
        ∀ y, v.store y = s.setHub f { h with cecnt := y.setWidth 32 }) ∧
      (∃ v, s.regAt (.hub f) 0xC08 = some v ∧ v.wide = true ∧ v.rc = 0 ∧ v.w1c = 0x8000000000000000 ∧ v.value = h.uelog ∧
        ∀ y, v.store y = s.setHub f { h with uelog := y }) ∧
      (∃ v, s.regAt (.hub f) 0xC10 = some v ∧ v.wide = false ∧ v.rc = lowMask ∧ v.value = h.uecnt.setWidth 64 ∧
        ∀ y, v.store y = s.setHub f { h with uecnt := y.setWidth 32 }) ∧
      (∃ v, s.regAt (.hub f) 0xD00 = some v ∧ v.wide = false ∧ v.rc = lowMask ∧ v.value = h.dropcnt.setWidth 64 ∧
        ∀ y, v.store y = s.setHub f { h with dropcnt := y.setWidth 32 }) ∧
      (∃ v, s.regAt (.hub f) 0xD10 = some v ∧ v.wide = true ∧ v.w1c = 0x8000000000000000 ∧ v.value = h.droplog ∧
        ∀ y, v.store y = s.setHub f { h with droplog := y }))

/-- Registers with a command of their own (R337, R338, R413, R477, R479): HG_NOTICE_CONS, HG_RANK_WR, HG_ROUTE_WR, CK_SSC and CK_CLKMON are
written as the port's writes at their offsets; each takes what the rules allow and leaves the rest; a table entry is broadcast to
every enabled mill, and HG_RANK_STATUS.BUSY shows it until it is done. -/
def Claims.NamedRegisters : Prop :=
  ∀ (s : State) (p : PortNo),
    (∀ v, exec (.noticeConsWrite p v) s = .next (s.barWrite p 0x14 v none)) ∧
    (∀ v, exec (.ckSscWrite p v) s = .next (s.barWrite p 0x130614 v none)) ∧
    (∀ v, exec (.ckClkmonWrite p v) s = .next (s.barWrite p 0x130618 v none)) ∧
    (∀ w, exec (.hgRankWr p w) s = exec (.registerWrite (.port p) 0x130200 w) s) ∧
    (∀ w, exec (.hgRouteWr p w) s = exec (.registerWrite (.port p) 0x130208 w) s) ∧
    exec .rankBroadcastDone s = .next { s with rankBusy := false } ∧
    (∀ (x : Port) (v : Word), (0 < (v - x.prod).toInt → x.writeCons v = { x with mbSlot := satAdd x.mbSlot 1 }) ∧
      ((v - x.prod).toInt ≤ 0 → x.writeCons v = Port.drainHeld 4096 { x with cons := v }) ∧
      (∀ n, x.noticesHeld = [] ∨ x.ringFull = true → Port.drainHeld n x = x) ∧
      (∀ n a l, x.noticesHeld = a :: l → x.ringFull = false →
        Port.drainHeld (n + 1) x = Port.drainHeld n ({ x with noticesHeld := l }.writeNotice a))) ∧
    (∀ v : DWord,
      let ok : Prop := bits v 12 8 ≤ 20 ∧ 50 ≤ bits v 6 0 ∧ bits v 6 0 ≤ 125
      (ok → s.writeSsc v = ({ s with clocks := { s.clocks with
        ssc := (BitVec.ofNat 5 (bits v 12 8), BitVec.ofNat 7 (bits v 6 0)) } } : State).settingChanged 0x30614 (leBytes 4 v.toNat)) ∧
      (¬ ok → s.writeSsc v = s)) ∧
    (∀ v : DWord,
      (69 ≤ bits v 30 24 ∧ bits v 30 24 ≤ 126 → s.writeClkmon v = s) ∧
      (bits v 30 24 < 69 ∨ bits v 30 24 = 127 → s.writeClkmon v = ({ s with clocks := { s.clocks with
        monSel := BitVec.ofNat 7 (bits v 30 24), monDiv := BitVec.ofNat 16 (bits v 15 0) } } : State).settingChanged 0x30618
          (leBytes 4 v.toNat))) ∧
    (∀ x : DWord,
      let e : Word := BitVec.ofNat 32 (bits x 31 0)
      let r : Rank := BitVec.ofNat 21 (bits x 52 32)
      (rankOk e = true → ∃ t : State, t = s.writeRank x ∧
        (∀ m, s.millEnabled m = true → Store.get 0 t.ranks (rankKey m r.toNat) = e) ∧
        (∀ k, (∀ m, s.millEnabled m = true → k ≠ rankKey m r.toNat) → Store.get 0 t.ranks k = Store.get 0 s.ranks k) ∧
        (∀ m, t.mill m = { s.mill m with rankCache := (s.mill m).rankCache.filter fun c => c.1 != r }) ∧
        t = { s with rankWr := x, ranks := t.ranks, mills := t.mills, rankBusy := true }) ∧
      (rankOk e = false → s.writeRank x = { s with rankWr := x, badEnt := true })) ∧
    (∀ x : DWord,
      let e : Word := BitVec.ofNat 32 (bits x 31 0) &&& 0xE00FFFFF
      let ok : Prop := e.msb = true → ∀ m ∈ routeMills e, (s.mill m).licensed = true
      (ok → ∃ t : State, t = s.writeRoute x ∧
        (∀ m, s.millEnabled m = true → Store.get 0 t.routes (routeKey m (bits x 43 32)) = e) ∧
        (∀ k, (∀ m, s.millEnabled m = true → k ≠ routeKey m (bits x 43 32)) → Store.get 0 t.routes k = Store.get 0 s.routes k) ∧
        t = { s with routeWr := x, routes := t.routes, rankBusy := true }) ∧
      (¬ ok → s.writeRoute x = { s with routeWr := x, badEnt := true }))

/-- HUB_REGISTER_WRITE (R10, R420): a CONTROL packet of the ward writes the words of its payload to consecutive registers, each as a 32-bit
access of the ward. -/
def Claims.HubWrites : Prop :=
  ∀ (s : State) (src : Endpoint) (f : FieldNo) (off : BitVec 16) (l : List Byte),
    Claims.controlled s src f 0x02 (off.setWidth 32) l (fun t => t.hubPut f l.length l off.toNat)
      (exec (.hubRegisterWrite src f off l) s) ∧
    (∀ n o, l.length < 4 → s.hubPut f n l o = s) ∧ (∀ o, s.hubPut f 0 l o = s) ∧
    (∀ n o, 4 ≤ l.length → s.hubPut f (n + 1) l o =
      (s.write32 .ward (.hub f) o (BitVec.ofNat 32 (leAt l 0 4))).hubPut f n (l.drop 4) (o + 4))

/-! ### Firmware and licences (19) -/

/-- The checks of an image, in order (R501 to R503, R506): format, security version, blocks, signature, tags; the first that fails
gives the detail. -/
def Claims.ImageChecks : Prop :=
  ∀ (fuse : Nat) (l : List Byte),
    let b := leAt l 6 2
    let format : Prop := l.length = 256 + 65536 * b + 384 ∧ 1 ≤ b ∧ b ≤ 4095 ∧ leAt l 0 4 = 0x4D574653 ∧ leAt l 4 2 = 1 ∧
      leAt l 8 4 ≤ 65512 * b ∧ 65512 * (b - 1) < leAt l 8 4 ∧ leAt l 16 1 ≤ 64 ∧ (∀ x ∈ (l.drop 21).take 3, x = 0) ∧
      (∀ x ∈ (l.drop 32).take 224, x = 0)
    let block (n : Nat) : List Byte := (l.drop (256 + 65536 * n)).take 65536
    let sound : Prop := ∀ n, n < b → leAt (block n) 65528 4 = n ∧ leAt (block n) 65532 4 = (crc32c ((block n).take 65532)).toNat
    (¬ format → imageBad fuse l = some 5) ∧ (format → leAt l 16 1 < fuse → imageBad fuse l = some 2) ∧
    (format → fuse ≤ leAt l 16 1 → ¬ sound → imageBad fuse l = some 4) ∧
    (format → fuse ≤ leAt l 16 1 → sound → Config.imageSigned l = false → imageBad fuse l = some 1) ∧
    (format → fuse ≤ leAt l 16 1 → sound → Config.imageSigned l = true → Config.imageTagsOk l = false → imageBad fuse l = some 3) ∧
    (format → fuse ≤ leAt l 16 1 → sound → Config.imageSigned l = true → Config.imageTagsOk l = true → imageBad fuse l = none)

/-- The start of the ward (R505, R507, R508): the fuse counter rises to a CONFIRMED image's version and what lies below it is
RETIRED; the TRIAL slot starts, else the CONFIRMED one, and after a rejection a STAGED one; a slot that fails, or a trial started
three times, is REJECTED and the next is tried; a PENDING slot becomes TRIAL. -/
def Claims.SlotStarts : Prop :=
  ∀ x : Firmware,
    let sec (v : FwSlot) : Nat := leAt v.image 16 1
    let fuse : Nat := max (max x.fuse (if x.a.state = 5 then sec x.a else 0)) (if x.b.state = 5 then sec x.b else 0)
    let retired (v : FwSlot) : FwSlot :=
      if (v.state = 2 ∨ v.state = 3 ∨ v.state = 4 ∨ v.state = 5) ∧ sec v < fuse then { v with state := 7 } else v
    x.raise = { x with fuse := fuse, a := retired x.a, b := retired x.b } ∧
    (x.a.state = 4 → ∀ f, x.pick f = some false) ∧ (x.a.state ≠ 4 → x.b.state = 4 → ∀ f, x.pick f = some true) ∧
    (x.a.state ≠ 4 → x.b.state ≠ 4 → x.a.state = 5 → ∀ f, x.pick f = some false) ∧
    (x.a.state ≠ 4 → x.b.state ≠ 4 → x.a.state ≠ 5 → x.b.state = 5 → ∀ f, x.pick f = some true) ∧
    (x.a.state ≠ 4 → x.b.state ≠ 4 → x.a.state ≠ 5 → x.b.state ≠ 5 →
      x.pick false = none ∧ x.pick true = (if x.a.state = 2 then some false else if x.b.state = 2 then some true else none)) ∧
    (∀ f, x.start 0 f = (x, false)) ∧ (∀ n f, x.pick f = none → x.start (n + 1) f = (x, false)) ∧
    (∀ n f b, x.pick f = some b →
      let v := x.slot b
      let bad : Prop := (v.state = 4 ∧ x.attempts = 3) ∨ Config.imageSigned v.image = false ∨ Config.imageTagsOk v.image = false
      (bad → x.start (n + 1) f = (x.mark b 6).start n true) ∧
      (¬ bad → x.start (n + 1) f = ({ x with
        running := b, attempts := (if v.state = 4 then x.attempts + 1 else x.attempts)
        version := BitVec.ofNat 32 (leAt v.image 12 4), secver := BitVec.ofNat 7 (sec v) }, true))) ∧
    (x.a.state = 3 → x.promote = { x.mark false 4 with attempts := 0 }) ∧
    (x.a.state ≠ 3 → x.b.state = 3 → x.promote = { x.mark true 4 with attempts := 0 }) ∧
    (x.a.state ≠ 3 → x.b.state ≠ 3 → x.promote = x) ∧
    (x.slot false = x.a ∧ x.slot true = x.b ∧ (∀ k, x.mark false k = { x with a := { x.a with state := k } }) ∧
      (∀ k, x.mark true k = { x with b := { x.b with state := k } }) ∧ (∀ v, x.setSlot false v = { x with a := v }) ∧
      (∀ v, x.setSlot true v = { x with b := v })) ∧
    x.unstage = { x with a := (if x.a.state = 1 then {} else x.a), b := (if x.b.state = 1 then {} else x.b) }

/-- FW_STAGE, FW_ACTIVATE and FW_CONFIRM (R506 to R508; log entry 79): an accepted FW_STAGE marks the slot that does not run STAGING, and at the
end of the transfer the slot is STAGED, or EMPTY where the image cannot be read or fails a check; an activation marks it PENDING
or restarts the ward ten milliseconds on; a confirmed image raises the fuse counter. -/
def Claims.FirmwareCommands : Prop :=
  ∀ (s : State) (p : PortNo) (n : SlotNo),
    (∀ o, s.ComesToMail p n o → s.MailPasses p n o →
      let m := s.mailStarted p n
      let l := (s.port p).payload n
      let other := !s.fw.running
      let st := (s.fw.slot other).state
      let a : DWord := BitVec.ofNat 64 (leAt l 0 8)
      let ans (t : State) (x : Answer) : Host.Outcome State Fault Refusal := .next (t.mailAnswer s p n o x)
      (o.code = 0x50 →
        (st = 4 ∨ st = 3 ∨ (s.fw.slot s.fw.running).state = 4 → exec (.fwStage p n) s = ans m (refuse 5 0xFFFF)) ∧
        (st ≠ 4 → st ≠ 3 → (s.fw.slot s.fw.running).state ≠ 4 →
          ((space a ≠ 1 ∧ space a ≠ 2) ∨ rsvdAddr a = true → exec (.fwStage p n) s = ans m (badField 0)) ∧
          ((space a = 1 ∨ space a = 2) → rsvdAddr a = false → exec (.fwStage p n) s = .next { m with
            fw := s.fw.setSlot other ⟨1, []⟩, running := some ⟨p, n, (s.port p).opword n, l, true, .stage⟩ }))) ∧
      (o.code = 0x51 →
        (2 ≤ leAt l 0 1 → exec (.fwActivate p n) s = ans m (badField 0)) ∧
        (leAt l 0 1 < 2 → st ≠ 2 → st ≠ 3 → exec (.fwActivate p n) s = ans m (refuse 5 0xFFFF)) ∧
        (leAt l 0 1 = 0 → st = 2 ∨ st = 3 →
          exec (.fwActivate p n) s = ans { m with fw := { s.fw with activate := some (s.tick + 1000000) } } (okWith [])) ∧
        (leAt l 0 1 = 1 → st = 2 ∨ st = 3 → exec (.fwActivate p n) s = ans { m with fw := s.fw.mark other 3 } (okWith []))) ∧
      (o.code = 0x52 →
        ((s.fw.slot s.fw.running).state ≠ 4 → exec (.fwConfirm p n) s = ans m (refuse 5 0xFFFF)) ∧
        ((s.fw.slot s.fw.running).state = 4 → ∃ fuse : Nat,
          fuse = max s.fw.fuse (leAt (s.fw.slot s.fw.running).image 16 1) ∧
          exec (.fwConfirm p n) s = ans { m with fw := { (s.fw.mark s.fw.running 5).mark other
            (if leAt (s.fw.slot other).image 16 1 < fuse then 7 else 2) with fuse := fuse } } (okWith [])))) ∧
    (∀ w l live, s.running = some ⟨p, n, w, l, live, .stage⟩ →
      let put (t : State) (v : FwSlot) : State := { t with fw := t.fw.setSlot (!t.fw.running) v }
      ∀ t x, s.copyIn (BitVec.ofNat 64 (leAt l 0 8)) (leAt l 8 4) = (t, x) → t.fw = s.fw ∧
        (x = none → exec (.fwStage p n) s = .next ((put t {}).finish (badField 0))) ∧
        (∀ img, x = some img →
          (imageBad s.fw.fuse img = none → exec (.fwStage p n) s = .next ((put t ⟨2, img⟩).finish (okWith []))) ∧
          (∀ d, imageBad s.fw.fuse img = some d → exec (.fwStage p n) s = .next ((put t {}).finish (refuse 18 d)))))

/-- LICENCE_INSTALL (R511, R512): signature, format, serial and number are checked in that order; the same record again is OK and changes
nothing; another waits for the next reset. -/
def Claims.LicenceInstalls : Prop :=
  ∀ (s : State) (p : PortNo) (n : SlotNo) (o : OpInfo), s.ComesToMail p n o → s.MailPasses p n o → o.code = 0x53 →
    let m := s.mailStarted p n
    let l := (s.port p).payload n
    let x := s.licence
    let r (t : State) (a : Answer) : Prop := exec (.licenceInstall p n) s = .next (t.mailAnswer s p n o a)
    let format : Prop := leAt l 0 4 = 0x4543494C ∧ leAt l 4 2 = 1 ∧ leAt l 6 2 = 448 ∧ leAt l 20 1 ≤ 1 ∧
      leAt l 21 1 = (if leAt l 20 1 = 1 then 3 else 2) ∧ leAt l 22 2 = 0 ∧ (∀ y ∈ (l.drop 28).take 36, y = 0)
    let old : Prop := if x.last = [] then leAt l 16 4 < x.number.toNat else leAt l 16 4 ≤ leAt x.last 16 4
    let signed := Config.licenceSigned l = true
    (¬ signed → r m (refuse 18 1)) ∧ (signed → ¬ format → r m (refuse 18 5)) ∧
    (signed → format → leAt l 8 8 ≠ s.serial.toNat → r m (refuse 18 6)) ∧
    (signed → format → leAt l 8 8 = s.serial.toNat → l = x.last → r m (okWith [])) ∧
    (signed → format → leAt l 8 8 = s.serial.toNat → l ≠ x.last → old → r m (refuse 18 7)) ∧
    (signed → format → leAt l 8 8 = s.serial.toNat → l ≠ x.last → ¬ old →
      r { m with licence := { x with next := some (leAt l 20 1 == 1, BitVec.ofNat 32 (leAt l 16 4)), last := l } } (okWith []))

/-- A licence takes effect (R1, R513, R514): its variant and number are in force; a change of variant selects the units, all under a
Full licence, and under a Base one the even one of each pair, or the odd one where the even one is bad. -/
def Claims.LicenceEffects : Prop :=
  ∀ s : State,
    let badStack (k : Nat) : Bool := (s.stack k).bad || (s.stack k).state == .failed
    let badMill (k : Nat) : Bool := (s.mill (BitVec.ofNat 5 k)).bad
    (s.licence.next = none → s.takeLicence = s) ∧
    (∀ v k, s.licence.next = some (v, k) →
      let t : State := { s with licence := { s.licence with full := v, number := k, next := none } }
      s.takeLicence = if v = s.licence.full then t else t.selectUnits) ∧
    (∀ k, k < 32 → k % 2 = 0 → (s.baseMill k = !badMill k ∧ s.baseMill (k + 1) = (badMill k && !badMill (k + 1)))) ∧
    (∀ k, k < 16 → k % 2 = 0 → (s.baseStack k = !badStack k ∧ s.baseStack (k + 1) = (badStack k && !badStack (k + 1)))) ∧
    (∃ u t : State, u = (List.range 32).foldl (fun v m => v.licenceMill (BitVec.ofNat 5 m) (s.licence.full || s.baseMill m)) s ∧
      t = (List.range 16).foldl (fun v k => v.licenceStack k (s.licence.full || s.baseStack k)) u ∧ s.selectUnits = t) ∧
    (∀ m on, (s.mill m).licensed = on → s.licenceMill m on = s) ∧
    (∀ m, (s.mill m).licensed = false → s.licenceMill m true = (s.setMill m { s.mill m with licensed := true }).millEnable m) ∧
    (∀ m, (s.mill m).licensed = true → ∃ t : State,
      (∃ one : Nat × Word → Option (Nat × Word), t.routes = s.routes.filterMap one ∧ ∀ e,
        (e.2.msb = true → m ∈ routeMills e.2 →
          one e = if e.2 &&& 0x7FFFFFFF = 0 then none else some (e.1, e.2 &&& 0x7FFFFFFF)) ∧
        (e.2.msb = false ∨ m ∉ routeMills e.2 → one e = some e)) ∧
      t = { s with routes := t.routes } ∧ s.licenceMill m false =
        (t.millDisable m 5).setMill m { (t.millDisable m 5).mill m with licensed := false }) ∧
    (∀ k, (s.stack k).state ≠ .unlicensed → s.licenceStack k true = s) ∧
    (∀ k, (s.stack k).state = .unlicensed ∨ (s.stack k).state = .failed → s.licenceStack k false = s) ∧
    (∀ k, (s.stack k).state = .unlicensed → ∃ t : State, s.licenceStack k true = t ∧ t.stack k = { s.stack k with state := .selfref } ∧
      (∀ j, j ≠ k → t.stack j = s.stack j) ∧ (∀ e : Nat × Nat, e ∈ t.granErr ↔ e ∈ s.granErr ∧
        (e.1 * 64 < copyAddr k 0 ∨ copyAddr k (2 ^ 21) ≤ e.1 * 64)) ∧
      (s.gmap.sorted = true → ∀ page, page < 2 ^ 21 →
        (∀ j, j < 16 → (s.stack j).state = .active ∨ (s.stack j).state = .selfref →
          (∀ i, i < j → (s.stack i).state ≠ .active ∧ (s.stack i).state ≠ .selfref) →
          Store.find? t.gmap (copyKey k page) = Store.find? s.gmap (copyKey j page)) ∧
        ((∀ j, j < 16 → (s.stack j).state ≠ .active ∧ (s.stack j).state ≠ .selfref) →
          Store.find? t.gmap (copyKey k page) = none) ∧
        (∀ j, j ≠ k → Store.find? t.gmap (copyKey j page) = Store.find? s.gmap (copyKey j page))) ∧
      t = { s with gstacks := t.gstacks, gmap := t.gmap, granErr := t.granErr }) ∧
    (∀ k, (s.stack k).state ≠ .unlicensed → (s.stack k).state ≠ .failed → ∃ t : State, s.licenceStack k false = t ∧
      t.stack k = { s.stack k with state := .unlicensed } ∧ (∀ j, j ≠ k → t.stack j = s.stack j) ∧
      (∃ one : Nat × DWord → Option (Nat × DWord), t.gmap = s.gmap.filterMap one ∧ ∀ e,
        (e.2.msb = true → physStack (entryPhys e.2 0) = k →
          one e = if e.2 &&& 0x7FFFFFFFFFFFFFFF = 0 then none else some (e.1, e.2 &&& 0x7FFFFFFFFFFFFFFF)) ∧
        (e.2.msb = false ∨ physStack (entryPhys e.2 0) ≠ k → one e = some e)) ∧
      t = { s with gstacks := t.gstacks, gmap := t.gmap })

/-- Starts of the ward (R58, R416, R421, R424, R505, R507, R510): a start runs the slot that R505 selects, with its library, or leaves the ROM with
ERR FW; a restart undoes a FW_STAGE, frees the slots, drops the waiting messages and the held notices, counts in WARDRST and reports
the ward, while a command that runs goes on without an answer; an activation restarts the ward into the other slot at its time. -/
def Claims.WardStarts : Prop :=
  ∀ s : State,
    (∀ x ok, s.fw.raise.start 3 false = (x, ok) →
      let t : State := { s with fw := { x with activate := none } }
      let lib : Store Word14 := (Config.imageLibrary (x.slot x.running).image).foldl (fun y e => Store.set 0 y e.1 e.2) []
      (ok = false → s.wardStart = { t with boot := { s.boot with stage := 2, err := 1, done := 1 } }) ∧
      (ok = true → s.boot.done < 2 →
        s.wardStart = { t with library := lib, boot := { s.boot with err := 0, done := 2, stage := 3 } }) ∧
      (ok = true → 2 ≤ s.boot.done → s.wardStart = { t with library := lib })) ∧
    (s.boot.done ≠ 1 → exec .wardFirmwareStart s = .next s) ∧
    (s.boot.done = 1 → exec .wardFirmwareStart s = .next ({ s with fw := s.fw.promote } : State).wardStart) ∧
    (s.boot.done < 2 → exec .wardRestart s = .next s) ∧
    (2 ≤ s.boot.done → exec .wardRestart s = .next s.wardRestart) ∧
    (let staging : Prop := ∃ r, s.running = some r ∧ r.what = .stage
     ∃ u t : State, (staging → u = { s with running := none, fw := s.fw.unstage }) ∧ (¬ staging → u = s) ∧
      (∀ p, t.port p = { s.port p with mbox := [], noticesHeld := [] }) ∧
      t = { u with
        ports := t.ports, mail := []
        running := u.running.map (fun r => { r with live := false })
        restarting := u.running.isSome
        forced := s.forced.map (fun x => { x with live := false })
        dump := s.dump.map (fun x => { x with live := false })
        steward := { s.steward with since := s.tick }
        boot := { s.boot with
          wardrst := satAdd s.boot.wardrst 1, nextField := (if s.boot.done = 3 then 0 else s.boot.nextField) } } ∧
      s.wardRestart = (t.wardStart.notice 6 4 (padBytes (leBytes 4 t.wardStart.fw.version.toNat) 48)).refreshAlert) ∧
    (∀ b, s.fw.activate = some b → s.tick < b ∨ s.boot.done < 2 → exec .activateRestart s = .next s) ∧
    (∀ b, s.fw.activate = some b → b ≤ s.tick → 2 ≤ s.boot.done → exec .activateRestart s =
      .next ({ s with fw := { s.fw.mark (!s.fw.running) 4 with attempts := 0 } } : State).wardRestart) ∧
    (s.fw.activate = none → exec .activateRestart s = .next s)

/-! ### Tallies and dumps (09, 16) -/

/-- Tally boundaries (R284, R463, R465): one of mode PERIOD comes every PERIOD ticks; a boundary stands 100 ticks on, and one that finds
another waiting is counted in SKIP; at its tick the capture takes the counters of every unit that serves, the energy of a field in mJ
among them, starts them from 0, and answers each TALLY_READ that waits for it. -/
def Claims.Boundaries : Prop :=
  ∀ s : State,
    let due := s.tally.since + bits s.tally.cfg 31 0
    (bits s.tally.cfg 63 62 = 2 → due ≤ s.tick →
      exec .tallyPeriod s = .next ({ s with tally := { s.tally with since := due } } : State).boundary) ∧
    (bits s.tally.cfg 63 62 ≠ 2 ∨ s.tick < due → exec .tallyPeriod s = .next s) ∧
    (s.tally.due = none → s.boundary = { s with tally := { s.tally with due := some (s.tick + 100) } }) ∧
    (∀ d, s.tally.due = some d → s.boundary = { s with tally := { s.tally with skip := satAdd s.tally.skip 1 } }) ∧
    (s.tally.due = none → exec .tallyCapture s = .next s) ∧
    (∀ d, s.tally.due = some d → s.tick < d → exec .tallyCapture s = .next s) ∧
    (∀ d, s.tally.due = some d → d ≤ s.tick →
      let t : State := { s with
        tally := { s.tally with
          regs := s.tallyRegs, counts := [], energy := [], due := none, prev := s.tally.last, last := d, seq := s.tally.seq + 1 }
        drawn := s.drawn + 1, forced := [] }
      exec .tallyCapture s = .next (s.forced.foldl (fun u x =>
        (u.tallyCopy x.target).1.complete x.port x.slot 0 x.live false (u.tallyCopy x.target).2) t)) ∧
    (∀ a t, s.copyOut a s.tallyRecord = (t, true) →
      s.tallyCopy a = (t, okWith (leBytes 4 57600 ++ leBytes 4 t.tally.seq.toNat ++ leBytes 8 t.tally.last))) ∧
    (∀ a t, s.copyOut a s.tallyRecord = (t, false) → s.tallyCopy a = (t, badField 0))

/-- The tally registers of a boundary (R463; the counters that are free are log entry 10's), and the record of the last one (R464). -/
def Claims.TallyRegisters : Prop :=
  ∀ s : State,
    let reg (u i : Nat) : DWord := Store.get 0 s.tallyRegs (u * 32 + i)
    let count (u i : Nat) : DWord := Store.get 0 s.tally.counts (u * 32 + i)
    let lit (f : FieldNo) : Prop := (s.hub f).powered = true ∧ (s.hub f).dark = false
    let serves (m : MillNo) : Prop := (s.mill m).licensed = true ∧ lit (millField m)
    (∀ f : FieldNo, ∀ i, f.toNat < 48 → i < 32 →
      (lit f → (i ≠ 1 → i ≠ 2 → i ≠ 22 → reg f.toNat i = count f.toNat i) ∧
        (i = 1 ∨ i = 2 → reg f.toNat i = Config.tallyCount s.drawn f.toNat i) ∧
        (i = 22 → reg f.toNat i = BitVec.ofNat 64 (Store.get 0 s.tally.energy f.toNat / 16000000000))) ∧
      (¬ lit f → reg f.toNat i = 0)) ∧
    (∀ f : FieldNo, ∀ k i, f.toNat < 48 → k < 8 → i < 8 →
      (lit f → (i ≠ 4 → i ≠ 5 → reg (48 + 8 * f.toNat + k) i = count (48 + 8 * f.toNat + k) i) ∧
        (i = 4 ∨ i = 5 → reg (48 + 8 * f.toNat + k) i = Config.tallyCount s.drawn (48 + 8 * f.toNat + k) i)) ∧
      (¬ lit f → reg (48 + 8 * f.toNat + k) i = 0)) ∧
    (∀ m : MillNo, ∀ i, (serves m → (i < 16 → reg (496 + m.toNat) i = count (496 + m.toNat) i) ∧
        (∀ k, k < 2 → i < 8 → i ≠ 4 → i ≠ 5 → reg (432 + 2 * m.toNat + k) i = count (432 + 2 * m.toNat + k) i)) ∧
      (¬ serves m → i < 16 → reg (496 + m.toNat) i = 0)) ∧
    (let r := s.tallyRecord
     let dark (f : FieldNo) := (s.hub f).dark
     r.length = 57600 ∧ (s.tally.last = 0 → ∀ b ∈ r, b = 0) ∧
      (s.tally.last ≠ 0 → leAt r 0 4 = 0x594C4154 ∧ leAt r 4 4 = 1 ∧ leAt r 8 2 = s.tally.seq.toNat ∧ leAt r 10 2 = 0 ∧
        leAt r 12 4 = s.epoch.toNat ∧ (s.tally.last < 2 ^ 64 → leAt r 16 8 = s.tally.last) ∧
        (s.tally.prev < 2 ^ 64 → leAt r 24 8 = s.tally.prev) ∧ leAt r 32 4 = 57600 ∧ leAt r 36 4 = 0 ∧
        (∀ k, k < 48 → ((leAt r 40 8).testBit k = !dark (BitVec.ofNat 6 k))) ∧
        (∀ k, k < 32 → ((leAt r 48 4).testBit k =
          ((s.mill (BitVec.ofNat 5 k)).licensed && !dark (millField (BitVec.ofNat 5 k))))) ∧
        (∀ f : FieldNo, f.toNat < 48 → dark f = false → (∀ i, i < 32 →
            leAt r (256 + 1024 * f.toNat + 8 * i) 8 = (Store.get (0 : DWord) s.tally.regs (f.toNat * 32 + i)).toNat) ∧
          (∀ k i, k < 8 → i < 8 → leAt r (256 + 1024 * f.toNat + 256 + 64 * k + 8 * i) 8 =
            (Store.get (0 : DWord) s.tally.regs ((48 + 8 * f.toNat + k) * 32 + i)).toNat)) ∧
        (∀ m : MillNo, (s.mill m).licensed = true → dark (millField m) = false →
          (∀ i, i < 16 → leAt r (49408 + 256 * m.toNat + 8 * i) 8 =
            (Store.get (0 : DWord) s.tally.regs ((496 + m.toNat) * 32 + i)).toNat) ∧
          (∀ k i, k < 2 → i < 8 → leAt r (49408 + 256 * m.toNat + 128 + 64 * k + 8 * i) 8 =
            (Store.get (0 : DWord) s.tally.regs ((432 + 2 * m.toNat + k) * 32 + i)).toNat))))

/-- Sync dumps (R23, R282, R283): at its tick a dump takes a section of every field, which the hub of a lit field stages; the dump goes to the
target, and its length and tick answer the command. -/
def Claims.Dumps : Prop :=
  ∀ s : State,
    (s.dump = none → exec .syncDumpCapture s = .next s) ∧
    (∀ d, s.dump = some d → s.tick < d.at_ → exec .syncDumpCapture s = .next s) ∧
    (∀ d, s.dump = some d → d.at_ ≤ s.tick → ∃ t : State, t = { s with dump := none, hubs := t.hubs } ∧
      (∀ f : FieldNo, f.toNat < 48 → (s.hub f).dark = false → t.hub f = { s.hub f with staging := s.dumpSection f }) ∧
      (∀ f : FieldNo, 48 ≤ f.toNat ∨ (s.hub f).dark = true → t.hub f = s.hub f) ∧
      ∀ bytes, bytes = s.syncDump d.at_ ((List.range 48).map fun f => s.dumpSection (BitVec.ofNat 6 f)) → bytes.length = 3936256 ∧
        ∀ u ok, t.copyOut d.target bytes = (u, ok) → exec .syncDumpCapture s = .next (u.complete d.port d.slot 0 d.live false
          (if ok then okWith (leBytes 8 d.at_ ++ leBytes 4 3936256) else badField 0))) ∧
    (∀ at_ l, let r := s.syncDump at_ l
      leAt r 0 4 = 0x504D5544 ∧ leAt r 4 4 = 1 ∧ leAt r 8 4 = s.epoch.toNat ∧ leAt r 12 4 = 81920 ∧ (at_ < 2 ^ 64 → leAt r 16 8 = at_) ∧
      (∀ k, k < 48 → ((leAt r 24 8).testBit k = !(s.hub (BitVec.ofNat 6 k)).dark)) ∧ leAt r 32 4 = 3936256 ∧
      r.drop 4096 = l.flatten)

/-- A section of a dump (R283), of its hub's latches, gates and waiters, or marked where the field is dark. -/
def Claims.DumpSections : Prop :=
  ∀ (s : State) (f : FieldNo),
    let h := s.hub f
    let r := s.dumpSection f
    r.length = 81920 ∧ leAt r 0 2 = f.toNat ∧ (h.dark = true → leAt r 2 1 = 1 ∧ ∀ b ∈ r.drop 3, b = 0) ∧
    (h.dark = false → leAt r 2 2 = 0 ∧ (h.waiters.length < 2 ^ 32 → leAt r 4 4 = h.waiters.length) ∧ leAt r 8 4 = 0 ∧
      leAt r 12 4 = (crc32c (r.drop 16)).toNat ∧
      (∀ k, k < 2048 → ((leAt r (16 + k / 8) 1).testBit (k % 8) = (h.latch k).val) ∧
        leAt r (272 + 2 * k) 2 = (h.latch k).owner.toNat + (if (h.latch k).entry.isSome then 128 else 0) +
          (((h.latch k).entry <|> (h.latch k).done).map BitVec.toNat).getD 0 * 256 + (if (h.latch k).done.isSome then 16384 else 0)) ∧
      (∀ i, i < 64 → (r.drop (8192 + 640 * i)).take 640 = s.gateRecord (gateOf f i)) ∧
      (∀ k w, k < 8192 → h.waiters[k]? = some w → leAt r (49152 + 4 * k) 4 =
        2 ^ 31 + (if w.deadline then 2 ^ 30 else 0) + w.latch.toNat * 2 ^ 19 + w.cell.toNat)) ∧
    (∀ g : GateId, let x := s.gate g
      let b := s.gateRecord g
      b.length = 640 ∧ leAt b 0 16 = x.mask.toNat ∧ leAt b 16 16 = x.arr.toNat ∧ leAt b 32 16 = x.nxt.toNat ∧
      leAt b 48 4 = (s.gateCtrl g).toNat ∧ leAt b 52 4 = x.stateReg.toNat ∧ leAt b 56 4 = x.timeout.toNat ∧
      (x.counted s.tick < 2 ^ 32 → leAt b 60 4 = x.counted s.tick) ∧ leAt b 64 4 = x.parent.toNat ∧ leAt b 68 4 = x.latch.toNat ∧
      leAt b 72 4 = x.faultReg.toNat ∧ leAt b 76 8 = x.first.toNat ∧ (∀ k, k < 128 → leAt b (128 + 4 * k) 4 = (x.slot k).toNat))

/-- SYNC_DUMP, TALLY_READ and THROTTLE_LOG_READ (R282, R464, R465, R497): a bad target answers FIELD 0, a host target of another port than the
steward's NOT_STEWARD; a dump is scheduled 200 ticks on, and the ward holds one while another is due; a read copies the last record
of the boundaries, or of a plot's last fault, out, or with FORCE waits for the boundary that it asks for. -/
def Claims.Records : Prop :=
  ∀ (s : State) (p : PortNo) (n : SlotNo) (o : OpInfo), s.ComesToMail p n o → s.MailPasses p n o →
    let m := s.mailStarted p n
    let l := (s.port p).payload n
    let a : DWord := BitVec.ofNat 64 (leAt l 0 8)
    let other : Prop := space a = 2 ∧ s.isSteward p = false
    let denied := refuse 4 (if s.steward.state = 0 then 0xFFFF else s.steward.port.toNat)
    (targetOk a = true ↔ a.toNat % 4096 = 0 ∧ (space a = 1 ∨ space a = 2) ∧ rsvdAddr a = false) ∧
    (o.code = 0x31 →
      (s.targetHolds a 3936256 = false → exec (.syncDump p n) s = .next (m.mailAnswer s p n o (badField 0))) ∧
      (s.targetHolds a 3936256 = true → s.dump ≠ none → exec (.syncDump p n) s = .next s.acceptAll) ∧
      (s.targetHolds a 3936256 = true → s.dump = none →
        exec (.syncDump p n) s = .next { m with dump := some ⟨a, s.tick + 200, p, n, true⟩ })) ∧
    (o.code = 0x32 →
      let r (t : State) (x : Answer) : Prop := exec (.tallyRead p n) s = .next (t.mailAnswer s p n o x)
      let q := s.plot (BitVec.ofNat 7 (leAt l 9 1))
      (targetOk a = false → r m (badField 0)) ∧ (targetOk a = true → 2 ≤ leAt l 8 1 → r m (badField 8)) ∧
      (targetOk a = true → leAt l 8 1 < 2 → 2 ≤ leAt l 10 1 → r m (badField 10)) ∧
      (targetOk a = true → leAt l 8 1 < 2 → leAt l 10 1 < 2 → (other → r m denied) ∧
        (¬ other → leAt l 8 1 = 1 → (96 ≤ leAt l 9 1 → r m (badField 9)) ∧
          (leAt l 9 1 < 96 → q.record = [] → r m (refuse 17 0)) ∧
          (leAt l 9 1 < 96 → q.record ≠ [] →
            (∀ t, m.copyOut a q.record = (t, true) →
              r t (okWith (leBytes 4 q.record.length ++ leBytes 4 (leAt q.record 8 4) ++ leBytes 8 (leAt q.record 16 8)))) ∧
            (∀ t, m.copyOut a q.record = (t, false) → r t (badField 0)))) ∧
        (¬ other → leAt l 8 1 = 0 →
          (leAt l 10 1 = 1 → exec (.tallyRead p n) s = .next { m.boundary with forced := s.forced ++ [⟨p, n, a, true⟩] }) ∧
          (leAt l 10 1 = 0 → ∀ t x, m.tallyCopy a = (t, x) → r t x)))) ∧
    (o.code = 0x41 →
      let r (t : State) (x : Answer) : Prop := exec (.throttleLogRead p n) s = .next (t.mailAnswer s p n o x)
      let first := max (leAt l 8 4) (s.power.logNext - 8192)
      let k := min (leAt l 12 4) (s.power.logNext - first)
      (targetOk a = false → r m (badField 0)) ∧
      (targetOk a = true → leAt l 12 4 = 0 ∨ 8192 < leAt l 12 4 → r m (badField 12)) ∧
      (targetOk a = true → 0 < leAt l 12 4 → leAt l 12 4 ≤ 8192 → (other → r m denied) ∧
        (¬ other → ∀ t ok, m.copyOut a ((List.range k).flatMap fun i => (s.power.rec_ (first + i)).bytes) = (t, ok) →
          r t (if ok then okWith (leBytes 4 k ++ leBytes 4 first ++ leBytes 4 s.power.logNext) else badField 0))))

/-- Copies of the ward (R289, R302, R402, R403): the granary through the hinge's cache of the map, page by page, but for a wafer whose
bridges are dark; a host window where it takes the request. -/
def Claims.WardCopies : Prop :=
  ∀ (s : State) (a : DWord) (k : Nat) (l : List Byte),
    let w : BitVec 6 := BitVec.ofNat 6 (bits a 53 48)
    (space a = 1 → s.copyOut a l = s.wardWrite (spaceLow a) l ∧ s.copyIn a k = s.wardRead (spaceLow a) k) ∧
    (space a ≠ 1 →
      (∀ x, s.windowOk w (spaceLow a) l.length true = some x → s.copyOut a l =
        ({ s with hostMem := s.hostMem.writeBytes (hostKey x.port (x.base.toNat + spaceLow a)) l }, true)) ∧
      (s.windowOk w (spaceLow a) l.length true = none → s.copyOut a l = (s, false)) ∧
      (∀ x, s.windowOk w (spaceLow a) k false = some x →
        s.copyIn a k = (s, some (s.hostMem.readBytes (hostKey x.port (x.base.toNat + spaceLow a)) k))) ∧
      (s.windowOk w (spaceLow a) k false = none → s.copyIn a k = (s, none))) ∧
    (∀ (off n : Nat) (wr : Bool) x, s.windowOk w off n wr = some x ↔ Store.find? s.windows w.toNat = some x ∧
      (wr = true → x.write = true) ∧ (s.port x.port).linkUp = true ∧ (s.port x.port).bme = true ∧ off + n ≤ x.len) ∧
    (∀ b, (s.hub 0).dark = true → (s.hub 8).dark = true → s.wardWrite b l = (s, false) ∧ s.wardRead b k = (s, none)) ∧
    (∀ b, (s.hub 0).dark = false ∨ (s.hub 8).dark = false →
      s.wardWrite b l = s.wardWriteRuns l (pageRuns (l.length / 2 ^ 21 + 2) b l.length) ∧
      s.wardRead b k = s.wardReadRuns (pageRuns (k / 2 ^ 21 + 2) b k)) ∧
    s.wardReadRuns [] = (s, some []) ∧ s.wardWriteRuns l [] = (s, true) ∧
    (∀ b n rest t x, s.hingeTranslate b false = (t, x) →
      (∀ y, x = .phys y → ∀ u bs bad, t.granRead y n 4 = (u, bs, bad) →
        (bad = true → s.wardReadRuns ((b, n) :: rest) = (u, none)) ∧
        (∀ v z, bad = false → u.wardReadRuns rest = (v, z) → s.wardReadRuns ((b, n) :: rest) = (v, z.map fun more => bs ++ more))) ∧
      ((∀ y, x ≠ .phys y) → s.wardReadRuns ((b, n) :: rest) = (t, none))) ∧
    (∀ b n rest t x, s.hingeTranslate b true = (t, x) →
      (∀ y, x = .phys y → s.wardWriteRuns l ((b, n) :: rest) = (t.granWrite y (l.take n)).wardWriteRuns (l.drop n) rest) ∧
      ((∀ y, x ≠ .phys y) → s.wardWriteRuns l ((b, n) :: rest) = ((t.wardWriteRuns (l.drop n) rest).1, false)))

/-- The estimator: the terms, the budget, the holds, the throttle log, and the interval that brings them together. -/
def Obligations.Estimator : Prop :=
  Claims.EstimatorTerms ∧ Claims.Estimates ∧ Claims.Budgets ∧ Claims.Holds ∧ Claims.Throttles ∧ Claims.ThrottleLog ∧
    Claims.Charges ∧ Claims.Estimator

/-- Alerts, sensors and stops, the loss of power, and the pins of the module. -/
def Obligations.StopsAndPins : Prop :=
  Claims.AlertsAndStops ∧ Claims.Stops ∧ Claims.PowerLoss ∧ Claims.ManagementPins ∧ Claims.ReadMap

/-- The events and the identity of a port, and its viewports. -/
def Obligations.Ports : Prop :=
  Claims.FunctionReset ∧ Claims.PortEvents ∧ Claims.PortIdentity ∧ Claims.Viewports ∧ Claims.ViewPlaces ∧ Claims.ViewPieces

/-- Registers: their fields, split accesses, BAR0, and the registers with a command of their own. -/
def Obligations.Registers : Prop :=
  Claims.FieldMasks ∧ Claims.SplitReads ∧ Claims.SplitWrites ∧ Claims.BarReads ∧ Claims.BarMap ∧ Claims.BarWrites ∧
    Claims.RegisterWrites ∧ Claims.RegisterPlaces ∧ Claims.NamedRegisters ∧ Claims.HubWrites

/-- The firmware's images, slots and licences, and the starts of the ward. -/
def Obligations.Firmware : Prop :=
  Claims.ImageChecks ∧ Claims.SlotStarts ∧ Claims.FirmwareCommands ∧ Claims.LicenceInstalls ∧ Claims.LicenceEffects ∧
    Claims.WardStarts

/-- Tally boundaries, sync dumps, and the commands that copy their records and the throttle log out. -/
def Obligations.Tallies : Prop :=
  Claims.Boundaries ∧ Claims.TallyRegisters ∧ Claims.Dumps ∧ Claims.DumpSections ∧ Claims.Records ∧ Claims.WardCopies

/-! ### Chonel links (11) -/

/-- What a link gives up (R325, R345): the frames, credits and groups of a link that leaves service, and its error log, which keeps the
first error while it is armed. -/
def Claims.LinkState : Prop :=
  ∀ (s : State) (m : MillNo) (k g l : Nat),
    let v := s.mill m
    v.discard = { v with
      seq := 0, unacked := [], resend := [], replays := none, nakAt := none, expect := 0, acked := 0xFFFF, nak := false
      credits := [0, 0, 0, 0], freed := [0, 0, 0, 0], outq := [], dropLeft := [0, 0, 0, 0], groups := 0, regroup := 0
      spareReq := none, idleSent := 0, idleGot := 0, timeReply := none } ∧
    (v.errlog.msb = true → s.linkError m k g l = s) ∧
    (v.errlog.msb = false → s.linkError m k g l = s.setMill m { v with
      errlog := BitVec.ofNat 64 (2 ^ 63 + k * 2 ^ 59 + g * 2 ^ 57 + l * 2 ^ 52 + v.expect.toNat * 2 ^ 36 + s.tick % 2 ^ 36) }) ∧
    s.endTracks m = v.tracks.foldl (fun t x => t.endTrack m x (.errorResp x.tag 1 false) true) s ∧
    (s.millEnabled m = true ↔
      v.licensed = true ∧ (s.hub (millField m)).dark = false ∧ m ∉ s.millsOut ∧ v.cfg.getLsbD 0 = true)

/-- How a link goes DOWN (R325, R341, R344, R345): one that is DISABLED or DOWN already stays so; one in training gives up what it
holds and has its reason; one that is UP counts and logs the exit, ends its tracking entries with ROUTE, tells a threshing step
and the ward, and where FIELD or a configuration takes it DOWN announces that for 10 µs. -/
def Claims.LinkDown : Prop :=
  ∀ (s : State) (m : MillNo) (reason : Nat),
    let v := s.mill m
    (v.link = 0 ∨ v.link = 1 → s.linkDown m reason = s) ∧
    (2 ≤ v.link.toNat → v.link.toNat ≤ 6 → s.linkDown m reason = s.setMill m { v.discard with
      link := 1, reason := BitVec.ofNat 4 reason, since := s.tick, downUntil := none }) ∧
    (v.link = 7 →
      let e := s.linkError m 3 0 0
      let d := e.setMill m { (e.mill m).discard with
        link := 1, reason := BitVec.ofNat 4 reason, since := s.tick, downcnt := satAdd v.downcnt 1
        downUntil := if reason = 5 then some (s.tick + 1000) else none }
      let u := (d.endTracks m).thrLinkLost m
      s.linkDown m reason = u.notice 9 8 (padBytes (leBytes 4 m.toNat ++ leBytes 4 (u.mill m).linkReg.toNat) 48))

/-- How a link leaves and enters training (R315, R321, R325, R326, R328, R331, R455): a mismatch takes an UP link to IDENT; a mill that
is DISABLED goes DOWN first; one that leaves DISABLED trains, where nothing holds it, with every lane to be found again and the slots
of ML_CREDIT_CFG, or the default division where that is not allowed. -/
def Claims.LinkChanges : Prop :=
  ∀ (s : State) (m : MillNo) (reason : Nat),
    let v := s.mill m
    (let e := s.linkError m 4 0 0
     let d := e.setMill m { (e.mill m).discard with
      link := 4, reason := 4, since := s.tick, groups := v.groups, downcnt := satAdd v.downcnt 1 }
     s.linkToIdent m = (d.endTracks m).thrLinkLost m) ∧
    (let d := s.linkDown m reason
     s.millDisable m reason = d.setMill m { d.mill m with link := 0, light := false, probe := false }) ∧
    (s.millEnabled m = false → s.linkTrain m = s ∧ s.millEnable m = s) ∧
    (s.millEnabled m = true → s.linkTrain m = s.setMill m { v.discard with
        link := 2, since := s.tick, locked := 0, aligned := 0, failed := 0, sp0 := none, sp1 := none, txSp0 := none, txSp1 := none
        peerState := 0, laneMap := [], partner := none, identDue := false, times := 0, timeDue := false, downUntil := none
        division := v.slotUnits } ∧
      s.millEnable m = (s.setMill m { v with link := 1, since := s.tick }).linkTrain m) ∧
    (let l := [bits v.creditCfg 7 0, bits v.creditCfg 15 8, bits v.creditCfg 23 16, bits v.creditCfg 31 24]
     ((∀ n ∈ l, n ≠ 0) ∧ l.sum ≤ 96 → v.slotUnits = l) ∧ ((∃ n ∈ l, n = 0) ∨ 96 < l.sum → v.slotUnits = [4, 36, 20, 36]))

/-- The ends of the training states (R321, R326, R331): ALIGN when every lane's block is found and the lane map known, IDENT with a
partner's record that fits and the own one sent, TIME after 16 exchanges, CREDIT after 64 IDLE frames each way, with the partner's
slots as credits. -/
def Claims.TrainingEnds : Prop :=
  ∀ (v : Mill) (n : Nat) (r : IdentRec),
    (v.link = 3 → v.aligned = 0x3FFFF → v.laneMap ≠ [] →
      v.alignDone n = { v with link := 4, since := n, groups := 0xF, identDue := true, partner := none }) ∧
    (v.link ≠ 3 ∨ v.aligned ≠ 0x3FFFF ∨ v.laneMap = [] → v.alignDone n = v) ∧
    (v.partner = some r → v.link = 4 → v.identDue = false → v.mismatch r = false →
      v.identDone n = { v with link := 5, since := n, times := 0, timeAt := n }) ∧
    (v.partner = none ∨ v.link ≠ 4 ∨ v.identDue = true ∨ (v.partner = some r ∧ v.mismatch r = true) → v.identDone n = v) ∧
    (v.link = 5 → 16 ≤ v.times → v.timeDone n = { v with link := 6, since := n, idleSent := 0, idleGot := 0 }) ∧
    (v.link ≠ 5 ∨ v.times < 16 → v.timeDone n = v) ∧
    (v.link = 6 → 64 ≤ v.idleSent → 64 ≤ v.idleGot → v.creditDone n = { v with
      link := 7, since := n, frameAt := n, ackAt := n, timeAt := n
      credits := (v.partner.map fun r => r.slots.map BitVec.toNat).getD [0, 0, 0, 0] }) ∧
    (v.link ≠ 6 ∨ v.idleSent < 64 ∨ v.idleGot < 64 → v.creditDone n = v) ∧
    (v.mismatch r = true ↔ v.cfg.msb = true ∧ r.loaded = true ∧
      (r.mill.toNat ≠ bits v.cfg 30 26 ∨ (r.switch = false ∧ r.wafer.toNat ≠ bits v.cfg 25 14)))

/-- The timers of a link (R314, R324, R326, R332, R344): LOSS after 16 µs without an accepted frame, STEP at the limit of the training
step or of a group's, the retry 100 ms after STEP, probe mode and its bursts, light that returns, the exchange of TIME every
100 µs, and the replay on the ACK timer, REPLAYMAX after 8 from one sequence number. Before its time an event changes
nothing. -/
def Claims.LinkTimers : Prop :=
  ∀ (s : State) (m : MillNo),
    let v := s.mill m
    (v.link = 7 → v.frameAt + 1600 ≤ s.tick → exec (.linkLoss m) s = .next (s.linkDown m 1)) ∧
    (v.link ≠ 7 ∨ s.tick < v.frameAt + 1600 → exec (.linkLoss m) s = .next s) ∧
    (∀ e : Nat × Nat, e ∈ [(2, 2000000), (3, 200000), (4, 10000), (5, 100000), (6, 10000)] → v.link.toNat = e.1 →
      (v.link = 4 → ∀ r, v.partner = some r → v.mismatch r = false) →
      (v.since + e.2 ≤ s.tick → exec (.linkStepTimeout m) s = .next (s.linkDown m 8)) ∧
      (s.tick < v.since + e.2 → exec (.linkStepTimeout m) s = .next s)) ∧
    (∀ r, v.link = 4 → v.partner = some r → v.mismatch r = true → exec (.linkStepTimeout m) s = .next s) ∧
    (v.link = 7 → v.regroup ≠ 0 → v.since + 5000 ≤ s.tick → exec (.linkStepTimeout m) s = .next (s.linkDown m 8)) ∧
    (v.link = 7 → v.regroup = 0 ∨ s.tick < v.since + 5000 → exec (.linkStepTimeout m) s = .next s) ∧
    (v.link = 0 ∨ v.link = 1 → exec (.linkStepTimeout m) s = .next s) ∧
    (v.link = 1 → v.reason = 8 → v.since + 10000000 ≤ s.tick → exec (.linkRetry m) s = .next (s.linkTrain m)) ∧
    (v.link ≠ 1 ∨ v.reason ≠ 8 ∨ s.tick < v.since + 10000000 → exec (.linkRetry m) s = .next s) ∧
    (v.link ≠ 0 → v.probe = false → v.lightAt + 100000 ≤ s.tick →
      exec (.probeMode m) s = .next (s.setMill m { v with probe := true, light := false, lastBurst := s.tick })) ∧
    (v.link = 0 ∨ v.probe = true ∨ s.tick < v.lightAt + 100000 → exec (.probeMode m) s = .next s) ∧
    (v.probe = true → v.lastBurst + 50000000 ≤ s.tick →
      exec (.probeBurst m) s = .next (s.setMill m { v with lastBurst := s.tick })) ∧
    (v.probe = false ∨ s.tick < v.lastBurst + 50000000 → exec (.probeBurst m) s = .next s) ∧
    (v.link ≠ 0 → exec (.lightReturn m) s = .next (s.setMill m { v with probe := false, light := true, lightAt := s.tick })) ∧
    (v.link = 0 → exec (.lightReturn m) s = .next s) ∧
    (let client : Prop := v.role ≠ 1 ∨ ∀ r, v.partner = some r → r.time = false
     (v.link = 7 → client → v.timeAt + 10000 ≤ s.tick →
      exec (.timeExchange m) s = .next (s.setMill m { v with timeDue := true, timeAt := s.tick })) ∧
     (v.link ≠ 7 ∨ ¬ client ∨ s.tick < v.timeAt + 10000 → exec (.timeExchange m) s = .next s)) ∧
    (v.unacked = [] ∨ v.link ≠ 7 ∨ s.tick < v.ackAt + v.rtt / 64 + 200 → exec (.ackTimerReplay m) s = .next s) ∧
    (∀ a l rest, v.unacked = (a, l) :: rest → v.link = 7 → v.ackAt + v.rtt / 64 + 200 ≤ s.tick →
      (∀ n, v.replays = some (a, n) → 8 ≤ n → exec (.ackTimerReplay m) s = .next (s.linkDown m 2)) ∧
      (∀ k : Nat, (∀ n, v.replays = some (a, n) → n = k) → ((∀ n, v.replays ≠ some (a, n)) → k = 0) → k < 8 →
        exec (.ackTimerReplay m) s = .next ((s.setMill m { v with
          resend := v.unacked, replays := some (a, k + 1), ackAt := s.tick, timer := satAdd v.timer 1 }).count (millCtr m 3) 1)))

/-- A group that leaves service (R328, R329): it retrains alone where a spare takes the lane; else the link goes DOWN where fewer than
MINGROUPS + 1 groups remain. It rejoins once its lanes are found again. -/
def Claims.Groups : Prop :=
  ∀ (s : State) (m : MillNo) (g : Nat) (spare : Bool),
    let v := s.mill m
    let bit : BitVec 4 := BitVec.ofNat 4 (2 ^ g)
    let lanes : BitVec 18 := BitVec.ofNat 18 (v.lanesOf g)
    let d : Mill := { v with
      groups := v.groups &&& ~~~bit
      regroup := if spare then v.regroup ||| bit else v.regroup &&& ~~~bit
      locked := v.locked &&& ~~~lanes, aligned := v.aligned &&& ~~~lanes, since := s.tick }
    let few : Prop := spare = false ∧ groupsIn (d.groups ||| d.regroup) < bits v.cfg 13 12 + 1
    (few → s.dropGroup m g spare = (s.setMill m d).linkDown m 3) ∧ (¬ few → s.dropGroup m g spare = s.setMill m d) ∧
    (g < 4 → let found : Prop := v.regroup.getLsbD g = true ∧ ∀ p, p < 18 → v.failed.getLsbD p = false →
        (∃ n, logicalOf v.sp0 v.sp1 p = some n ∧ n.toNat / 4 = g) → v.locked.getLsbD p = true ∧ v.aligned.getLsbD p = true
     (found → v.rejoinGroup g = { v with
        regroup := v.regroup &&& ~~~bit, groups := v.groups ||| bit
        spareReq := if v.regroup = bit then none else v.spareReq }) ∧
      (¬ found → v.rejoinGroup g = v)) ∧
    (∀ p, p < 16 → logicalOf v.sp0 v.sp1 p =
      if v.sp0 = some (BitVec.ofNat 4 p) ∨ v.sp1 = some (BitVec.ofNat 4 p) then none else some (BitVec.ofNat 4 p)) ∧
    logicalOf v.sp0 v.sp1 16 = v.sp0 ∧ logicalOf v.sp0 v.sp1 17 = v.sp1 ∧
    (∀ p, p < 18 → (lanes.getLsbD p = true ↔ ∃ n, logicalOf v.sp0 v.sp1 p = some n ∧ n.toNat / 4 = g))

/-- Lanes (R326, R328, R329): LIGHT ends when every physical lane is locked, and ALIGN when every lane's block is found and the
partner's lane map is known; a lane that fails moves to spare 16 where that is free, else to 17, while its group retrains
alone; with no spare the group leaves service. -/
def Claims.LaneEvents : Prop :=
  ∀ (s : State) (m : MillNo) (lane phys : BitVec 5) (g : BitVec 2),
    let v := s.mill m
    let p := lane.toNat
    let w : Mill := { v with locked := v.locked ||| BitVec.ofNat 18 (2 ^ p), light := true, probe := false, lightAt := s.tick }
    let a : Mill := { v with aligned := v.aligned ||| BitVec.ofNat 18 (2 ^ p) }
    (18 ≤ p ∨ v.link = 0 ∨ v.link = 1 → exec (.laneLock m lane) s = .next s) ∧
    (p < 18 → v.link ≠ 0 → v.link ≠ 1 →
      (v.link = 2 → w.locked = 0x3FFFF → exec (.laneLock m lane) s = .next (s.setMill m { w with link := 3, since := s.tick })) ∧
      (v.link ≠ 2 ∨ w.locked ≠ 0x3FFFF → exec (.laneLock m lane) s = .next (s.setMill m w))) ∧
    (18 ≤ p ∨ phys ≠ lane ∨ (p < 16 ∧ g.toNat ≠ p / 4) → exec (.alignmentBlock m lane phys g) s = .next s) ∧
    (p < 18 → phys = lane → (p < 16 → g.toNat = p / 4) →
      (v.link = 3 → exec (.alignmentBlock m lane phys g) s = .next (s.setMill m (a.alignDone s.tick))) ∧
      (v.link = 7 → v.regroup ≠ 0 → exec (.alignmentBlock m lane phys g) s = .next (s.setMill m a)) ∧
      (v.link ≠ 3 → v.link ≠ 7 ∨ v.regroup = 0 → exec (.alignmentBlock m lane phys g) s = .next s)) ∧
    (v.link ≠ 7 ∨ 18 ≤ p ∨ v.failed.getLsbD p = true → exec (.laneFailure m lane) s = .next s) ∧
    (v.link = 7 → p < 18 → v.failed.getLsbD p = false →
      let failed : BitVec 18 := v.failed ||| BitVec.ofNat 18 (2 ^ p)
      (logicalOf v.sp0 v.sp1 p = none → ∃ e : State, e = s.linkError m 2 0 p ∧
        exec (.laneFailure m lane) s = .next (e.setMill m { e.mill m with failed := failed })) ∧
      (∀ n, logicalOf v.sp0 v.sp1 p = some n → ∃ e : State, e = s.linkError m 2 (n.toNat / 4) p ∧
        let sp0 := if p = 16 then none else v.sp0
        let sp1 := if p = 17 then none else v.sp1
        let free0 : Prop := sp0 = none ∧ failed.getLsbD 16 = false
        let free1 : Prop := sp1 = none ∧ failed.getLsbD 17 = false
        let x : Mill := { e.mill m with failed := failed, sp0 := sp0, sp1 := sp1, spareReq := some (lane, n.toNat / 4) }
        (free0 → exec (.laneFailure m lane) s = .next ((e.setMill m { x with sp0 := some n }).dropGroup m (n.toNat / 4) true)) ∧
        (¬ free0 → free1 →
          exec (.laneFailure m lane) s = .next ((e.setMill m { x with sp1 := some n }).dropGroup m (n.toNat / 4) true)) ∧
        (¬ free0 → ¬ free1 → exec (.laneFailure m lane) s = .next ((e.setMill m x).dropGroup m (n.toNat / 4) false))))

/-- What a receiver makes of a codeword (R317, R323): one that does not decode is counted and logged, and in UP its frame is asked for
again; so is one whose CRC fails; a frame of a reserved type is logged and discarded; corrected symbols are counted. -/
def Claims.FrameVerdicts : Prop :=
  ∀ (s : State) (m : MillNo) (g : BitVec 2) (rx : RxQuality),
    let nak (t : State) : State := t.setMill m (if (t.mill m).link = 7 then { t.mill m with nak := true } else t.mill m)
    let e := s.linkError m 0 g.toNat 0
    let c := if rx.corrected then s.setMill m { s.mill m with ce := satAdd (s.mill m).ce 1 } else s
    (rx.decodes = false →
      s.rxFrame m g rx = (nak ((e.setMill m { e.mill m with ue := satAdd (e.mill m).ue 1 }).count (millCtr m 4) 1), false)) ∧
    (rx.decodes = true → rx.crcOk = false → s.rxFrame m g rx = (nak (c.linkError m 1 g.toNat 0), false)) ∧
    (rx.decodes = true → rx.crcOk = true → rx.typeOk = false → s.rxFrame m g rx = (c.linkError m 1 g.toNat 0, false)) ∧
    (rx.decodes = true → rx.crcOk = true → rx.typeOk = true → s.rxFrame m g rx = (c, true))

/-- Acknowledgements and replays (R324): an ACK frees the frames up to it; a replay starts from the frame that is asked for, unless eight
from it have passed. -/
def Claims.Replays : Prop :=
  ∀ (v : Mill) (a : BitVec 16) (n : Nat),
    ((∀ e ∈ v.unacked, e.1 ≠ a) → v.ackTo a n = v ∧ v.replay a n = some v) ∧
    (∀ pre l rest, v.unacked = pre ++ (a, l) :: rest → (∀ e ∈ pre, e.1 ≠ a) →
      v.ackTo a n = { v with
        unacked := rest, replays := none, nakAt := none, ackAt := n
        resend := v.resend.filter fun e => !(pre.map Prod.fst ++ [a]).contains e.1 } ∧
      (∀ k, v.replays = some (a, k) → 8 ≤ k → v.replay a n = none) ∧
      (∀ k, (∀ j, v.replays = some (a, j) → j = k) → ((∀ j, v.replays ≠ some (a, j)) → k = 0) → k < 8 →
        v.replay a n = some { v with resend := (a, l) :: rest, replays := some (a, k + 1), ackAt := n }))

/-- The control field of a frame that can be read (R317, R321, R324, R328, R335, R344): PACE is recorded and its time counted once in a
microsecond; in UP, credits return, the ACK frees frames, a NAK starts a replay that no earlier one overlaps, or takes the link
DOWN after eight, and a request for a spare moves the lane. -/
def Claims.FrameControls : Prop :=
  ∀ (s : State) (m : MillNo) (ctl : FrameCtl) (accepted : Bool),
    let us := s.tick / 100 + 1
    let v := s.mill m
    let paced : Bool := ctl.pace && v.paceAt != us
    let w : Mill := { v with
      light := true, probe := false, lightAt := s.tick
      frameAt := if accepted then s.tick else v.frameAt
      peerPace := ctl.pace
      usec := if paced then satAdd v.usec 1 else v.usec
      paceAt := if ctl.pace then us else v.paceAt }
    let t := (if paced then s.count (millCtr m 5) 1 else s).setMill m w
    let credited := (w.creditIn ctl.cr0).creditIn ctl.cr1
    let y := credited.ackTo (if ctl.nak then ctl.ack - 1 else ctl.ack) s.tick
    let spare (u : State) : State := if ctl.spareValid = true ∧ (u.mill m).link = 7 then u.spareRequest m ctl.spareLane.toNat else u
    let early : Prop := ∃ b, y.nakAt = some (ctl.ack, b) ∧ s.tick < b + y.rtt / 64 + 100
    (v.link ≠ 7 → s.rxControl m ctl accepted = t) ∧
    (v.link = 7 → ctl.nak = false → s.rxControl m ctl accepted = spare (t.setMill m y)) ∧
    (v.link = 7 → ctl.nak = true → early ∨ (∀ e ∈ y.unacked, e.1 ≠ ctl.ack) → s.rxControl m ctl accepted = spare (t.setMill m y)) ∧
    (v.link = 7 → ctl.nak = true → ¬ early → (∃ e ∈ y.unacked, e.1 = ctl.ack) →
      (y.replay ctl.ack s.tick = none → s.rxControl m ctl accepted = spare ((t.setMill m y).linkDown m 2)) ∧
      (∀ z, y.replay ctl.ack s.tick = some z → s.rxControl m ctl accepted =
        spare ((t.setMill m { z with nakAt := some (ctl.ack, s.tick), nakrx := satAdd z.nakrx 1 }).count (millCtr m 3) 1))) ∧
    (∀ (x : Mill) (cr : BitVec 14), x.creditIn cr = { x with
      credits := x.credits.set (cr.toNat / 4096) ((x.credits[cr.toNat / 4096]?).getD 0 + cr.toNat % 4096) }) ∧
    (∀ k, logicalOf v.txSp0 v.txSp1 k = none → s.spareRequest m k = s) ∧
    (∀ k n, logicalOf v.txSp0 v.txSp1 k = some n →
      (v.txSp0 = none → s.spareRequest m k = (s.setMill m { v with txSp0 := some n }).dropGroup m (n.toNat / 4) true) ∧
      (v.txSp0 ≠ none → v.txSp1 = none →
        s.spareRequest m k = (s.setMill m { v with txSp1 := some n }).dropGroup m (n.toNat / 4) true) ∧
      (v.txSp0 ≠ none → v.txSp1 ≠ none → s.spareRequest m k = (s.setMill m v).dropGroup m (n.toNat / 4) false))

/-- An accepted slot (R319, R321, R340, R363): a packet's slots are kept in order, and one of a reserved type is dropped whole and counted,
its slots free again; PACE of a header records the wafer. -/
def Claims.SlotsTaken : Prop :=
  ∀ (v : Mill) (x : Slot),
    let i := x.lvc.toNat
    let n := (v.dropLeft[i]?).getD 0
    let t := flitCtype x.flit
    let freed := v.freed.set i ((v.freed[i]?).getD 0 + 1)
    let bad : Prop := 6 ≤ t ∨ (t = 5 ∧ flitSubtype x.flit = 7)
    (x.head = true → bad → v.takeSlot x =
      { v with dropBad := satAdd v.dropBad 1, dropLeft := v.dropLeft.set i (flitLen x.flit), freed := freed }) ∧
    (x.head = true → ¬ bad → v.takeSlot x = { v with
      inq := v.inq ++ [x], dropLeft := v.dropLeft.set i 0
      lastWafer := if flitPace x.flit then flitSwafer x.flit else v.lastWafer }) ∧
    (x.head = false → n = 0 → v.takeSlot x = { v with inq := v.inq ++ [x] }) ∧
    (x.head = false → n ≠ 0 → v.takeSlot x = { v with dropLeft := v.dropLeft.set i (n - 1), freed := freed })

/-- DATA and IDLE frames (R318, R323, R325, R326): each is judged and its control field taken; a DATA frame with the expected SEQ is accepted,
its slots kept and ACK advanced, and any other one sets NAK; IDLE frames end CREDIT. -/
def Claims.FramesArrive : Prop :=
  ∀ (s : State) (m : MillNo) (g : BitVec 2) (ctl : FrameCtl) (rx : RxQuality) (slots : List Slot) (t : State),
    (s.rxFrame m g rx = (t, false) →
      exec (.data m g ctl rx slots) s = .next t ∧ exec (.idle m g ctl rx) s = .next t) ∧
    (s.rxFrame m g rx = (t, true) →
      (let u := t.rxControl m ctl ((t.mill m).link == 7 && ctl.seq == (t.mill m).expect)
       let v := u.mill m
       (v.link ≠ 7 → exec (.data m g ctl rx slots) s = .next u) ∧
       (v.link = 7 → ctl.seq ≠ v.expect → exec (.data m g ctl rx slots) s = .next (u.setMill m { v with nak := true })) ∧
       (v.link = 7 → ctl.seq = v.expect → exec (.data m g ctl rx slots) s = .next ((u.setMill m (slots.foldl Mill.takeSlot
          { v with acked := ctl.seq, expect := v.expect + 1, nak := false })).count (millCtr m 2) slots.length))) ∧
      (let u := t.rxControl m ctl true
       let v := u.mill m
       (v.link = 6 → ctl.seq = 0 → ctl.ack = 0xFFFF → exec (.idle m g ctl rx) s =
          .next (u.setMill m (({ v with idleGot := v.idleGot + 1 } : Mill).creditDone s.tick))) ∧
       (v.link ≠ 6 ∨ ctl.seq ≠ 0 ∨ ctl.ack ≠ 0xFFFF → exec (.idle m g ctl rx) s = .next u)))

/-- TRAIN, IDENT and TIME frames (R318, R326, R330 to R333, R344): a DISABLED mill takes none; the others are judged, and their control
fields taken; TRAIN frames end ALIGN, let a group rejoin, or take a link DOWN with PARTNER; an identity record ends IDENT, or holds the
link there where it breaks ML_LINK_CFG; a request of TIME waits for its reply, and a reply gives the RTT and the client's
offset, which the tick follows. -/
def Claims.TrainingFrames : Prop :=
  ∀ (s : State) (m : MillNo) (g : BitVec 2) (ctl : FrameCtl) (rx : RxQuality) (t : State),
    ((s.mill m).link = 0 → s.readFrame m g ctl rx = (s, false)) ∧
    ((s.mill m).link ≠ 0 → s.rxFrame m g rx = (t, false) → s.readFrame m g ctl rx = (t, false)) ∧
    ((s.mill m).link ≠ 0 → s.rxFrame m g rx = (t, true) → s.readFrame m g ctl rx = (t.rxControl m ctl true, true)) ∧
    (s.readFrame m g ctl rx = (t, false) → (∀ d st l, exec (.train m g ctl rx ⟨d, st, l⟩) s = .next t) ∧
      (∀ r, exec (.ident m ⟨g, ctl, rx, r⟩) s = .next t) ∧ (∀ x b, exec (.time m g ctl rx ⟨x, b⟩) s = .next t)) ∧
    (s.readFrame m g ctl rx = (t, true) →
      let v := t.mill m
      (∀ d st l, let w : Mill := { v with peerState := st, laneMap := if l = [] then v.laneMap else l }
        (v.link = 7 → d = true → exec (.train m g ctl rx ⟨d, st, l⟩) s = .next ((t.setMill m w).linkDown m 7)) ∧
        (v.link = 7 → d = false → exec (.train m g ctl rx ⟨d, st, l⟩) s = .next (t.setMill m (w.rejoinGroup g.toNat))) ∧
        (v.link ≠ 7 → exec (.train m g ctl rx ⟨d, st, l⟩) s = .next (t.setMill m (w.alignDone t.tick)))) ∧
      (∀ r, let e := t.linkError m 4 0 0
        let w : Mill := { v with partner := some r }
        (v.link = 4 → v.mismatch r = true → exec (.ident m ⟨g, ctl, rx, r⟩) s =
          .next (e.setMill m { e.mill m with partner := some r, reason := 4 })) ∧
        (v.link = 4 → v.mismatch r = false → exec (.ident m ⟨g, ctl, rx, r⟩) s = .next (t.setMill m (w.identDone t.tick))) ∧
        (v.link = 7 → v.mismatch r = true → exec (.ident m ⟨g, ctl, rx, r⟩) s = .next ((t.setMill m w).linkToIdent m)) ∧
        (v.link = 5 ∨ v.link = 6 → v.mismatch r = true → exec (.ident m ⟨g, ctl, rx, r⟩) s =
          .next (e.setMill m { e.mill m with partner := some r, reason := 4, link := 4, since := e.tick })) ∧
        (v.link = 5 ∨ v.link = 6 ∨ v.link = 7 → v.mismatch r = false → exec (.ident m ⟨g, ctl, rx, r⟩) s = .next (t.setMill m w)) ∧
        (v.link = 1 ∨ v.link = 2 ∨ v.link = 3 ∨ v.link = 0 → exec (.ident m ⟨g, ctl, rx, r⟩) s = .next t)) ∧
      (∀ b : BitVec 70,
        (v.link ≠ 5 → v.link ≠ 7 → ∀ x, exec (.time m g ctl rx ⟨x, b⟩) s = .next t) ∧
        (v.link = 5 ∨ v.link = 7 →
          (∀ t1, exec (.time m g ctl rx ⟨.request t1, b⟩) s = .next (t.setMill m { v with timeReply := some (t1, b) })) ∧
          (∀ t1 t2 t3 : BitVec 70,
            let d1 : Int := (t2.toNat : Int) - t1.toNat
            let d2 : Int := (b.toNat : Int) - t3.toNat
            let offset : Int := (d1 - d2) / 2
            let client : Prop := v.role = 2 ∧ ∃ r, v.partner = some r ∧ r.time = true
            ∃ w : Mill, (client → -8388608 ≤ offset → offset ≤ 8388607 → w.offset = BitVec.ofInt 24 offset) ∧
              (client → offset < -8388608 → w.offset = 0x800000) ∧ (client → 8388607 < offset → w.offset = 0x7FFFFF) ∧
              (¬ client → w.offset = v.offset) ∧ w = { v with times := v.times + 1, rtt := (d1 + d2).toNat, offset := w.offset } ∧
              let u := t.setMill m (w.timeDone t.tick)
              (client → u.follows = some m → exec (.time m g ctl rx ⟨.reply t1 t2 t3, b⟩) s = .next (u.adjustTick offset)) ∧
              (¬ client ∨ u.follows ≠ some m → exec (.time m g ctl rx ⟨.reply t1 t2 t3, b⟩) s = .next u))))) ∧
    (∀ x : Int,
      let runs : Prop := ∃ e ∈ s.plots, e.2.state = .running
      (x.natAbs ≤ 64000 ∨ runs → s.adjustTick x = { s with slew := x * 125 / 2 }) ∧
      (64000 < x → ¬ runs → s.adjustTick x = { s with tick := s.tick + x.natAbs / 64, slew := 0 }) ∧
      (x < -64000 → ¬ runs → s.adjustTick x = { s with tickHold := x.natAbs / 64, slew := 0 })) ∧
    (∀ k, s.follows = some k ↔ (s.mill k).link = 7 ∧ (s.mill k).role = 2 ∧
      ∀ j : MillNo, j.toNat < k.toNat → (s.mill j).link ≠ 7 ∨ (s.mill j).role ≠ 2)

/-- What a sender chooses (R319, R321): LVC 0 first, then the packet under way, then a new packet by round-robin among the LVCs that
hold the credits of a whole one; a header spends its packet's credits; at most 19 slots fill a frame; freed slots of two LVCs
are returned. -/
def Claims.SlotChoice : Prop :=
  ∀ (v : Mill) (n : Nat),
    let first (i : Nat) : Option Slot := v.outq.find? fun x => x.lvc.toNat == i
    let ready (i : Nat) : Prop := ∃ x, first i = some x ∧ x.head = true ∧ 1 + flitLen x.flit ≤ (v.credits[i]?).getD 0
    let under (i : Nat) : Prop := ∃ x, first i = some x ∧ x.head = false
    let turn (k : Nat) : Nat := (v.lastLvc + k) % 3 + 1
    (ready 0 → v.nextLvc = some 0) ∧
    (¬ ready 0 → ∀ i, 1 ≤ i → i ≤ 3 → under i → (∀ j, 1 ≤ j → j < i → ¬ under j) → v.nextLvc = some i) ∧
    (¬ ready 0 → (∀ i, 1 ≤ i → i ≤ 3 → ¬ under i) →
      (∀ k, k < 3 → ready (turn k) → (∀ j, j < k → ¬ ready (turn j)) → v.nextLvc = some (turn k)) ∧
      ((∀ k, k < 3 → ¬ ready (turn k)) → v.nextLvc = none)) ∧
    Mill.chooseSlots 0 v = (v, []) ∧ (v.nextLvc = none → Mill.chooseSlots n v = (v, [])) ∧
    (∀ i x, v.nextLvc = some i → first i = some x →
      let w : Mill := { v with
        outq := v.outq.erase x
        lastLvc := if x.head = true ∧ i ≠ 0 then i else v.lastLvc
        credits := if x.head then v.credits.set i ((v.credits[i]?).getD 0 - (1 + flitLen x.flit)) else v.credits }
      ∀ y l, Mill.chooseSlots n w = (y, l) → Mill.chooseSlots (n + 1) v = (y, x :: l)) ∧
    (Mill.chooseSlots n v).2.length ≤ n ∧
    (let f (i : Nat) : Nat := (v.freed[i]?).getD 0
     ((∀ i, i < 4 → f i = 0) → v.creditOut = (v, 0, 0)) ∧
      (∀ i, i < 4 → f i ≠ 0 → f i ≤ 4095 → (∀ j, j < i → f j = 0) → v.freed.length = 4 →
        ((∀ j, i < j → j < 4 → f j = 0) → v.creditOut = ({ v with freed := v.freed.set i 0 }, BitVec.ofNat 14 (i * 4096 + f i), 0)) ∧
        (∀ j, i < j → j < 4 → f j ≠ 0 → f j ≤ 4095 → (∀ k, i < k → k < j → f k = 0) → v.creditOut =
          ({ v with freed := (v.freed.set i 0).set j 0 }, BitVec.ofNat 14 (i * 4096 + f i), BitVec.ofNat 14 (j * 4096 + f j)))))

/-- What a frame carries (R312, R317, R318, R324, R326, R328, R330, R332, R335, R344; log entry 75): the groups, the sequence number awaited,
as a NAK, or the last one accepted, the slots freed, the request for a spare on every group but the failed lane's, and PACE; TRAIN
carries the training state and lane map, TIME a request or the reply that the partner waits for, IDENT the record. -/
def Claims.FrameBodies : Prop :=
  ∀ (s : State) (m : MillNo) (g : BitVec 2) (type : FrameType) (seq : BitVec 16) (slots : List Slot) (down : Bool),
    let v := s.mill m
    let us := s.tick / 100 + 1
    (∀ w c0 c1, (if v.link = 7 then v.creditOut else (v, 0, 0)) = (w, c0, c1) → ∃ ctl : FrameCtl,
      (∀ lane, (∀ k, v.spareReq = some (lane, k) → k ≠ g.toNat → ctl.spareValid = true ∧ ctl.spareLane = lane)) ∧
      ((v.spareReq = none ∨ ∃ lane, v.spareReq = some (lane, g.toNat)) → ctl.spareValid = false ∧ ctl.spareLane = 0) ∧
      ctl = { spareValid := ctl.spareValid, spareLane := ctl.spareLane, groups := v.groups, cr1 := c1, cr0 := c0, pace := s.pacing
              nak := v.nak, ack := (if v.nak then v.expect else v.acked), seq := seq } ∧
      s.sendFrame m g type seq slots = (if s.pacing = true ∧ v.paceSent ≠ us then s.count (millCtr m 6) 1 else s).setMill m { w with
        sent := some { type := type, group := g, ctl := ctl, slots := slots }
        paceSent := if s.pacing then us else v.paceSent }) ∧
    (let t := s.sendFrame m g .train v.seq []
     s.sendTrain m g down = t.setMill m { t.mill m with
      sent := (t.mill m).sent.map fun f => { f with train := some (v.link, v.txMap, down) } }) ∧
    (∃ l : List (BitVec 5), v.txMap = l ∧ l.length = 16 ∧ ∀ n : BitVec 4, l[n.toNat]? = some
      (if v.txSp0 = some n then 16 else if v.txSp1 = some n then 17 else n.setWidth 5)) ∧
    (let t := s.sendFrame m g .ident v.seq [⟨0, false, BitVec.ofNat 256 (leAt (s.identRecord m) 0 32)⟩,
        ⟨0, false, BitVec.ofNat 256 (leAt (s.identRecord m) 32 32)⟩]
     s.sendIdent m g = t.setMill m { t.mill m with identDue := false }) ∧
    (let now_ : BitVec 70 := BitVec.ofNat 70 (s.tick * 64 + (Config.sendPhase s.drawn).toNat)
     let t := ({ s with drawn := s.drawn + 1 } : State).sendFrame m g .time v.seq []
     let msg := match v.timeReply with
      | some (t1, t2) => TimeMsg.reply t1 t2 now_
      | none => .request now_
     s.sendTime m g = t.setMill m { t.mill m with
      timeReply := none, sent := (t.mill m).sent.map fun f => { f with time := some msg } })

/-- The identity record that a mill sends (R330), and the second sending when the wafer ID or job tag changes. -/
def Claims.IdentRecords : Prop :=
  ∀ (s : State) (m : MillNo),
    let r := s.identRecord m
    leAt r 0 2 = 0x1FB3 ∧ leAt r 2 2 = 0x4830 ∧ leAt r 4 8 = s.serial.toNat ∧ leAt r 12 1 = m.toNat ∧ leAt r 13 1 = 1 ∧
    leAt r 14 1 = 1 + (if s.licence.full then 4 else 0) ∧ leAt r 15 1 = 0 ∧
    leAt r 16 2 = s.wafer.toNat + (if s.jobLoaded then 32768 else 0) ∧ leAt r 18 2 = s.jobtag.toNat ∧
    ((s.mill m).division.length = 4 → (∀ k x, (s.mill m).division[k]? = some x → x < 256 → leAt r (20 + 4 * k) 4 = x * 4096) ∧
      r.length = 64 ∧ leAt r 36 28 = 0) ∧
    (∀ k, s.identAgain.mill k = { s.mill k with identDue := (s.mill k).identDue || decide (4 ≤ (s.mill k).link.toNat) }) ∧
    s.identAgain = { s with mills := s.identAgain.mills }

/-- DATA frames (R318, R324): a frame of the retry buffer goes again first, where the group is its own; else a new frame takes the next
number and the slots chosen, which the retry buffer keeps; none where the buffer holds 16,384, the group is another's, or nothing
may go. -/
def Claims.DataFrames : Prop :=
  ∀ (s : State) (m : MillNo) (g : BitVec 2),
    let v := s.mill m
    (∀ a slots rest, v.resend = (a, slots) :: rest →
      (v.groupOf a = some g.toNat → s.sendData m g = some ((s.setMill m { v with resend := rest }).sendFrame m g .data a slots)) ∧
      (v.groupOf a ≠ some g.toNat → s.sendData m g = none)) ∧
    (v.resend = [] → 16384 ≤ v.unacked.length ∨ v.groupOf v.seq ≠ some g.toNat ∨ v.nextLvc = none → s.sendData m g = none) ∧
    (v.resend = [] → v.unacked.length < 16384 → v.groupOf v.seq = some g.toNat → ∀ w slots, Mill.chooseSlots 19 v = (w, slots) →
      slots ≠ [] →
      let x : Mill := { w with
        seq := v.seq + 1, unacked := v.unacked ++ [(v.seq, slots)]
        ackAt := if v.unacked = [] then s.tick else v.ackAt }
      s.sendData m g = some ((((s.setMill m x).count (millCtr m 0) 1).count (millCtr m 1) slots.length).sendFrame m g .data v.seq
        slots)) ∧
    (∀ a, v.groups = 0 → v.groupOf a = none) ∧
    (∀ a : BitVec 16, ∀ k, v.groupOf a = some k → k < 4 ∧ v.groups.getLsbD k = true ∧
      ((List.range k).filter fun i => v.groups.getLsbD i).length = a.toNat % groupsIn v.groups)

/-- FRAME_SEND (R314, R318, R326, R330, R332, R344): the mill's packets come into its queues first; in probe mode only the bursts send; in
training each state sends its own frames; an UP link sends TRAIN on a group that retrains, else DATA, else TIME, IDENT and IDLE
frames; a link that FIELD took DOWN announces it. -/
def Claims.FramesLeave : Prop :=
  ∀ (s : State) (m : MillNo) (g : BitVec 2),
    let t := s.millTakes m
    let v := t.mill m
    let announces : Prop := ∃ k, v.downUntil = some k ∧ t.tick < k
    let dark : Prop := v.probe = true ∧ v.lastBurst + 200000 ≤ t.tick
    let r (u : State) : Prop := exec (.frameSend m g) s = .next u
    (dark → r t) ∧
    (¬ dark →
      (v.link = 0 ∨ v.link = 1 → (announces → r (t.sendTrain m g true)) ∧ (¬ announces → r t)) ∧
      (v.link = 2 ∨ v.link = 3 → r (t.sendTrain m g false)) ∧
      (v.link = 4 → let u := t.sendIdent m g
        r (u.setMill m ((u.mill m).identDone u.tick))) ∧
      (v.link = 5 → r (if v.identDue then t.sendIdent m g else t.sendTime m g)) ∧
      (v.link = 6 → (v.identDue = true → r (t.sendIdent m g)) ∧
        (v.identDue = false → let u := t.sendFrame m g .idle 0 []
          r (u.setMill m (({ u.mill m with idleSent := (u.mill m).idleSent + 1 } : Mill).creditDone u.tick)))) ∧
      (v.link = 7 →
        (v.regroup.getLsbD g.toNat = true → r (t.sendTrain m g false)) ∧
        (v.regroup.getLsbD g.toNat = false → v.groups.getLsbD g.toNat = false → r t) ∧
        (v.regroup.getLsbD g.toNat = false → v.groups.getLsbD g.toNat = true →
          (∀ u, t.sendData m g = some u → r u) ∧
          (t.sendData m g = none →
            (v.timeReply ≠ none → r (t.sendTime m g)) ∧
            (v.timeReply = none → v.timeDue = true → let u := t.sendTime m g
              r (u.setMill m { u.mill m with timeDue := false })) ∧
            (v.timeReply = none → v.timeDue = false → v.identDue = true → r (t.sendIdent m g)) ∧
            (v.timeReply = none → v.timeDue = false → v.identDue = false → r (t.sendFrame m g .idle v.seq []))))))

/-- The links of the mills: their timers, their lanes, and what they leave on the way DOWN. -/
def Obligations.Links : Prop :=
  Claims.LinkState ∧ Claims.LinkDown ∧ Claims.LinkChanges ∧ Claims.TrainingEnds ∧ Claims.LinkTimers ∧ Claims.Groups ∧ Claims.LaneEvents

/-- The frames that arrive. -/
def Obligations.FramesIn : Prop :=
  Claims.FrameVerdicts ∧ Claims.Replays ∧ Claims.FrameControls ∧ Claims.SlotsTaken ∧ Claims.FramesArrive ∧ Claims.TrainingFrames

/-- The frames that leave. -/
def Obligations.FramesOut : Prop :=
  Claims.SlotChoice ∧ Claims.FrameBodies ∧ Claims.IdentRecords ∧ Claims.DataFrames ∧ Claims.FramesLeave

/-! ### Remote traffic (11) -/

/-- Headers and packets of a link (R319, R320, R340): where each field of a header stands, the virtual channel of a packet type, and the slots
of a packet: its header and its payload, 32 B each. -/
def Claims.Headers : Prop :=
  ∀ (h : ChonelHdr) (payload : List Byte),
    let f := encodeHdr h
    bits f 3 0 = h.ctype.toNat ∧ bits f 7 4 = h.len.toNat ∧ bits f 19 8 = h.dwafer.toNat ∧ bits f 31 20 = h.swafer.toNat ∧
    bits f 36 32 = h.smill.toNat ∧ bits f 41 37 = h.dmill.toNat ∧ bits f 43 42 = h.kind.toNat ∧ bits f 61 44 = h.endpoint.toNat ∧
    bits f 103 62 = h.addr.toNat ∧ bits f 111 104 = h.bytes.toNat ∧ bits f 130 112 = h.src.toNat ∧ bits f 150 131 = h.rtag.toNat ∧
    bits f 167 151 = h.target.toNat ∧ bits f 175 168 = h.arg.toNat ∧ bits f 191 176 = h.jobtag.toNat ∧
    f.getLsbD 192 = h.pace ∧ bits f 255 193 = 0 ∧
    flitCtype f = h.ctype.toNat ∧ flitLen f = h.len.toNat ∧ flitSwafer f = h.swafer ∧ flitSrc f = h.src ∧ flitPace f = h.pace ∧
    flitSubtype f = h.arg.toNat % 8 ∧
    ctypeLvc 0 = 1 ∧ ctypeLvc 1 = 2 ∧ ctypeLvc 2 = 2 ∧ ctypeLvc 3 = 0 ∧ ctypeLvc 4 = 0 ∧ ctypeLvc 5 = 3 ∧
    packetSlots h payload = ⟨ctypeLvc h.ctype.toNat, true, f⟩ :: (List.range h.len.toNat).map (fun i =>
      ⟨ctypeLvc h.ctype.toNat, false, BitVec.ofNat 256 (leAt payload (32 * i) 32)⟩)

/-- What a mill sends (R335, R340 to R343, R345; log entry 74): a packet joins the queue of an UP link with the wafer's PACE, and is lost on
another; one for another mill crosses the mesh; an answer leaves by the route of its wafer; a remote request takes a tracking entry,
and is answered ROUTE where the link is not UP; an entry that ends answers its requester. -/
def Claims.MillSends : Prop :=
  ∀ (s : State) (m x : MillNo) (h : ChonelHdr) (e : Endpoint) (tag : Byte) (data : List Byte) (b : Body),
    let v := s.mill m
    (v.link = 7 → s.millOut m h data =
      s.setMill m { v with outq := v.outq ++ packetSlots { h with pace := s.pacing } data }) ∧
    (v.link ≠ 7 → s.millOut m h data = s.setMill m v) ∧
    (s.pacing = true ↔ ∃ y ∈ s.hubs, y.2.power.reason = 1 ∨ y.2.power.reason = 2 ∨ y.2.power.reason = 4 ∨
      y.2.power.reason = 5 ∨ y.2.power.reason = 6) ∧
    s.millForward m x h e tag data =
      s.unitSend (millField m) (millUnit m) (millField x) (millUnit x) (.forward h e tag data) ∧
    (∀ c, s.millSend m (.cell c) b = s.hubSend (millField m) (millUnit m) (.cell c) b) ∧
    (∀ f u t, s.millSend m (.hub f u t) b = s.unitSend (millField m) (millUnit m) f u b) ∧
    (∀ (w : WaferId) key, let r : Word := Store.get 0 s.routes (m.toNat * 4096 + w.toNat)
      (r.msb = false → s.routeMill m w key = none) ∧
      (r.msb = true → ∃ i, i = key % (bits r 30 29 + 1) ∧
        s.routeMill m w key = some (BitVec.ofNat 5 (r.toNat / 2 ^ (5 * i))))) ∧
    (∀ st : Option Nat,
      let a : ChonelHdr :=
        { pace := false, jobtag := s.jobtag, arg := BitVec.ofNat 8 (st.getD 0), target := 0, rtag := h.rtag, src := 0, bytes := 0,
          addr := 0, endpoint := 0, kind := 0, dmill := h.smill, smill := m, swafer := s.wafer, dwafer := h.swafer, len := 0,
          ctype := if st.isSome then 2 else 1 }
      (s.routeMill m h.swafer h.src.toNat = none → s.answerRemote m h st = s) ∧
      (s.routeMill m h.swafer h.src.toNat = some m → s.answerRemote m h st = s.millOut m a []) ∧
      (∀ y, s.routeMill m h.swafer h.src.toNat = some y → y ≠ m →
        s.answerRemote m h st = s.millForward m y a (.hub (millField m) (millUnit m) 0) 0 [])) ∧
    (v.link ≠ 7 → s.sendRemote m h e tag data = some (s.millSend m e (.errorResp tag 1 false))) ∧
    (v.link = 7 → h.ctype = 3 → s.sendRemote m h e tag data = some (s.millOut m { h with smill := m } [])) ∧
    (v.link = 7 → h.ctype ≠ 3 → v.freeTrack = none → s.sendRemote m h e tag data = none) ∧
    (∀ i, v.link = 7 → h.ctype ≠ 3 → v.freeTrack = some i → s.sendRemote m h e tag data = some
      (((s.setMill m { v with tracks := v.tracks ++ [⟨i, v.genAll, e, tag, s.tick⟩] }).count (millCtr m 7) 1).millOut m
        { h with smill := m, rtag := BitVec.ofNat 20 (v.genAll.toNat * 4096 + i) } data)) ∧
    (∀ i, v.freeTrack = some i ↔ i < 4096 ∧ (∀ t ∈ v.tracks, t.index ≠ i) ∧ ∀ j, j < i → ∃ t ∈ v.tracks, t.index = j) ∧
    (∀ (t : Track) (failed : Bool),
      let u := s.setMill m { v with
        tracks := v.tracks.filter (fun y => y.index != t.index)
        failedCnt := if failed then satAdd v.failedCnt 1 else v.failedCnt }
      s.endTrack m t b failed = (if failed then u.count (millCtr m 8) 1 else u).millSend m t.src b)

/-- How a remote write is handed on (R271, R301, R342): under a tag that the mill has free, and none while it has none; to the cell or,
through the mill's cache of the map, the stack that its header names; a bad endpoint or page answers RANGE, a stack that cannot be
reached NOUNIT; what waits for the write waits for the tag; the answer ends the delivery, and goes on to the requester here or to
the sending mill. -/
def Claims.Deliveries : Prop :=
  ∀ (s : State) (m : MillNo) (h : ChonelHdr) (l : List Byte) (loc : Option (Endpoint × Byte)),
    let v := s.mill m
    let fails (t : State) (st : Nat) : State := match loc with
      | some (e, tg) => (t.handedOn m h none).millSend m e (.errorResp tg (BitVec.ofNat 4 st) false)
      | none => (t.handedOn m h none).answerRemote m h (some st)
    (∀ st, s.deliveryFails m h loc st = fails s st) ∧
    (v.freeTag = none → s.deliverWrite m h l loc = none) ∧
    (∀ tg, v.freeTag = some tg →
      let start (t : State) (e : Endpoint) (a : Nat) : State :=
        ((t.setMill m { t.mill m with deliveries := (t.mill m).deliveries ++ [⟨tg, h, loc⟩] }).handedOn m h (some tg)).millSend m e
          (.writeReq (BitVec.ofNat 54 a) (BitVec.ofNat 8 (l.length - 1)) false tg l)
      let c := mkCell (h.endpoint.toNat % 624) (h.endpoint.toNat / 624)
      (h.kind = 1 → cellIdOk c = true → s.deliverWrite m h l loc = some (start s (.cell c) h.addr.toNat)) ∧
      (h.kind = 1 → cellIdOk c = false → s.deliverWrite m h l loc = some (fails s 4)) ∧
      (h.kind = 2 → ∀ u k x, s.translateIn (millField m) v.mapCache h.addr.toNat true = (u, k, x) →
        let w := u.setMill m { u.mill m with mapCache := k }
        (∀ p, x = .phys p → s.deliverWrite m h l loc = some (start w (.hub (stackField (physStack p)) (stackUnit (physStack p)) 0) p)) ∧
        (x = .noStack → s.deliverWrite m h l loc = some (fails w 3)) ∧
        (x = .invalid ∨ x = .readOnly ∨ x = .mapError → s.deliverWrite m h l loc = some (fails w 4))) ∧
      (h.kind = 0 ∨ h.kind = 3 → s.deliverWrite m h l loc = some (fails s 4))) ∧
    (∀ tg : Option Byte, s.handedOn m h tg = s.setMill m { v with
      heldOps := v.heldOps.map fun o =>
        if o.queued.contains (encodeHdr h) then { o with queued := o.queued.erase (encodeHdr h), waits := o.waits ++ tg.toList }
        else o }) ∧
    (∀ tg st, v.deliveries.find? (fun d => d.tag == tg) = none → s.deliveryEnds m tg st = s) ∧
    (∀ tg st d, v.deliveries.find? (fun d => d.tag == tg) = some d →
      let t := s.setMill m { v with
        deliveries := v.deliveries.filter (fun d => d.tag != tg)
        heldOps := v.heldOps.map fun o => { o with waits := o.waits.filter fun y => y != tg } }
      (∀ e k, d.local_ = some (e, k) → st = none → s.deliveryEnds m tg st = t.millSend m e (.writeAck k)) ∧
      (∀ e k a b, d.local_ = some (e, k) → st = some (a, b) → s.deliveryEnds m tg st = t.millSend m e (.errorResp k a b)) ∧
      (d.local_ = none → st = none → s.deliveryEnds m tg st = t.answerRemote m d.hdr none) ∧
      (∀ a b, d.local_ = none → st = some (a, b) → s.deliveryEnds m tg st = t.answerRemote m d.hdr (some a.toNat))) ∧
    (∀ tg, v.freeTag = some tg ↔ (∀ d ∈ v.deliveries, d.tag ≠ tg) ∧ ∀ k : Byte, k.toNat < tg.toNat → ∃ d ∈ v.deliveries, d.tag = k)

/-- How an operation is held (R271): behind the writes of its source that are handed on and not answered, and behind those that the mill
still holds. -/
def Claims.HeldOperations : Prop :=
  ∀ (s : State) (m : MillNo) (w : WaferId) (src : CellId) (same : CellId → Bool) (f : FieldNo) (u : BitVec 6) (b : Body)
    (early : List Slot) (h : ChonelHdr),
    let v := s.mill m
    s.holdOp m w src same f u b early = s.setMill m { v with
      heldOps := v.heldOps ++ [⟨w, src, u, f, b, (v.deliveries.filter fun d => d.hdr.swafer == w && same d.hdr.src).map (·.tag),
      (early.filter fun x => x.head && flitCtype x.flit == 0 && flitSwafer x.flit == w && same (flitSrc x.flit)).map (·.flit)⟩] } ∧
    (∀ pre rest, v.inq = pre ++ rest → (∀ x ∈ pre, x.head = false ∨ x.flit ≠ encodeHdr h) →
      (∀ x, rest.head? = some x → x.head = true ∧ x.flit = encodeHdr h) → v.before h = pre) ∧
    (∀ payload rest, v.inq = packetSlots h payload ++ rest → v.take h = { v with
      inq := rest
      freed := v.freed.set (ctypeLvc h.ctype.toNat).toNat
        ((v.freed[(ctypeLvc h.ctype.toNat).toNat]?).getD 0 + (1 + h.len.toNat)) })

/-- A remote request at its home mill (R337, R339 to R341, R345): it waits for its packet; a locked-out mill answers with error 2, a size
or a rank entry that is not valid with RANGE (4), a wafer with no valid route with ROUTE (1); one for another wafer leaves on the
mill that the route names, over the mesh where that is another, and waits while no tracking entry is free; what is for this wafer
is delivered here, without a link, and a latch set waits behind the earlier writes of its source. -/
def Claims.RemoteRequests : Prop :=
  ∀ (s : State) (m : MillNo) (r : RemoteReq),
    (s.notYet (isRemoteReq m r) = true → exec (.remoteRequest m r) s = .next s) ∧
    (s.notYet (isRemoteReq m r) = false →
      let gone := s.arrived (isRemoteReq m r)
      let n := r.data.length
      let e : Word := Store.get 0 s.ranks (m.toNat * 2 ^ 21 + r.rank.toNat)
      let w : WaferId := BitVec.ofNat 12 (bits e 29 18)
      let ranked := gone.setMill m { s.mill m with
        rankCache := ((r.rank, e) :: (s.mill m).rankCache.filter fun y => y.1 != r.rank).take 256 }
      let refuses (t : State) (st : BitVec 4) : Prop :=
        exec (.remoteRequest m r) s = .next (t.millSend m r.src (.errorResp r.tag st false))
      let src : CellId := match r.src with
        | .cell c => c
        | .hub f u _ => BitVec.ofNat 19 ((f.toNat * 64 + u.toNat) * 128)
      let key : Nat := match r.src with
        | .cell c => c.toNat
        | .hub f u _ => f.toNat * 64 + u.toNat
      let blank : ChonelHdr :=
        { pace := false, jobtag := s.jobtag, arg := 0, target := 0, rtag := 0, src := src, bytes := 0, addr := 0, endpoint := 0
          kind := 0, dmill := 0, smill := m, swafer := s.wafer, dwafer := w, len := 0, ctype := 0 }
      let h : ChonelHdr := match r.latch with
        | some l => { blank with ctype := 3, target := l }
        | none => { blank with
            bytes := BitVec.ofNat 8 (n - 1), addr := r.addr, endpoint := BitVec.ofNat 18 (bits e 17 0)
            kind := BitVec.ofNat 2 (bits e 31 30), len := BitVec.ofNat 4 (flitsOf n) }
      let sized : Prop := r.latch = none → 1 ≤ n ∧ n ≤ 224 ∧ r.addr.toNat % 256 + n ≤ 256
      (m ∈ s.millsOut → refuses gone 2) ∧ (m ∉ s.millsOut → ¬ sized → refuses gone 4) ∧
      (m ∉ s.millsOut → sized → (bits e 31 30 = 0 ∨ bits e 31 30 = 3 → refuses ranked 4) ∧
        (bits e 31 30 = 1 ∨ bits e 31 30 = 2 →
          (w = s.wafer → (∀ l, r.latch = some l → exec (.remoteRequest m r) s = .next (ranked.holdOp m w src (· == src)
              (latchField l) 8 (.latchOp .set l false false (some w) 0) [])) ∧
            (r.latch = none → ∀ x, ranked.deliverWrite m h r.data (some (r.src, r.tag)) = x →
              exec (.remoteRequest m r) s = .next (x.getD s))) ∧
          (w ≠ s.wafer →
            (ranked.routeMill m w key = none → refuses ranked 1) ∧
            (ranked.routeMill m w key = some m →
              exec (.remoteRequest m r) s = .next ((ranked.sendRemote m h r.src r.tag r.data).getD s)) ∧
            (∀ x, ranked.routeMill m w key = some x → x ≠ m →
              exec (.remoteRequest m r) s = .next (ranked.millForward m x h r.src r.tag r.data))))))

/-- Packets that arrive on a link (R271, R321, R322, R342; log entry 72): a packet is taken from the accepted slots, which are freed; one with
a foreign job tag is dropped and counted, as is one for another wafer, whose WRITE is answered with RNAK ROUTE; a WRITE is handed
on, and waits while the mill has no room for its answer or no tag; a LATCH or GATE waits behind the earlier writes of its source. -/
def Claims.PacketsArrive : Prop :=
  ∀ (s : State) (m : MillNo) (h : ChonelHdr) (bytes : List Byte),
    let v := s.mill m
    let gone := s.setMill m (v.take h)
    let job := gone.setMill m { v.take h with dropJob := satAdd v.dropJob 1 }
    let bad := gone.setMill m { v.take h with dropBad := satAdd v.dropBad 1 }
    let g : GateId := h.target.setWidth 12
    let answers := (v.outq.filter fun x => x.lvc == 2).length + (v.deliveries.filter fun d => d.local_.isNone).length
    let room : Prop := answers = 0 ∨ answers ≤ Config.answerSpace
    (¬ room → exec (.write m h bytes) s = .next s) ∧
    (h.jobtag ≠ s.jobtag → (room → exec (.write m h bytes) s = .next (job.handedOn m h none)) ∧
      exec (.latch m h) s = .next job ∧ exec (.gate m h) s = .next job) ∧
    (h.jobtag = s.jobtag → h.dwafer ≠ s.wafer →
      (h.ctype = 0 → (room → exec (.write m h bytes) s = .next ((bad.answerRemote m h (some 1)).handedOn m h none)) ∧
        exec (.latch m h) s = .next (bad.answerRemote m h (some 1)) ∧ exec (.gate m h) s = .next (bad.answerRemote m h (some 1))) ∧
      (h.ctype ≠ 0 → (room → exec (.write m h bytes) s = .next (bad.handedOn m h none)) ∧ exec (.latch m h) s = .next bad ∧
        exec (.gate m h) s = .next bad)) ∧
    (h.jobtag = s.jobtag → h.dwafer = s.wafer →
      (room → exec (.write m h bytes) s =
        .next ((gone.deliverWrite m h (bytes.take (h.bytes.toNat + 1)) none).getD s)) ∧
      (latchIdOk h.target = true → exec (.latch m h) s = .next (gone.holdOp m h.swafer h.src (· == h.src) (latchField h.target) 8
        (.latchOp .set h.target false false (some h.swafer) 0) (v.before h))) ∧
      (latchIdOk h.target = false → exec (.latch m h) s = .next gone) ∧
      (gateIdOk g = true → exec (.gate m h) s = .next (gone.holdOp m h.swafer h.src
        (fun x => bits x 18 13 == (gateField (h.src.setWidth 12)).toNat) (gateField g) 9
        (.gateOp (h.arg.getLsbD 0) g (BitVec.ofNat 2 (h.arg.toNat / 2)) (h.src.setWidth 12) (some h.swafer)) (v.before h))) ∧
      (gateIdOk g = false → exec (.gate m h) s = .next gone))

/-- Answers to remote requests (R271, R341 to R343): RACK and RNAK end the tracking entry of their RTAG, the requester receiving WRITE_ACK or
ERROR_RESP with the status, and count as LATE where no entry matches; an answer for another mill goes on to it over the mesh,
and waits there for the packet; after ML_RTIMEOUT.MS an entry ends with ROUTE; a held operation goes on once no earlier write of
its source is outstanding. -/
def Claims.RemoteAnswers : Prop :=
  ∀ (s : State) (m : MillNo) (h : ChonelHdr) (i : BitVec 12),
    let here : Prop := ∃ p ∈ s.net, forwarded m h p = true
    let got : State := if s.net.any (forwarded m h) then s.arrived (forwarded m h) else s.setMill m ((s.mill m).take h)
    let v := got.mill m
    let found := v.tracks.find? fun t => t.index == h.rtag.toNat % 4096 && t.gen.toNat == h.rtag.toNat / 4096
    let v' := s.mill m
    (s.notYet (forwarded m h) = true → here ∧ exec (.rack m h) s = .next s ∧ exec (.rnak m h) s = .next s) ∧
    (s.notYet (forwarded m h) = false →
      (h.dmill ≠ m → let t := got.millForward m h.dmill h (.hub (millField m) (millUnit m) 0) 0 []
        exec (.rack m h) s = .next t ∧ exec (.rnak m h) s = .next t) ∧
      (h.dmill = m → found = none → let t := got.setMill m { v with late := satAdd v.late 1 }
        exec (.rack m h) s = .next t ∧ exec (.rnak m h) s = .next t) ∧
      (∀ t, h.dmill = m → found = some t →
        exec (.rack m h) s = .next (got.endTrack m t (.writeAck t.tag) false) ∧
        exec (.rnak m h) s = .next (got.endTrack m t (.errorResp t.tag (h.arg.setWidth 4) false)
          (h.arg.setWidth 4 != (5 : BitVec 4))))) ∧
    (∀ t, v'.tracks.find? (fun t => t.index == i.toNat) = some t →
      (t.since + v'.rtimeout.toNat * 100000 ≤ s.tick →
        exec (.remoteTimeout m i) s = .next (s.endTrack m t (.errorResp t.tag 1 false) true)) ∧
      (s.tick < t.since + v'.rtimeout.toNat * 100000 → exec (.remoteTimeout m i) s = .next s)) ∧
    (v'.tracks.find? (fun t => t.index == i.toNat) = none → exec (.remoteTimeout m i) s = .next s) ∧
    ((∀ o ∈ v'.heldOps, o.waits ≠ [] ∨ o.queued ≠ []) → exec (.remoteLatchHandoff m) s = .next s) ∧
    (∀ pre o rest, v'.heldOps = pre ++ o :: rest → (∀ x ∈ pre, x.waits ≠ [] ∨ x.queued ≠ []) → o.waits = [] → o.queued = [] →
      exec (.remoteLatchHandoff m) s =
        .next ((s.setMill m { v' with heldOps := pre ++ rest }).unitSend (millField m) (millUnit m) o.field o.unit o.body))

/-- What a mill takes from the mesh to send (R242, R276, R340, R343; log entry 74): gate operations of its hub first, then what other mills
forward for another wafer; one that finds no free tracking entry waits; a locked-out mill drops a gate operation, counting it, and
answers the rest with error 2. -/
def Claims.MillTakes : Prop :=
  ∀ (s : State) (m : MillNo),
    let mine (p : Packet) : Bool := isFor p (.hub (millField m) (millUnit m) 0)
    let front := (frontOf (gateAt m) [] s.net).or (frontOf (forwardAt s.wafer m) [] s.net)
    (∀ p, gateAt m p = true ↔ mine p = true ∧ ∃ a b c d e, p.body = .gateOp a b c d e) ∧
    (∀ p, forwardAt s.wafer m p = true ↔ mine p = true ∧ ∃ h a b c, p.body = .forward h a b c ∧ h.dwafer ≠ s.wafer) ∧
    (front = none → s.millTakes m = s) ∧
    (∀ p, front = some p → let gone : State := { s with net := s.net.erase p }
      (∀ c g r k w, p.body = .gateOp c g r k w →
        (m ∈ s.millsOut → s.millTakes m = gone.setHub (millField m)
          { s.hub (millField m) with dropcnt := satAdd (s.hub (millField m)).dropcnt 1 }) ∧
        (m ∉ s.millsOut → s.millTakes m = gone.millOut m
          { pace := false, jobtag := s.jobtag, arg := BitVec.ofNat 8 ((if c then 1 else 0) + 2 * r.toNat), target := g.setWidth 17
            rtag := 0, src := k.setWidth 19, bytes := 0, addr := 0, endpoint := 0, kind := 0, dmill := 0, smill := m
            swafer := s.wafer, dwafer := w.getD s.wafer, len := 0, ctype := 4 } [])) ∧
      (∀ h src tag data, p.body = .forward h src tag data →
        (m ∈ s.millsOut → s.millTakes m = gone.millSend m src (.errorResp tag 2 false)) ∧
        (m ∉ s.millsOut → h.ctype = 1 ∨ h.ctype = 2 → s.millTakes m = gone.millOut m { h with smill := m } []) ∧
        (m ∉ s.millsOut → h.ctype ≠ 1 → h.ctype ≠ 2 → s.millTakes m = (gone.sendRemote m h src tag data).getD s)))

/-- Remote requests, the packets that carry them, their answers, and what a mill sends and delivers. -/
def Obligations.RemoteTraffic : Prop :=
  Claims.Headers ∧ Claims.MillSends ∧ Claims.Deliveries ∧ Claims.HeldOperations ∧ Claims.RemoteRequests ∧ Claims.PacketsArrive ∧
    Claims.RemoteAnswers ∧ Claims.MillTakes

/-! ### Threshing (12) -/

/-- HF96 (R350 to R352, R354): a finite element on the grid of E converts exactly, one out of range or not finite is an OVERFLOW
failure; the residue is that of the bit pattern's pieces; a right sum of right elements passes the adder check, and residues that
are one off in sum fail it; the checksum is the sum of the values. -/
def Claims.HF96 : Prop :=
  (∀ (x : Nat) (e : Int) neg mag exp, decodeF .b32 x = .fin neg mag exp → e ≤ exp →
    (mag * 2 ^ (exp - e).toNat < 2 ^ 83 → toHF96 e x =
      (some (BitVec.ofInt 96 ((if neg then -1 else 1) * ((mag * 2 ^ (exp - e).toNat : Nat) : Int))), false)) ∧
    (2 ^ 83 ≤ mag * 2 ^ (exp - e).toNat → toHF96 e x = (none, false))) ∧
  (∀ (x : Nat) (e : Int) neg mag exp r inexact, decodeF .b32 x = .fin neg mag exp → atQuantum mag exp e = (r, inexact) → r < 2 ^ 83 →
    toHF96 e x = (some (BitVec.ofInt 96 ((if neg then -1 else 1) * (r : Int))), mag != 0 && r == 0)) ∧
  (∀ (x : Nat) (e : Int) neg, decodeF .b32 x = .inf neg → toHF96 e x = (none, false)) ∧
  (∀ (x : Nat) (e : Int) canonical, decodeF .b32 x = .nan canonical → toHF96 e x = (none, false)) ∧
  (∀ v : BitVec 96, (residue v).toNat =
    (((List.range 7).map fun i => bits v (13 * i + 12) (13 * i)).sum + bits v 95 91 + (if v.msb then 8191 - 32 else 0)) % 8191) ∧
  (∀ (ls : List (List (BitVec 96 × BitVec 13))) (n : Nat), (∀ l ∈ ls, n ≤ l.length ∧ ∀ x ∈ l, x.2 = residue x.1) →
    (∀ k < n, ((ls.filterMap fun l => l[k]?).map fun x => x.1.toInt.natAbs).sum < 2 ^ 95) →
    addElems true ls n = ((List.range n).map fun k =>
      BitVec.ofInt 96 ((ls.filterMap fun l => l[k]?).map fun x => x.1.toInt).sum, false)) ∧
  (∀ (ls : List (List (BitVec 96 × BitVec 13))) (n : Nat),
    ((ls.filterMap List.head?).map fun x => x.2.toNat).sum % 8191 ≠
      (residue (((ls.filterMap List.head?).map fun x => x.1).foldl (· + ·) 0)).toNat →
    addElems true ls (n + 1) = ([], true)) ∧
  (∀ l : List (BitVec 96), hfChecksum l = BitVec.ofInt 64 (l.map BitVec.toInt).sum)

/-- A completion of a trigger gate (R347): it counts for every group of the mill that it triggers; one that makes the count a
multiple of the stride makes a step wait; where one waits already, the group is FAULTED, the first TRIGOVF failure enters the log,
and the ward is told. -/
def Claims.Triggers : Prop :=
  ∀ (s : State) (m : MillNo) (g : GateId),
    let v := s.mill m
    let t := s.trigger m g
    let due (x : ThrGroup) : Prop := x.trigger = g ∧ x.faulted = false ∧ (x.count + 1) % x.stride = 0
    (t.mill m).thrGroups.length = v.thrGroups.length ∧
    (∀ (k : Nat) (x : ThrGroup), v.thrGroups[k]? = some x →
      (x.trigger ≠ g ∨ x.faulted = true → (t.mill m).thrGroups[k]? = some x) ∧
      (x.trigger = g → x.faulted = false →
        ((x.count + 1) % x.stride ≠ 0 → (t.mill m).thrGroups[k]? = some { x with count := x.count + 1 }) ∧
        ((x.count + 1) % x.stride = 0 → x.waiting = false →
          (t.mill m).thrGroups[k]? = some { x with count := x.count + 1, waiting := true }) ∧
        ((x.count + 1) % x.stride = 0 → x.waiting = true →
          (t.mill m).thrGroups[k]? = some { x with count := x.count + 1, faulted := true, waiting := false }))) ∧
    ((∀ x : ThrGroup, x ∈ v.thrGroups → due x → x.waiting = false) →
      t = s.setMill m { v with thrGroups := (t.mill m).thrGroups }) ∧
    ((∃ x : ThrGroup, x ∈ v.thrGroups ∧ due x ∧ x.waiting = true) →
      let f : ThrFail := ⟨9, s.wafer, m, 0, 0⟩
      let w := ({ v with thrGroups := (t.mill m).thrGroups } : Mill).thrLog f 0 0
      ∃ l : List ThrGroup, (∀ x, x ∈ l ↔ x ∈ v.thrGroups ∧ due x ∧ x.waiting = true) ∧
        t = l.foldl (fun z x => z.thrNotice x.id (thrRecord x.steps 2 9 0 (some f) 0 0 0 0 0 s.tick))
          (s.setMill m { w with thrState := if v.run = none then .faulted else v.thrState })) ∧
    (∀ (w : Mill) (f : ThrFail) (tensor off : Nat),
      (w.thrFault.msb = true → w.thrLog f tensor off = w) ∧
      (w.thrFault.msb = false → tensor < 4096 → off < 2 ^ 30 → ∃ x : DWord, w.thrLog f tensor off = { w with thrFault := x } ∧
        x.msb = true ∧ bits x 62 59 = f.cause.toNat ∧ bits x 58 55 = f.input.toNat ∧ bits x 54 51 = f.level.toNat ∧
        bits x 50 42 = 0 ∧ bits x 41 30 = tensor ∧ bits x 29 0 = off))

/-- Mill wain 0 registers a segment in use in its cell, where an entry is free there (R170, R174, R349). -/
def Claims.SegmentsRegistered : Prop :=
  ∀ (s : State) (m : MillNo) (sg : ThrSeg),
    (∀ code, s.thrCell m sg.plot sg.px sg.py = .error code → State.registerSeg m s sg = s) ∧
    (∀ c, s.thrCell m sg.plot sg.px sg.py = .ok c →
      let k := wainKey (.mill m 0)
      (8 ≤ (s.cell c).board.length → State.registerSeg m s sg = s) ∧
      ((s.cell c).board.length < 8 → State.registerSeg m s sg =
        (s.setCell c { s.cell c with
          board := (s.cell c).board ++ [sbEntry sg.addr (4 * sg.count) false (.wain k)] }).setWain k { s.wain k with
            registered := true
            ranges := if c ∈ (s.wain k).ranges then (s.wain k).ranges else (s.wain k).ranges ++ [c] })) ∧
    (∀ (p : PlotId) (px py : Nat),
      let at_ := s.loftTarget (millField m) p (BitVec.ofNat 64 (p.toNat * 2 ^ 53 + px * 2 ^ 43 + py * 2 ^ 34))
      (at_ = none → s.thrCell m p px py = .error 6) ∧
      (∀ c, at_ = some c → (s.cell c).lockedOut = true ∨ s.isHole c = true → s.thrCell m p px py = .error 7) ∧
      (∀ c, at_ = some c → (s.cell c).lockedOut = false → s.isHole c = false → s.thrCell m p px py = .ok c))

/-- THRESH_STEP_START (R347, R348, R354): the waiting group of the lowest ID starts its next step in attempt 0, in the mode of
its record; a tree of this wafer alone is small, so AUTO is residue mode there (of a larger tree this wafer knows no size: log
entry 29). Mill wain 0 runs, and registers the segments; with a step running, or none waiting, nothing happens. -/
def Claims.StepStarts : Prop :=
  ∀ (s : State) (m : MillNo),
    let v := s.mill m
    (v.run ≠ none → exec (.threshStepStart m) s = .next s) ∧
    ((∀ g ∈ v.thrGroups, g.waiting = true → g.faulted = true) → exec (.threshStepStart m) s = .next s) ∧
    (∀ g, v.run = none → g ∈ v.thrGroups → g.waiting = true → g.faulted = false →
      (∀ x ∈ v.thrGroups, x.waiting = true → x.faulted = false → x ≠ g → g.id < x.id) →
      ∃ r : ThrRun, r = { group := g.id, step := g.steps, residue := r.residue, progress := s.tick } ∧
        (g.mode = 1 → r.residue = true) ∧ (g.mode = 2 → r.residue = false) ∧
        (g.mode ≠ 2 → (∀ t ∈ g.tensors, t.root = true ∧ t.children = []) → r.residue = true) ∧
        let w : Mill := { v with
          thrGroups := v.thrGroups.map fun x => if x.id = g.id then { x with waiting := false, steps := x.steps + 1 } else x
          thrState := .harvest
          thrGroup := BitVec.ofNat 4 g.id
          thrAttempt := 0
          thrStep := BitVec.ofNat 16 g.steps
          run := some r }
        let fresh (w : Wain) : Wain := if w.state = .error then { w with state := .idle, err := 0 } else w
        let k0 := wainKey (.mill m 0)
        let k1 := wainKey (.mill m 1)
        let w0 := fresh (s.wain k0)
        exec (.threshStepStart m) s = .next ((g.tensors.flatMap fun t => t.segs).foldl (State.registerSeg m)
          (((s.setMill m w).setWain k0 (if w0.faulting = none ∧ w0.state ≠ .faulted then { w0 with state := .running } else w0)).setWain
            k1 (fresh (s.wain k1)))))

/-- The packets that a node sends (R363): the header's fields; a packet leaves on a link that is UP and whose partner reports
THRESH or SWITCH, and on no other. -/
def Claims.ThreshHeaders : Prop :=
  ∀ (s : State) (x : MillNo) (r : ThrRun) (sub len n off : Nat) (t : ThrTensor) (dw : WaferId) (dm : MillNo),
    (let h := s.thrHdr x r sub t dw dm len n off
     sub < 8 → len < 8 → 1 ≤ n → n ≤ 256 → off < 2 ^ 30 →
      h.ctype = 5 ∧ h.jobtag = s.jobtag ∧ h.swafer = s.wafer ∧ h.smill = x ∧ h.dwafer = dw ∧ h.dmill = dm ∧
      h.endpoint = 0 ∧ h.kind = 0 ∧ h.src = 0 ∧ h.arg.toNat % 8 = sub ∧ hdrAttempt h = r.attempt % 4 ∧
      h.arg.getLsbD 5 = r.residue ∧ hdrStep h = r.step % 65536 ∧ (h.rtag.toNat : Int) = t.e % 512 ∧
      hdrTensor h = t.id.toNat ∧ h.addr.toNat % 2 ^ 30 = off ∧ h.bytes.toNat + 1 = n ∧ h.len.toNat = len) ∧
    (∀ v : Mill, v.threshes = true ↔ v.link = 7 ∧ ∃ p, v.partner = some p ∧ (p.thresh = true ∨ p.switch = true)) ∧
    (∀ (h : ChonelHdr) (payload : List Byte), s.thrOut x h payload = (if (s.mill x).threshes = true then s.millOut x h payload else s)) ∧
    (∀ payload, s.thrUp r t sub len n off payload =
      s.thrOut t.upMill (s.thrHdr t.upMill r sub t t.parent t.parentMill len n off) payload) ∧
    (∀ payload c cs, s.thrDownTo r t [] sub len n off payload = s ∧ s.thrDownTo r t (c :: cs) sub len n off payload =
      (s.thrOut c.down (s.thrHdr c.down r sub t c.wafer c.mill len n off) payload).thrDownTo r t cs sub len n off payload) ∧
    (s.childCut t = true ↔ ∃ c ∈ t.children, (s.mill c.down).threshes = false) ∧
    (∀ (g : ThrGroup) payload, ∃ l : List (ThrTensor × ThrChild),
      s.thrDownAll r g sub len payload = l.foldl (fun u y => u.thrDownTo r y.1 [y.2] sub len 1 0 payload) s ∧
      (∀ y ∈ l, y.1 ∈ g.tensors ∧ y.2 ∈ y.1.children) ∧
      (l.map fun y => (y.2.wafer, y.2.mill)).Nodup ∧
      ∀ t ∈ g.tensors, ∀ c ∈ t.children, (c.wafer, c.mill) ∈ l.map fun y => (y.2.wafer, y.2.mill))

/-- A failure (R357 to R359): the first is logged and kept; ABORT goes up where the tensor's parent is elsewhere; the owner of a
tensor answers a RESIDUE or CHECKSUM failure below MAXRERUN with RERUN down and the next attempt in residue mode on an empty window,
and any other with STOP down and a BAD step; another node sends no more, and one whose own link is lost ends the step BAD. -/
def Claims.ThreshFailures : Prop :=
  ∀ (s : State) (m : MillNo) (f : ThrFail) (k off : Nat) (own : Bool),
    ((s.mill m).runGroup = none → s.thrFail m f k off own = s ∧ ∀ c i, s.thrFailHere m c i k off = s ∧ s.thrFailNode m c = s) ∧
    (∀ r g, (s.mill m).runGroup = some (r, g) →
      let stop (z : State) (r : ThrRun) : State := (z.thrDownAll r g 5 1 (failBytes f)).setRun m { r with bad := true }
      let lost : Prop := own = true ∧ (f.cause = 5 ∨ f.cause = 6)
      (r.bad = true → s.thrFail m f k off own = s) ∧
      (r.bad = false → r.failed = true →
        (lost → s.thrFail m f k off own = stop s r) ∧ (¬ lost → s.thrFail m f k off own = s)) ∧
      (r.bad = false → r.failed = false →
        let id := match g.tensors[k]? with
          | some t => t.id.toNat
          | none => 0
        let r' : ThrRun := { r with first := (if r.first = none then some f else r.first), progress := s.tick }
        let logged := s.setMill m ((s.mill m).thrLog f id off)
        let told := match g.tensors[k]? with
          | some t => if t.root = true then logged else logged.thrUp r' t 2 1 1 0 (failBytes f)
          | none => logged
        let again : Prop := (f.cause = 2 ∨ f.cause = 3) ∧ r.attempt < g.maxRerun
        ((∃ t ∈ g.tensors, t.root = true) →
          (again → s.thrFail m f k off own =
            (told.thrDownAll { r' with attempt := r.attempt + 1 } g 6 0 []).thrRestart m r' (r.attempt + 1)) ∧
          (¬ again → s.thrFail m f k off own = stop told r')) ∧
        ((∀ t ∈ g.tensors, t.root = false) →
          (own = true ∧ f.cause = 6 → s.thrFail m f k off own = stop told r') ∧
          (¬ (own = true ∧ f.cause = 6) → s.thrFail m f k off own = told.setRun m { r' with failed := true }))) ∧
      (∀ c i t, g.tensors[k]? = some t → s.thrFailHere m c i k off =
        s.thrFail m ⟨BitVec.ofNat 4 c, s.wafer, m, s.thrLevel t, BitVec.ofNat 4 i⟩ k off true) ∧
      (∀ c n t, g.tensors[n]? = some t → t.root = false → (∀ j < n, ∀ u, g.tensors[j]? = some u → u.root = true) →
        s.thrFailNode m c = s.thrFailHere m c 0 n 0) ∧
      (∀ c, (∀ t ∈ g.tensors, t.root = true) → s.thrFailNode m c = s.thrFailHere m c 0 0 0) ∧
      (∀ n, let v := s.mill m
        s.thrRestart m r n = s.setMill m { v with
          thrState := if v.thrState = .harvest then .harvest else .up
          thrAttempt := BitVec.ofNat 2 n
          thrRerun := satAdd v.thrRerun 1
          run := some { r with attempt := n, residue := true, recv := [], checks := [], done := 0, summed := 0, sums := [],
                               failed := false, progress := s.tick } })) ∧
    (∀ t : ThrTensor, (t.root = true → s.thrLevel t = 0) ∧ (t.root = false → s.thrLevel t ≠ 0))

/-- What else befalls a node (R303, R358, R366): a lost link is a LINK failure of each node with a tree over it; a mill wain in error
is a WAIN failure, and its harvest is over; a compute reset sends ABORT up and STOP down with cause ABANDONED first. -/
def Claims.ThreshEvents : Prop :=
  ∀ (s : State) (m : MillNo),
    (∀ link, s.thrLinkLost link = (List.range 32).foldl (fun (z : State) i =>
      let n : MillNo := BitVec.ofNat 5 i
      let uses (t : ThrTensor) : Bool := (!t.root && t.upMill == link) || t.children.any fun c => c.down == link
      match (z.mill n).runGroup with
      | none => z
      | some (_, g) => match g.tensors.findIdx? uses with
        | some k => z.thrFailHere n 6 0 k 0
        | none => z) s) ∧
    (let v := s.mill m
     s.thrWainEnds m = (s.setMill m { v with
      thrState := if v.thrState = .harvest ∧ (s.wain (wainKey (.mill m 0))).state = .error then .up else v.thrState }).thrFailNode m 7) ∧
    (s.thrWainBad m = true ↔
      (s.wain (wainKey (.mill m 0))).state = .error ∨ (s.wain (wainKey (.mill m 1))).state = .error) ∧
    (s.thrJudge m = if s.thrWainBad m = true then s.thrWainEnds m else s) ∧
    (let reset (z : State) : State := z.setMill m { z.mill m with
        thrGroups := [], thrState := .idle, thrGroup := 0, thrAttempt := 0, thrStep := 0, thrFault := 0, thrLost := 0, thrStale := 0,
        thrBad := 0, thrRerun := 0, run := none }
     ((s.mill m).runGroup = none → s.thrAbandon m = reset s) ∧
     (∀ r g (t : ThrTensor), (s.mill m).runGroup = some (r, g) →
      (∃ n : Nat, g.tensors[n]? = some t ∧ t.root = false ∧ ∀ j < n, ∀ u, g.tensors[j]? = some u → u.root = true) →
      let f : ThrFail := ⟨8, s.wafer, m, s.thrLevel t, 0⟩
      s.thrAbandon m = reset ((s.thrUp r t 2 1 1 0 (failBytes f)).thrDownAll r g 5 1 (failBytes f))) ∧
     (∀ r g (t : ThrTensor), (s.mill m).runGroup = some (r, g) → (∀ u ∈ g.tensors, u.root = true) → g.tensors[0]? = some t →
      let f : ThrFail := ⟨8, s.wafer, m, 0, 0⟩
      s.thrAbandon m = reset (s.thrDownAll r g 5 1 (failBytes f))))

/-- What a mill does with a THRESH packet (R353, R359, R363): it waits for its turn in the mesh; a foreign job tag drops it and counts
it; another mill of the wafer receives it over the mesh; one of a step that this wafer has yet to start is held, and so is one of an
attempt yet to be joined where the packet is held for it; with another step or attempt it is dropped and counted as stale; and one
for the running step is taken. -/
def Claims.ThreshTaken : Prop :=
  ∀ (s : State) (m : MillNo) (h : ChonelHdr) (payload : List Byte) (ok : Nat → Bool) (later : Bool),
    let take := s.thrTake m h payload ok later
    let gone := if (∃ p ∈ s.net, forwarded m h p = true) then s.arrived (forwarded m h) else s.setMill m ((s.mill m).take h)
    let stale := gone.setMill m { gone.mill m with thrStale := satAdd (gone.mill m).thrStale 1 }
    let groups := (gone.mill m).thrGroups
    (s.notYet (forwarded m h) = true → take = .hold) ∧
    (s.notYet (forwarded m h) = false →
      (h.jobtag ≠ gone.jobtag → take = .gone (gone.setMill m { gone.mill m with dropJob := satAdd (gone.mill m).dropJob 1 })) ∧
      (h.jobtag = gone.jobtag → h.dwafer ≠ gone.wafer → h.ctype ≠ 0 →
        take = .gone (gone.setMill m { gone.mill m with dropBad := satAdd (gone.mill m).dropBad 1 })) ∧
      (h.jobtag = gone.jobtag → h.dwafer = gone.wafer →
        (h.dmill ≠ m → take = .gone (gone.millForward m h.dmill h (.hub (millField m) (millUnit m) 0) 0 payload)) ∧
        (h.dmill = m →
          ((∀ g ∈ groups, ∀ t ∈ g.tensors, t.id.toNat ≠ hdrTensor h) → take = .gone stale) ∧
          (∀ g, groups.find? (fun g => g.tensors.any fun t => t.id.toNat == hdrTensor h) = some g →
            let current (r : ThrRun) : Prop := r.group = g.id ∧ hdrStep h = r.step % 65536
            ((∀ r, (gone.mill m).run = some r → ¬ current r) →
              (hdrStep h = g.steps % 65536 → g.faulted = false → take = .hold) ∧
              (hdrStep h ≠ g.steps % 65536 ∨ g.faulted = true → take = .gone stale)) ∧
            (∀ r, (gone.mill m).run = some r → current r →
              let joins : Prop := later = true ∧ r.attempt < hdrAttempt h ∧ r.bad = false
              (joins → take = .hold) ∧
              (¬ joins → ok r.attempt = false → take = .gone stale) ∧
              (¬ joins → ok r.attempt = true → ∀ i t, g.tensors.findIdx? (fun t => t.id.toNat == hdrTensor h) = some i →
                g.tensors[i]? = some t →
                let now : ThrRun := { r with progress := s.tick }
                take = .take (gone.setRun m now) now g i t))))))

/-- UP and UPEND (R353 to R356): elements enter the window of the input that sent them, and the node works on; elements beyond the
window's 16,384 wait; another E is an EXP failure and a wrong residue a RESIDUE failure at that input; UPEND brings the subtree's
checksum; a node that has failed drops both; and a packet of no child is stale. -/
def Claims.PacketsUp : Prop :=
  ∀ (s : State) (m : MillNo) (h : ChonelHdr) (elems : List (BitVec 96 × BitVec 13)) (x : DWord),
    (let take := s.thrTake m h (upPayload (h.arg.getLsbD 5) elems) (fun a => a == hdrAttempt h) true
     let becomes (t : State) : Prop := exec (.up m h elems) s = .next t
     (∀ t, take = .gone t → becomes t) ∧ (take = .hold → becomes s) ∧
     (∀ t r g i d, take = .take t r g i d →
      (r.bad = true ∨ r.failed = true → becomes t) ∧
      (r.bad = false → r.failed = false → g.tensors ≠ [] →
        (d.inputOf h = none → becomes (t.setMill m { t.mill m with thrStale := satAdd (t.mill m).thrStale 1 })) ∧
        (∀ j, d.inputOf h = some j →
          (16384 < r.window j + elems.length → becomes s) ∧
          (r.window j + elems.length ≤ 16384 →
            let u := t.count (millCtr m 10) elems.length
            (d.otherE h = true → becomes (u.thrFailHere m 4 j i (h.addr.toNat % 2 ^ 30))) ∧
            (d.otherE h = false →
              (∀ n e, r.residue = true → elems[n]? = some e → e.2 ≠ residue e.1 →
                (∀ k < n, ∀ y, elems[k]? = some y → y.2 = residue y.1) →
                becomes (u.thrFailHere m 2 j i (h.addr.toNat % 2 ^ 30 + n))) ∧
              (r.residue = true → (∀ e ∈ elems, e.2 = residue e.1) ∨ r.residue = false →
                becomes ((u.setRun m { r with
                  recv := Store.insert r.recv (16 * i + j) (Store.get [] r.recv (16 * i + j) ++ elems) }).thrWork m)))))))) ∧
    (let take := s.thrTake m h (padBytes (leBytes 8 x.toNat) 32) (fun a => a == hdrAttempt h) true
     let becomes (t : State) : Prop := exec (.upend m h x) s = .next t
     (∀ t, take = .gone t → becomes t) ∧ (take = .hold → becomes s) ∧
     (∀ t r g i d, take = .take t r g i d →
      (r.bad = true ∨ r.failed = true → becomes t) ∧
      (r.bad = false → r.failed = false →
        (d.inputOf h = none → becomes (t.setMill m { t.mill m with thrStale := satAdd (t.mill m).thrStale 1 })) ∧
        (∀ j, d.inputOf h = some j →
          (d.otherE h = true → becomes (t.thrFailHere m 4 j i (h.addr.toNat % 2 ^ 30))) ∧
          (d.otherE h = false → becomes ((t.setRun m { r with checks := Store.insert r.checks (16 * i + j) x }).thrWork m)))))) ∧
    (∀ t : ThrTensor,
      (t.otherE h = true ↔ (h.rtag.toNat % 512 : Int) ≠ t.e % 512) ∧
      (t.inputOf h = none ↔ ∀ c ∈ t.children, c.wafer ≠ h.swafer) ∧
      (∀ k c, t.children[k]? = some c → c.wafer = h.swafer → (∀ i < k, ∀ y, t.children[i]? = some y → y.wafer ≠ h.swafer) →
        t.inputOf h = some (k + 1)))

/-- ABORT, RERUN and STOP (R356, R357, R359): ABORT is a failure that the node learns of; RERUN goes on to the children and starts its
attempt, with a LINK failure where a child's link does not carry it; STOP goes on and ends the step BAD; another E is an EXP failure. -/
def Claims.PacketsOfFailure : Prop :=
  ∀ (s : State) (m : MillNo) (h : ChonelHdr) (f : ThrFail),
    let at_ (i : Nat) (d : ThrTensor) (t : State) : State :=
      t.thrFailHere m 4 (match d.inputOf h with
        | some j => j
        | none => 0) i (h.addr.toNat % 2 ^ 30)
    (let take := s.thrTake m h (failBytes f) (fun a => a == hdrAttempt h) true
     (∀ t, take = .gone t → exec (.abort m h f) s = .next t) ∧ (take = .hold → exec (.abort m h f) s = .next s) ∧
     (∀ t r g i d, take = .take t r g i d →
      (d.otherE h = true → exec (.abort m h f) s = .next ((at_ i d t).thrResume m)) ∧
      (d.otherE h = false → exec (.abort m h f) s = .next ((t.thrFail m f i 0 false).thrResume m)))) ∧
    (let take := s.thrTake m h [] (fun a => decide (a < hdrAttempt h)) false
     (∀ t, take = .gone t → exec (.rerun m h) s = .next t) ∧ (take = .hold → exec (.rerun m h) s = .next s) ∧
     (∀ t r g i d, take = .take t r g i d →
      (r.bad = true → exec (.rerun m h) s = .next t) ∧
      (r.bad = false → d.otherE h = true → exec (.rerun m h) s = .next (at_ i d t)) ∧
      (r.bad = false → d.otherE h = false →
        let u := (t.thrDownAll { r with attempt := hdrAttempt h, residue := true } g 6 0 []).thrRestart m r (hdrAttempt h)
        ((∀ d ∈ g.tensors, u.childCut d = false) → exec (.rerun m h) s = .next (u.thrResume m)) ∧
        (∀ k, g.tensors.findIdx? u.childCut = some k → exec (.rerun m h) s = .next (u.thrFailHere m 6 0 k 0))))) ∧
    (let take := s.thrTake m h (failBytes f) (fun _ => true) false
     (∀ t, take = .gone t → exec (.stop m h f) s = .next t) ∧ (take = .hold → exec (.stop m h f) s = .next s) ∧
     (∀ t r g i d, take = .take t r g i d →
      (r.bad = true → exec (.stop m h f) s = .next t) ∧
      (r.bad = false → d.otherE h = false → exec (.stop m h f) s = .next ((t.thrDownAll r g 5 1 (failBytes f)).setRun m { r with
        bad := true
        first := if r.first = none then some f else r.first })) ∧
      (r.bad = false → d.otherE h = true → ∃ f' : ThrFail, exec (.stop m h f) s =
        .next (((at_ i d t).thrDownAll r g 5 1 (failBytes f')).setRun m { r with
          bad := true
          first := if r.first = none then some f' else r.first }))))

/-- DOWN and DOWNEND (R356, R363, R364): the packet goes on to the children, with a LINK failure where a child's link does not carry
it; DOWN adds its values; DOWNEND waits until no instruction works on a return range, records cause RETCRC where the CRC-32C is
wrong, and delivers what was received. -/
def Claims.PacketsDown : Prop :=
  ∀ (s : State) (m : MillNo) (h : ChonelHdr) (vals : List Word) (crc : Word),
    let at_ (i : Nat) (d : ThrTensor) (t : State) : State :=
      t.thrFailHere m 4 (match d.inputOf h with
        | some j => j
        | none => 0) i (h.addr.toNat % 2 ^ 30)
    (let take := s.thrTake m h (wordsBytes vals) (fun a => a == hdrAttempt h) true
     (∀ t, take = .gone t → exec (.down m h vals) s = .next t) ∧ (take = .hold → exec (.down m h vals) s = .next s) ∧
     (∀ t r g i d, take = .take t r g i d →
      (r.bad = true ∨ d.root = true → exec (.down m h vals) s = .next t) ∧
      (r.bad = false → d.root = false →
        (d.otherE h = true → exec (.down m h vals) s = .next (at_ i d t)) ∧
        (d.otherE h = false →
          let u := (t.thrDownTo r d d.children 3 h.len.toNat vals.length (h.addr.toNat % 2 ^ 30) (wordsBytes vals)).setRun m { r with
            vals := Store.insert r.vals i (Store.get [] r.vals i ++ vals) }
          (u.childCut d = false → exec (.down m h vals) s = .next u) ∧
          (u.childCut d = true → exec (.down m h vals) s = .next (u.thrFailHere m 6 0 i 0)))))) ∧
    (let take := s.thrTake m h (padBytes (leBytes 4 crc.toNat) 32) (fun a => a == hdrAttempt h) true
     (∀ t, take = .gone t → exec (.downend m h crc) s = .next t) ∧ (take = .hold → exec (.downend m h crc) s = .next s) ∧
     (∀ t r g i d, take = .take t r g i d →
      (r.bad = true ∨ d.root = true → exec (.downend m h crc) s = .next t) ∧
      (r.bad = false → d.root = false →
        (d.otherE h = true → exec (.downend m h crc) s = .next (at_ i d t)) ∧
        (d.otherE h = false → t.retsClear m d = false → exec (.downend m h crc) s = .next s) ∧
        (d.otherE h = false → t.retsClear m d = true →
          let got := Store.get [] r.vals i
          let u := t.thrDownTo r d d.children 4 1 1 0 (padBytes (leBytes 4 crc.toNat) 32)
          let f : ThrFail := ⟨10, u.wafer, m, u.thrLevel d, 0⟩
          let w := if crc = crc32c (wordsBytes got) then u
            else (u.setMill m ((u.mill m).thrLog f d.id.toNat 0)).setRun m { r with first := if r.first = none then some f else r.first }
          (w.childCut d = false → exec (.downend m h crc) s = .next (w.thrReturn m i d got)) ∧
          (w.childCut d = true → exec (.downend m h crc) s = .next ((w.thrFailHere m 6 0 i 0).thrReturn m i d got)))))) ∧
    (∀ (t : State) (n : Nat) (x : ThrSeg),
      (t.rangeClear m n x = true ↔ ∀ c, t.thrCell m x.plot x.px x.py = .ok c →
        ((t.cell c).board.length < 8 ∨ ∃ b ∈ (t.cell c).board, b.owner = .wain (wainKey (.mill m 0))) ∧
        ∀ b ∈ (t.cell c).board, (∀ k, b.owner ≠ .wain k) →
          (let e := sbEntry x.addr n false (.wain (wainKey (.mill m 0)))
           rangesMeet (b.start, b.stop) (e.start, e.stop) = false)) ∧
      ∀ d : ThrTensor, t.retsClear m d = true ↔
        ∀ x ∈ d.rets, t.rangeClear m (castBytes d.cast d.block x.addr x.count) x = true)

/-- One segment is harvested (R349, R350): it is read, its elements converted in order, and left at zero; an element out of range
stands as a value left open and is the tensor's OVERFLOW; a cell that cannot be reached is the wain's error; packets that meet an
unclaimed window count as refused, in the read and in the write. -/
def Claims.Harvests : Prop :=
  (∀ (m : MillNo) (e : Int) (s : State) (h : Harvest) (sg : ThrSeg),
    (∀ code, s.thrCell m sg.plot sg.px sg.py = .error code → State.harvestSeg m e (s, h) sg =
      (s, { h with err := if h.err = none then some code else h.err })) ∧
    (∀ c, s.thrCell m sg.plot sg.px sg.py = .ok c →
      let ps := pieces256 (4 * sg.count + 1) sg.addr (4 * sg.count)
      let n := (ps.filter fun p => s.refusedRange c p.1 p.2).length
      let read := ((List.range (2 * n)).foldl (fun (z : State) _ => z.wainRefused (wainKey (.mill m 0))) s).loftRead c sg.addr (4 * sg.count) 2
      let got := ((List.range sg.count).map fun i => leAt read.2.1 (4 * i) 4).foldl (read.1.harvestElem e) (h, 0)
      State.harvestSeg m e (s, h) sg =
        (({ read.1 with drawn := read.1.drawn + got.2 }).loftWrite c sg.addr (List.replicate (4 * sg.count) (some 0)),
          if read.2.2 = true then { got.1 with err := if got.1.err = none then some 5 else got.1.err } else got.1))) ∧
  (∀ (s : State) (e : Int) (h : Harvest) (n w : Nat),
    (∀ v lost, toHF96 e w = (some v, lost) → s.harvestElem e (h, n) w =
      ({ h with elems := h.elems ++ [(v, residue v)], lost := if lost = true then h.lost + 1 else h.lost }, n)) ∧
    (∀ lost, toHF96 e w = (none, lost) → ∃ v, s.harvestElem e (h, n) w =
      ({ h with elems := h.elems ++ [(v, residue v)], ovf := if h.ovf = none then some h.elems.length else h.ovf }, n + 1))) ∧
  (∀ (s : State) (m : MillNo) (ts : List ThrTensor) (g : ThrGroup) (t : ThrTensor),
    (g.tensors = [] → s.harvestAll m g = (s, [])) ∧
    (g.tensors = ts ++ [t] →
      let x := s.harvestAll m { g with tensors := ts }
      let y := t.segs.foldl (State.harvestSeg m t.e) (x.1, {})
      s.harvestAll m g = (y.1, x.2 ++ [y.2])))

/-- HARVEST_COMPLETE (R349, R359): once no instruction works on a segment, the harvest goes to the retention buffer, the harvest latch
is set, and the node works on from its contribution, with an OVERFLOW as a failure; for a rerun, the contribution is read back from
the retention buffer; a page fault or an error of the wain stops it. -/
def Claims.HarvestEnds : Prop :=
  ∀ (s : State) (m : MillNo),
    let becomes (t : State) : Prop := exec (.harvestComplete m) s = .next t
    ((s.mill m).runGroup = none → becomes s) ∧
    (∀ r g, (s.mill m).runGroup = some (r, g) →
      ((s.mill m).thrState = .up → becomes (s.thrResume m)) ∧
      ((s.mill m).thrState ≠ .up → (s.mill m).thrState ≠ .harvest → becomes s) ∧
      ((s.mill m).thrState = .harvest → (∃ t ∈ g.tensors, ∃ x ∈ t.segs, s.rangeClear m (4 * x.count) x = false) → becomes s) ∧
      ((s.mill m).thrState = .harvest → (∀ t ∈ g.tensors, ∀ x ∈ t.segs, s.rangeClear m (4 * x.count) x = true) →
        let k := wainKey (.mill m 0)
        let total := 16 * (g.tensors.map fun t => t.count).sum
        (∀ u, s.places m k true (runsAt g.retention total) = (u, none) → becomes (u.thrJudge m)) ∧
        (∀ u ps, s.places m k true (runsAt g.retention total) = (u, some ps) →
          let got := u.harvestAll m g
          let kept := (got.1.putPlaces (got.2.flatMap fun h => h.elems.flatMap retainBytes) ps).countMoved k total
          let r' := got.2.zipIdx.foldl (fun (z : ThrRun) x => z.putOwn x.2 x.1.elems) { r with
            progress := kept.tick
            ovf := got.2.zipIdx.findSome? fun x => x.1.ovf.map fun n => (x.2, n) }
          let v := kept.mill m
          let up := kept.setMill m { v with
            run := some r'
            thrState := .up
            thrLost := satAdd v.thrLost (got.2.map fun h => h.lost).sum }
          let free := up.releaseRanges k
          let done := (free.setWain k (free.wain k).rest).latchSet g.harvest
          ((∀ h ∈ got.2, h.err = none) → becomes (done.thrResume m)) ∧
          (∀ code, got.2.findSome? (fun h => h.err) = some code → becomes ((done.millError k code).thrResume m))))) ∧
    (∀ (r : ThrRun) (i : Nat) (l : List (BitVec 96 × BitVec 13)), r.putOwn i l = { r with
      recv := Store.insert r.recv (16 * i) l
      checks := Store.insert r.checks (16 * i) (hfChecksum (l.map fun x => x.1)) })

/-- A node works on (R354, R358, R359): with its contribution there, on the sums; after a rerun it is read back first, through mill
wain 1, and a wrong residue in it is a RESIDUE failure of input 0; a mill wain in error and an OVERFLOW are failures. -/
def Claims.NodeResumes : Prop :=
  ∀ (s : State) (m : MillNo),
    ((s.mill m).runGroup = none → s.thrResume m = s ∧ s.thrWork m = s) ∧
    (∀ r g, (s.mill m).runGroup = some (r, g) →
      (s.thrWork m = s.thrAdvance m (g.tensors.length + 1)) ∧
      ((s.mill m).thrState = .harvest ∨ r.bad = true ∨ r.failed = true → s.thrResume m = s) ∧
      ((s.mill m).thrState ≠ .harvest → r.bad = false → r.failed = false →
        (s.thrWainBad m = true → s.thrResume m = s.thrWainEnds m) ∧
        (s.thrWainBad m = false → ∀ i off, r.ovf = some (i, off) → s.thrResume m = s.thrFailHere m 1 0 i off) ∧
        (s.thrWainBad m = false → r.ovf = none →
          (Store.find? r.recv 0 ≠ none → s.thrResume m = s.thrWork m) ∧
          (Store.find? r.recv 0 = none →
            (∀ u, s.reloadOwn m r g = (u, none) → s.thrResume m = u.thrJudge m) ∧
            (∀ u r', s.reloadOwn m r g = (u, some r') →
              let z := u.setRun m r'
              let k := wainKey (.mill m 1)
              let w := z.setWain k (z.wain k).rest
              (r'.badOwn g = none → s.thrResume m = w.thrWork m) ∧
              (∀ i off, r'.badOwn g = some (i, off) → s.thrResume m = w.thrFailHere m 2 0 i off))))) ∧
      (let k := wainKey (.mill m 1)
       let total := 16 * (g.tensors.map fun t => t.count).sum
       (∀ u, s.places m k false (runsAt g.retention total) = (u, none) → s.reloadOwn m r g = (u, none)) ∧
       (∀ u ps, s.places m k false (runsAt g.retention total) = (u, some ps) →
        let read := u.getPlaces ps
        (read.2.2 = true → s.reloadOwn m r g = (read.1.millError k 4, none)) ∧
        (read.2.2 = false → ∃ r', s.reloadOwn m r g = (read.1, some r') ∧
          r' = { r with recv := r'.recv, checks := r'.checks } ∧
          ∀ i t, g.tensors[i]? = some t →
            ∃ l : List (BitVec 96 × BitVec 13), Store.get [] r'.recv (16 * i) = l ∧ l.length = t.count ∧
              Store.get 0 r'.checks (16 * i) = hfChecksum (l.map fun x => x.1) ∧
              ∀ j < t.count, ∀ b : Nat, b = 16 * (((g.tensors.take i).map fun t => t.count).sum + j) →
                l[j]? = some (BitVec.ofNat 96 (leAt read.2.1 b 12), BitVec.ofNat 13 (leAt read.2.1 (b + 12) 4))))) ∧
      (∀ i off, r.badOwn g = some (i, off) → i < g.tensors.length ∧
        ∃ x : BitVec 96 × BitVec 13, (Store.get [] r.recv (16 * i))[off]? = some x ∧ x.2 ≠ residue x.1) ∧
      (r.badOwn g = none ↔ ∀ i < g.tensors.length, ∀ x ∈ Store.get [] r.recv (16 * i), x.2 = residue x.1))

/-- The sums (R353, R355, R360): a node that is not in UP, or has failed, does not advance; with every tensor done it reaches winnowing
at the root and waits for the values elsewhere; until its own contribution is there it waits; it adds as many elements as every input
has delivered, keeps the rest in the window, and sends sums up in packets of 14 or 16; the root writes them to the sum buffer in
binary32; a failed adder check is a RESIDUE failure of input 15, a wrong checksum at the root a CHECKSUM failure. -/
def Claims.NodeAdvances : Prop :=
  ∀ (s : State) (m : MillNo) (fuel : Nat),
    let stays (t : State) : Prop := s.thrAdvance m (fuel + 1) = t
    ((s.mill m).runGroup = none → stays s) ∧
    (∀ r g, (s.mill m).runGroup = some (r, g) →
      ((s.mill m).thrState ≠ .up ∨ r.bad = true ∨ r.failed = true → stays s) ∧
      ((s.mill m).thrState = .up → r.bad = false → r.failed = false →
        let v := s.mill m
        (g.tensors[r.done]? = none →
          ((∀ t ∈ g.tensors, t.root = false) → stays (s.setMill m { v with thrState := .down })) ∧
          ((∃ t ∈ g.tensors, t.root = true) → stays (s.setMill m { v with
            thrState := .winnow
            run := some { r with reached := true }
            thrGroups := if r.reached = true then v.thrGroups
              else v.thrGroups.map fun x => if x.id = g.id then { x with winnowed := x.winnowed + 1 } else x }))) ∧
        (∀ t, g.tensors[r.done]? = some t →
          let i := r.done
          let keys := (List.range (t.children.length + 1)).map fun j => 16 * i + j
          (Store.find? r.recv (16 * i) = none → stays s) ∧
          (Store.find? r.recv (16 * i) ≠ none → t.root = false → (s.mill t.upMill).threshes = false →
            stays (s.thrFailHere m 6 0 i r.summed)) ∧
          (Store.find? r.recv (16 * i) ≠ none → t.root = true ∨ (s.mill t.upMill).threshes = true →
            let ls := keys.map fun k => Store.get [] r.recv k
            ∃ n : Nat, n ≤ t.count ∧ (∀ l ∈ ls, n ≤ l.length) ∧ (n = t.count ∨ ∃ l ∈ ls, l.length = n) ∧
            let sum := addElems r.residue ls n
            let early : Prop := t.root = true ∧ r.residue = true
            ∃ (u : State) (put : Bool), (early → (u, put) = s.putSums m t r.summed sum.1) ∧ (¬ early → (u, put) = (s, true)) ∧
              (put = false → stays (u.thrJudge m)) ∧
              (put = true →
                let old := Store.get [] r.sums i
                let chi := Store.get (0 : DWord) r.checks (16 * i + 15) + hfChecksum sum.1
                ∃ (recv : Store (List (BitVec 96 × BitVec 13))) (sums : Store (List (BitVec 96))),
                  (∀ k, Store.get [] recv k = if k ∈ keys then (Store.get [] r.recv k).drop sum.1.length else Store.get [] r.recv k) ∧
                  (early → sums = r.sums) ∧ (¬ early → sums = Store.insert r.sums i (old ++ sum.1)) ∧
                let r' : ThrRun := { r with
                  recv := recv
                  sums := sums
                  checks := Store.insert r.checks (16 * i + 15) chi
                  summed := r.summed + sum.1.length }
                let w := u.setRun m r'
                let sent := if t.root = true then w else w.sendSums m t i (r'.summed == t.count) (t.count + 1)
                (sum.2 = true → stays (sent.thrFailHere m 2 15 i r'.summed)) ∧
                (sum.2 = false → r'.summed ≠ t.count → stays sent) ∧
                (sum.2 = false → r'.summed = t.count →
                  (r'.subtree t i = none → stays sent) ∧
                  (∀ x, r'.subtree t i = some x →
                    (t.root = true → r.residue = false → x ≠ chi → stays (sent.thrFailHere m 3 15 i 0)) ∧
                    (t.root = true → r.residue = false → x = chi →
                      (∀ z, sent.putSums m t 0 (old ++ sum.1) = (z, false) → stays (z.thrJudge m)) ∧
                      (∀ z, sent.putSums m t 0 (old ++ sum.1) = (z, true) → ∀ y, (z.mill m).run = some y →
                        stays ((z.setRun m { y with done := y.done + 1, summed := 0 }).thrAdvance m fuel))) ∧
                    (early → ∀ y, (sent.mill m).run = some y →
                      stays ((sent.setRun m { y with done := y.done + 1, summed := 0 }).thrAdvance m fuel)) ∧
                    (t.root = false →
                      let z := sent.thrUp r' t 1 1 1 0 (padBytes (leBytes 8 x.toNat) 32)
                      ∀ y, (z.mill m).run = some y →
                        stays ((z.setRun m { y with done := y.done + 1, summed := 0 }).thrAdvance m fuel))))))))) ∧
    (∀ (r : ThrRun) (t : ThrTensor) (i : Nat),
      (r.residue = true → r.subtree t i = some 0) ∧
      (r.residue = false → (∃ j ≤ t.children.length, Store.find? r.checks (16 * i + j) = none) → r.subtree t i = none) ∧
      (r.residue = false → (∀ j ≤ t.children.length, Store.find? r.checks (16 * i + j) ≠ none) →
        r.subtree t i = some (((List.range (t.children.length + 1)).map fun j => Store.get (0 : DWord) r.checks (16 * i + j)).foldl
          (· + ·) 0)))

/-- The packets of sums (R353, R363), and the sum buffer (R360). -/
def Claims.SumsLeave : Prop :=
  (∀ (s : State) (m : MillNo) (t : ThrTensor) (i : Nat) (last : Bool) (fuel : Nat) (r : ThrRun), (s.mill m).run = some r →
    let l := Store.get [] r.sums i
    let size := if r.residue = true then 14 else 16
    let off := r.summed - l.length
    let send (n : Nat) : State :=
      let es := (l.take n).map fun v => (v, residue v)
      ((s.thrUp r t 0 (upLen r.residue n) n off (upPayload r.residue es)).count (millCtr m 9) n).setRun m { r with
        sums := Store.insert r.sums i (l.drop n) }
    (l = [] ∨ (last = false ∧ l.length < size) → s.sendSums m t i last (fuel + 1) = s) ∧
    (size ≤ l.length → s.sendSums m t i last (fuel + 1) = (send size).sendSums m t i last fuel) ∧
    (last = true → l ≠ [] → l.length < size → s.sendSums m t i last (fuel + 1) = (send l.length).sendSums m t i last fuel)) ∧
  (∀ (s : State) (m : MillNo) (t : ThrTensor) (off : Nat) (l : List (BitVec 96)),
    let k := wainKey (.mill m 1)
    let got := s.places m k true (runsAt (t.sum + 4 * off) (4 * l.length))
    (got.2 = none → s.putSums m t off l = (got.1, false)) ∧
    (∀ ps, got.2 = some ps →
      let u := (got.1.putPlaces (l.flatMap fun v => leBytes 4 (ofHF96 t.e v)) ps).countMoved k (4 * l.length)
      s.putSums m t off l = (u.setWain k (u.wain k).rest, true))) ∧
  (∀ (e : Int) (v : BitVec 96), ofHF96 e v = (roundFin .b32 (decide (v.toInt < 0)) v.toInt.natAbs e).1) ∧
  (∀ (x y : BitVec 96 × BitVec 13) (l : List (BitVec 96 × BitVec 13)), upPayload true (x :: y :: l) =
    leBytes 12 x.1.toNat ++ leBytes 12 y.1.toNat ++ leBytes 2 x.2.toNat ++ leBytes 2 y.2.toNat ++ leBytes 4 0 ++ upPayload true l) ∧
  (∀ l : List (BitVec 96 × BitVec 13), upPayload false l = l.flatMap fun x => leBytes 12 x.1.toNat) ∧
  upLen true 14 = 7 ∧ upLen false 16 = 6 ∧ upLen false 8 = 3 ∧ (∀ n, 1 ≤ n → n ≤ 14 → upLen true n = (n + 1) / 2)

/-- The wains of a mill reach the granary (R301, R303, R306): a wain that has stopped moves nothing; an unmapped page, or one of
copies to be written, is a page fault; a fallow stack is MAPERR's STACK, a read of the map that fails MAP; else the bytes are written
and read where the map says. -/
def Claims.MillWains : Prop :=
  ∀ (s : State) (m : MillNo) (k : Nat) (write : Bool) (a n : Nat) (l : List (Nat × Nat)),
    ((s.wain k).faulting ≠ none ∨ (s.wain k).state = .faulted ∨ (s.wain k).state = .error → s.places m k write l = (s, none)) ∧
    ((s.wain k).faulting = none → (s.wain k).state ≠ .faulted → (s.wain k).state ≠ .error →
      s.places m k write [] = (s, some []) ∧
      (∀ u c x, s.translateIn (millField m) (s.wain k).cache a write = (u, c, x) →
        let z := u.setWain k { u.wain k with cache := c }
        let fault (prot : Bool) : State :=
          let w := z.wain k
          z.setWain k (if w.faulting ≠ none ∨ w.faultSeq ≠ none ∨ w.state = .error then w
            else { w with faulting := some (faultWord write prot false a) })
        (x = .invalid → s.places m k write ((a, n) :: l) = (fault false, none)) ∧
        (x = .readOnly → s.places m k write ((a, n) :: l) = (fault true, none)) ∧
        (x = .noStack → s.places m k write ((a, n) :: l) = (z.millError k 3, none)) ∧
        (x = .mapError → s.places m k write ((a, n) :: l) = (z.millError k 4, none)) ∧
        (∀ p y ps, x = .phys p → z.millPlaces m k write l = (y, ps) → s.places m k write ((a, n) :: l) =
          (y, ps.map fun ps => (p, n) :: ps)))) ∧
    ((s.wain k).state = .error → ∀ code, s.millError k code = s) ∧
    ((s.wain k).state ≠ .error → ∀ code, s.millError k code = s.wainError k code) ∧
    (∀ bytes p, s.putPlaces bytes [] = s ∧
      s.putPlaces bytes ((p, n) :: l) = (s.granWrite p (bytes.take n)).putPlaces (bytes.drop n) l) ∧
    (∀ p, s.getPlaces [] = (s, [], false) ∧
      let x := s.granRead p n 0
      let y := x.1.getPlaces l
      s.getPlaces ((p, n) :: l) = (y.1, x.2.1 ++ y.2.1, x.2.2 || y.2.2)) ∧
    (∀ w : Wain, (w.state = .running → w.chains = [] → w.rest = { w with state := .idle }) ∧
      (w.state ≠ .running ∨ w.chains ≠ [] → w.rest = w))

/-- WINNOW (R360, R361, R364): the tensors of which this wafer is the owner are winnowed in record order, each once its return ranges
are free; the values go down and are delivered here; a page fault or an error of the wain stops it where it is. -/
def Claims.Winnows : Prop :=
  ∀ (s : State) (m : MillNo),
    ((s.mill m).runGroup = none → exec (.winnow m) s = .next s) ∧
    (∀ r g, (s.mill m).runGroup = some (r, g) →
      ((s.mill m).thrState ≠ .winnow ∨ r.bad = true ∨ r.failed = true → exec (.winnow m) s = .next s) ∧
      ((s.mill m).thrState = .winnow → r.bad = false → r.failed = false →
        ∀ t whole, State.winnowAll m g.winnowed g.tensors.zipIdx s = (t, whole) →
        (whole = true → exec (.winnow m) s = .next (t.setMill m { t.mill m with thrState := .down })) ∧
        (whole = false → exec (.winnow m) s = .next (t.thrJudge m)))) ∧
    (∀ (n : Nat) (t : ThrTensor) (i : Nat) (l : List (ThrTensor × Nat)) (r : ThrRun), (s.mill m).run = some r →
      let all := State.winnowAll m n ((t, i) :: l) s
      (State.winnowAll m n [] s = (s, true)) ∧
      (t.root = false ∨ i ∈ r.ended → all = State.winnowAll m n l s) ∧
      (t.root = true → i ∉ r.ended →
        (r.bad = true ∨ r.failed = true ∨ s.retsClear m t = false → all = (s, false)) ∧
        (r.bad = false → r.failed = false → s.retsClear m t = true →
          (∀ u, s.winnowOne m t n = (u, none) → all = (u, false)) ∧
          (∀ u vals nv of_ fl, s.winnowOne m t n = (u, some (vals, nv, of_, fl)) →
            let sent := (u.setRun m { r with nv := r.nv + nv, of_ := r.of_ + of_, fl := r.fl + fl }).thrSendDown
              { r with nv := r.nv + nv, of_ := r.of_ + of_, fl := r.fl + fl } t vals
            (sent.childCut t = false → all = State.winnowAll m n l (sent.thrReturn m i t vals)) ∧
            (sent.childCut t = true → all = State.winnowAll m n l ((sent.thrFailHere m 6 0 i 0).thrReturn m i t vals)))))) ∧
    (∀ (r : ThrRun) (t : ThrTensor) (vals : List Word), vals.length ≤ 56 → vals ≠ [] →
      s.thrSendDown r t vals =
        (s.thrDownTo r t t.children 3 ((vals.length + 7) / 8) vals.length 0 (wordsBytes vals)).thrDownTo r t t.children 4 1 1 0
          (padBytes (leBytes 4 (crc32c (wordsBytes vals)).toNat) 32))

/-- One tensor is winnowed (R361): of a program that names no stream, each element of the sum buffer gives the OUT value of the
program run on it, and the events are counted; an unreadable word ends mill wain 1 with MAP; the operations are those of the table. -/
def Claims.WinnowerRuns : Prop :=
  (∀ (s : State) (m : MillNo) (t : ThrTensor) (n : Nat), (∀ w ∈ t.prog, bits w 31 26 ≠ 2 ∧ bits w 31 26 ≠ 3) →
    let k := wainKey (.mill m 1)
    let got := s.places m k false (runsAt t.sum (4 * t.count))
    (got.2 = none → s.winnowOne m t n = (got.1, none)) ∧
    (∀ ps, got.2 = some ps →
      let read := got.1.getPlaces ps
      (read.2.2 = true → s.winnowOne m t n = (read.1.millError k 4, none)) ∧
      (read.2.2 = false →
        let run (e : Nat) : Winnower := t.prog.foldl (Winnower.step (leAt read.2.1 (4 * e) 4) (fun _ => 0) (fun i =>
          match t.consts[i]? with
          | some x => x.toNat
          | none => 0) n) {}
        let xs := (List.range t.count).map run
        let u := read.1.countMoved k (4 * t.count)
        s.winnowOne m t n = (u.setWain k (u.wain k).rest, some (xs.map fun x => BitVec.ofNat 32 x.out,
          (xs.map fun x => x.nv).sum, (xs.map fun x => x.of_).sum, (xs.map fun x => x.fl).sum))))) ∧
  (∀ (g t : Nat) (stream const : Nat → Nat) (x : Winnower) (i : Word),
    let d := bits i 25 22
    let a := x.reg (bits i 21 18)
    let b := x.reg (bits i 17 14)
    let c := x.reg (bits i 13 10)
    let k := bits i 9 5
    let op := bits i 31 26
    let next := Winnower.step g stream const t x i
    (op = 0 → next = x) ∧ (op = 1 → next = x.put d (g, 0)) ∧ (op = 2 → next = x.put d (stream k, 0)) ∧
    (op = 3 → next = { x with outs := Store.insert x.outs k a }) ∧ (op = 4 → next = x.put d (const k, 0)) ∧
    (op = 5 → next = x.put d (powC (const k) t)) ∧ (op = 6 → next = x.put d (addC .b32 a b)) ∧
    (op = 7 → next = x.put d (subC .b32 a b)) ∧ (op = 8 → next = x.put d (mulC .b32 a b)) ∧
    (op = 9 → next = x.put d (fmaC false .b32 a b c)) ∧ (op = 10 → next = x.put d (divC a b)) ∧
    (op = 11 → next = x.put d (sqrtC a)) ∧ (op = 12 → next = x.put d (minMaxC false .b32 a b)) ∧
    (op = 13 → next = x.put d (minMaxC true .b32 a b)) ∧ (op = 14 → next = x.put d (a % 2 ^ 31, 0)) ∧
    (op = 15 → next = x.put d ((a + 2 ^ 31) % 2 ^ 32, 0)) ∧
    (op = 16 → next = x.put d (if (cmpC .lt .b32 b a).1 = 0 then x.reg d else c, (cmpC .lt .b32 b a).2)) ∧
    (op = 17 → next = { x with out := a }) ∧ (18 ≤ op → next = x)) ∧
  (∀ (x : Winnower) (d r : Nat) (fl : AFlags),
    (x.put d (r, fl)).reg d = r ∧ (∀ e, e ≠ d → (x.put d (r, fl)).reg e = x.reg e) ∧ ∀ e, (({} : Winnower).reg e) = 0) ∧
  (∀ l : List Word, progOk l = true ↔
    1 ≤ l.length ∧ l.length ≤ 64 ∧ (∀ w ∈ l, bits w 31 26 ≤ 17 ∧ bits w 4 0 = 0 ∧ (bits w 31 26 = 2 ∨ bits w 31 26 = 3 → bits w 9 5 ≤ 4)) ∧
    ((l.filter fun w => bits w 31 26 == 3).map fun w => bits w 9 5).Nodup ∧ (l.filter fun w => bits w 31 26 == 17).length = 1)

/-- The return (R358, R364): each return record's values are cast and written by mill wain 0, in packets that count as refused where
they meet an unclaimed window; block losses are kept; a wain that fails is a WAIN failure. -/
def Claims.Returns : Prop :=
  (∀ (s : State) (m : MillNo) (t : ThrTensor) (vals : List Word) (x : ThrSeg),
    let k := wainKey (.mill m 0)
    let one := State.thrReturnOne m t vals s x
    ((s.wain k).faulting ≠ none ∨ (s.wain k).state = .faulted ∨ (s.wain k).state = .error → one = s) ∧
    ((s.wain k).faulting = none → (s.wain k).state ≠ .faulted → (s.wain k).state ≠ .error →
      (∀ code, s.thrCell m x.plot x.px x.py = .error code → one = s.millError k code) ∧
      (∀ c, s.thrCell m x.plot x.px x.py = .ok c →
        ∀ parts losses, castRange t.cast t.block x.addr ((vals.drop x.first).take x.count) = (parts, losses) →
        ∃ ps : List (Nat × List Byte),
          ps = parts.flatMap (fun p => (pieces256 (p.2.length + 1) p.1 p.2.length).map fun q =>
            (q.1, (p.2.drop (q.1 - p.1)).take q.2)) ∧
          let n := (ps.filter fun p => s.refusedRange c p.1 p.2.length).length
          let u := (List.range n).foldl (fun (z : State) _ => z.wainRefused k) s
          let w := (ps.foldl (fun z p => z.loftWrite c p.1 (p.2.map some)) u).countMoved k (ps.map fun p => p.2.length).sum
          ∀ r, (w.mill m).run = some r → one = w.setRun m { r with refused := r.refused + n, losses := r.losses + losses }))) ∧
  (∀ (s : State) (m : MillNo) (i : Nat) (t : ThrTensor) (vals : List Word),
    let u := t.rets.foldl (State.thrReturnOne m t vals) s
    (u.thrWainBad m = true → s.thrReturn m i t vals = u.thrFailHere m 7 0 i 0) ∧
    (u.thrWainBad m = false → ∀ r, (u.mill m).run = some r →
      s.thrReturn m i t vals = u.setRun m { r with ended := r.ended ++ [i], progress := u.tick })) ∧
  (∀ (t : ElemType) (a : Nat) (l : List Word),
    castRange t none a l = ([(a, (l.map fun x => (cvtC .binary32 t x.toNat).1).flatMap (leBytes (elemBits t / 8)))], 0)) ∧
  (∀ (t : ElemType) (b : BlockSize) (a : Nat) (l : List Word), l.length = blockLen b →
    let xs := l.map fun (x : Word) => decodeF .b32 x.toNat
    let code := blockScale t xs
    let rs := xs.map (blockElem t code)
    let es := (rs.map fun r => r.1).flatMap (leBytes (elemBits t / 8))
    castRange t (some b) a l = ([(a, es), ((a + es.length + 63) / 64 * 64, [BitVec.ofNat 8 code])],
      (rs.filter fun r => r.2.2).length)) ∧
  (∀ (a n : Nat) (fuel : Nat), pieces256 (fuel + 1) a 0 = [] ∧
    (0 < n → let x := min n (256 - a % 256)
      pieces256 (fuel + 1) a n = (a, x) :: pieces256 fuel (a + x) (n - x)))

/-- NODE_TIMEOUT and THRESH_STATUS_RECORD (R358, R365): a node that makes no progress for its timeout takes a TIMEOUT failure; when
every range is returned, or the step is BAD, and no harvest is on the way, the status record is written to the status cell, the
return latch is set, the ranges are free, and the engine rests; the ward is told of any status other than DONE. -/
def Claims.StepEnds : Prop :=
  ∀ (s : State) (m : MillNo),
    ((s.mill m).runGroup = none →
      exec (.nodeTimeout m) s = .next s ∧ exec (.threshStatusRecord m) s = .next s) ∧
    (∀ r g, (s.mill m).runGroup = some (r, g) →
      (s.tick < r.progress + g.timeout * 100000 → exec (.nodeTimeout m) s = .next s) ∧
      (r.progress + g.timeout * 100000 ≤ s.tick → exec (.nodeTimeout m) s = .next (s.thrFailNode m 5)) ∧
      (let moves : Prop := (s.wain (wainKey (.mill m 0))).faulting = none ∧ (s.wain (wainKey (.mill m 0))).state ≠ .faulted ∧
        (s.wain (wainKey (.mill m 0))).state ≠ .error
       let ends : Prop := (r.bad = true ∨ ∀ i < g.tensors.length, i ∈ r.ended) ∧ ((s.mill m).thrState = .harvest → ¬ moves)
       (¬ ends → exec (.threshStatusRecord m) s = .next s) ∧
       (ends →
        let status := if r.bad = true ∨ r.failed = true then 2 else if r.attempt ≠ 0 then 1 else 0
        let cause := match r.first with
          | some f => f.cause.toNat
          | none => 0
        let rec_ := thrRecord r.step status cause r.attempt r.first r.refused r.losses r.nv r.of_ r.fl s.tick
        let k := wainKey (.mill m 0)
        ∃ u : State, (∀ c, s.thrCell m g.plot g.px g.py = .ok c → u = s.loftWrite c g.addr (rec_.map some)) ∧
          (∀ e, s.thrCell m g.plot g.px g.py = .error e → u = s) ∧
          let v := u.latchSet g.ret
          ∃ w : State, ((v.wain k).chains = [] → w = (v.releaseRanges k).setWain k ((v.releaseRanges k).wain k).rest) ∧
            ((v.wain k).chains ≠ [] → w = v) ∧
            let x := w.mill m
            let z := w.setMill m { x with
              run := none
              thrState := if (∃ g ∈ x.thrGroups, g.faulted = true) then .faulted else .idle
              thrBad := if status = 2 then satAdd x.thrBad 1 else x.thrBad }
            exec (.threshStatusRecord m) s = .next (if status = 0 then z else z.thrNotice g.id rec_)))) ∧
    (∀ (step status cause attempts refused losses nv of_ fl tick : Nat) (f : ThrFail),
      let l := thrRecord step status cause attempts (some f) refused losses nv of_ fl tick
      l.length = 32 ∧ leAt l 0 4 = step % 2 ^ 32 ∧ leAt l 4 1 = status % 256 ∧ leAt l 5 1 = cause % 256 ∧
      leAt l 6 1 = attempts % 256 ∧ leAt l 7 1 = f.input.toNat ∧ leAt l 8 2 = f.wafer.toNat ∧ leAt l 10 1 = f.mill.toNat ∧
      leAt l 11 1 = f.level.toNat ∧ leAt l 12 4 = refused % 2 ^ 32 ∧ leAt l 16 4 = losses % 2 ^ 32 ∧
      leAt l 20 2 = min nv 65535 ∧ leAt l 22 1 = min of_ 255 ∧ leAt l 23 1 = min fl 255 ∧ leAt l 24 8 = tick % 2 ^ 64)

/-- The steps of threshing: their triggers, the harvest, the return and the end. -/
def Obligations.ThreshSteps : Prop :=
  Claims.Triggers ∧ Claims.SegmentsRegistered ∧ Claims.StepStarts ∧ Claims.Harvests ∧ Claims.HarvestEnds ∧ Claims.MillWains ∧
    Claims.Returns ∧ Claims.StepEnds

/-- The sums of a node and the winnower. -/
def Obligations.ThreshSums : Prop :=
  Claims.HF96 ∧ Claims.NodeResumes ∧ Claims.NodeAdvances ∧ Claims.SumsLeave ∧ Claims.Winnows ∧ Claims.WinnowerRuns

/-- The packets of threshing and its failures. -/
def Obligations.ThreshPackets : Prop :=
  Claims.ThreshHeaders ∧ Claims.ThreshFailures ∧ Claims.ThreshEvents ∧ Claims.ThreshTaken ∧ Claims.PacketsUp ∧
    Claims.PacketsOfFailure ∧ Claims.PacketsDown

/-! ### Wains at work (10) -/

/-- An error of a wain (R170, R306, R446): its ranges leave the scoreboards, its chains stop with its error code, and the plot that
owns it faults with class 4; a fault of the ward takes the next number and names each plot in a notice. -/
def Claims.WainErrors : Prop :=
  ∀ (s : State) (k code : Nat),
    (let z := s.releaseRanges k
     (∀ c, z.cell c = if c ∈ (s.wain k).ranges then { s.cell c with board := (s.cell c).board.filter fun e => e.owner != .wain k }
        else s.cell c) ∧
      z.wain k = { s.wain k with ranges := [], registered := false } ∧ (∀ j, j ≠ k → z.wain j = s.wain j) ∧
      z = { s with cells := z.cells, wains := z.wains }) ∧
    (let z := s.releaseRanges k
     let w : Wain := { z.wain k with
       desc := none, packets := [], issued := 0, partDst := none, part := [], partPages := [], miss := none, faulting := none
       state := .error, err := BitVec.ofNat 4 code, chains := [] }
     let id := wainOfKey k
     s.wainError k code = (z.setWain k w).fault 4 ((wainField id).toNat * 64 + (wainUnit id).toNat)
       (leBytes 4 w.status.toNat ++ leBytes 8 w.descAddr.toNat ++ leBytes 4 w.progress.toNat) 0
       (if w.owner.toNat < 96 then [w.owner] else []))

/-- The addresses of a wain (R289, R301, R303, R306, R307): a LOFT address names a cell of its plot, and RANGE where there is none; a
granary address is translated by the cache, a miss waits for the map, and a write where the entry permits none is a page fault; a HOST
address needs a window that takes it and is not going; a REMOTE one goes to the wain's mill; any other space is RANGE. -/
def Claims.WainAddresses : Prop :=
  (∀ (s : State) (k : Nat) (a : DWord) (off n : Nat) (write : Bool) (rank : Nat),
    let w := s.wain k
    let id := wainOfKey k
    let got := s.resolve k a off n write rank
    let at_ (top : Nat) : Nat := bits a top 0 + off
    (bits a 63 60 = 0 →
      (s.loftTarget (wainField id) w.owner a = none → got = .err 6) ∧
      (∀ c, s.loftTarget (wainField id) w.owner a = some c →
        (2 ^ 21 < at_ 20 + n → got = .err 6) ∧ (at_ 20 + n ≤ 2 ^ 21 → got = .ok (.cell c) (at_ 20) none))) ∧
    (bits a 63 60 = 1 →
      (2 ^ 42 < at_ 41 + n → got = .err 6) ∧
      (at_ 41 + n ≤ 2 ^ 42 →
        ((∀ e ∈ w.cache, e.1.toNat ≠ pageOf (at_ 41)) → got = .miss (at_ 41)) ∧
        (∀ pg e, w.cache.find? (fun e => e.1.toNat == pageOf (at_ 41)) = some (pg, e) →
          (write = true → e.getLsbD 62 = false → got = .fault (at_ 41) true) ∧
          (write = false ∨ e.getLsbD 62 = true → let p := bits e 41 21 * 2 ^ 21 + at_ 41 % 2 ^ 21
            got = .ok (.stack (p / 2 ^ 38 % 16)) p (some pg))))) ∧
    (bits a 63 60 = 2 → let win := BitVec.ofNat 6 (bits a 53 48)
      (∀ x, s.windowOk win (at_ 47) n write = some x → x.closing = false → got = .ok (.host win) (at_ 47) none) ∧
      (s.windowOk win (at_ 47) n write = none ∨ (∃ x, s.windowOk win (at_ 47) n write = some x ∧ x.closing = true) →
        got = .err 9)) ∧
    (bits a 63 60 = 3 →
      (2 ^ 42 < at_ 41 + n → got = .err 6) ∧
      (at_ 41 + n ≤ 2 ^ 42 → got = .ok (.remote (s.wainMill id) (BitVec.ofNat 21 rank)) (at_ 41) none)) ∧
    (4 ≤ bits a 63 60 → got = .err 6)) ∧
  (∀ (s : State) (f : FieldNo) (owner : PlotId) (a : DWord),
    let p : PlotId := if bits a 59 53 = 127 then owner else BitVec.ofNat 7 (bits a 59 53)
    let px := bits a 52 43
    let py := bits a 42 34
    let here : Prop := p.toNat < 96 ∧ (s.plot p).state ≠ .empty ∧ px < (s.plot p).width.toNat ∧ py < (s.plot p).height.toNat ∧
      ∀ x y, (s.plot p).state = .scanned → (s.plot p).scan ≠ some (.granary x y)
    (¬ here → s.loftTarget f owner a = none) ∧
    (here → let o := Store.get 0 (s.niOfHub f).origins p.toNat
      s.loftTarget f owner a = some (mkCell (lxOf o + px) (lyOf o + py)))) ∧
  (∀ (s : State) (f : FieldNo) (x : MillNo), (s.mill x).licensed = true →
    let hops (m : MillNo) : Nat :=
      let g := millField m
      let dx := (fxOf f - fxOf g) + (fxOf g - fxOf f)
      let dy := (fyOf f - fyOf g) + (fyOf g - fyOf f)
      (if dx = 0 then 0 else 78 * (dx - 1) + 1) + 64 * dy
    (s.mill (s.homeMill f)).licensed = true ∧ hops (s.homeMill f) ≤ hops x ∧
    (hops (s.homeMill f) = hops x → (s.homeMill f).toNat ≤ x.toNat))

/-- The layouts (R290, R291): LINEAR, STRIDED, TRANSPOSE, and the skewed ones with their scale codes and four-bit slots; what makes
a descriptor malformed (R11, R12, R292); and the pieces of a packet. -/
def Claims.Layouts : Prop :=
  (∀ (d : BitVec 512) (k : Nat),
    let lay := bits d 63 61
    let row := dfield d 40 2
    let m := dfield d 42 2
    let z := 2 ^ (bits d 60 58 - 1)
    let sstride := dfield d 32 4
    let dstride := dfield d 36 4
    let plain (off : Nat) : SrcByte := ⟨false, off, none⟩
    (lay = 0 → srcOf d k = [plain k] ∧ dstOff d k = k) ∧
    (lay = 1 → srcOf d k = [plain (k / row * sstride + k % row)] ∧ dstOff d k = k / row * dstride + k % row) ∧
    (lay = 2 → ∀ r c b, r < bits d 31 0 / row → b < z → k = (c * (bits d 31 0 / row) + r) * z + b →
      srcOf d k = [plain (r * sstride + c * z + b)] ∧ dstOff d k = c * dstride + r * z + b) ∧
    (lay = 3 → k < bits d 31 0 → dstOff d k = k ∧
      (∀ t i b, 0 < m → t < m → i < 16 → k = t * row + i * z + b → i * z + b < row → b < z → bits d 60 58 ≠ 0 →
        srcOf d k = [plain ((t + m * 16 - i) % m * sstride + i * z + b)]) ∧
      (∀ t b, 0 < m → t < m → k = t * row + b → b < row → bits d 60 58 = 0 → srcOf d k =
        [⟨false, (t + m * 16 - 2 * b) % m * sstride + b, some (false, false)⟩,
         ⟨false, (t + m * 16 - (2 * b + 1)) % m * sstride + b, some (true, true)⟩])) ∧
    (lay = 3 → bits d 31 0 ≤ k →
      srcOf d k = [⟨true, (k - bits d 31 0) * dstride + bits d 39 32 * 2 ^ (3 + bits d 54 53) / (8 * 2 ^ bits d 56 55), none⟩] ∧
      let base := spaceLow (dDst d)
      base + dstOff d k = (base + bits d 31 0 + 63) / 64 * 64 + (k - bits d 31 0)) ∧
    (lay = 4 → ∀ l i b, 0 < m → l < m → i < 16 → b < z → k = l * (16 * z) + i * z + b →
      srcOf d k = [plain ((l + m * 16 - i) % m * (16 * z) + i * z + b)] ∧ dstOff d k = k) ∧
    (dTotal d = bits d 31 0 + (if lay = 3 ∧ d.getLsbD 57 = true ∧ bits d 31 0 ≠ 0 then m else 0))) ∧
  (∀ (d : BitVec 512) (w h : Nat),
    let lay := bits d 63 61
    let sl := bits d 60 58
    let row := dfield d 40 2
    let m := dfield d 42 2
    let z := 2 ^ (sl - 1)
    let len := bits d 31 0
    let latch := dfield d 44 4
    let cell := dfield d 48 4
    let src := BitVec.ofNat 64 (dfield d 8 8)
    let dst := BitVec.ofNat 64 (dfield d 16 8)
    let next := BitVec.ofNat 64 (dfield d 24 8)
    let codes := BitVec.ofNat 64 (dfield d 56 8)
    let scales : Prop := lay = 3 ∧ d.getLsbD 57 = true
    let badEnd : Prop :=
      (d.getLsbD 52 = false ∧ (next.toNat % 64 ≠ 0 ∨ 2 ≤ bits next 63 60 ∨ rsvdAddr next = true)) ∨
      (d.getLsbD 49 = true ∧ bits dst 63 60 ≠ 3) ∨
      (d.getLsbD 51 = true ∧ (2 ^ 17 ≤ latch ∨ 48 ≤ latch / 2048 % 64)) ∨
      (d.getLsbD 50 = true ∧ (2 ^ 19 ≤ cell ∨ w ≤ cell % 1024 ∨ h ≤ cell / 1024 % 512))
    (len = 0 → (malformed d w h = true ↔ badEnd)) ∧
    (len ≠ 0 → (malformed d w h = true ↔ badEnd ∨ 5 ≤ lay ∨ 6 ≤ sl ∨ (scales ∧ bits d 54 53 = 3) ∨
      rsvdAddr src = true ∨ rsvdAddr dst = true ∨ (scales ∧ rsvdAddr codes = true) ∨ d.getLsbD 48 = true ∨ bits d 43 40 ≠ 0 ∨
      bits src 63 60 = 3 ∨ (scales ∧ bits codes 63 60 = 3) ∨ (bits dst 63 60 = 3 ∧ 2 ^ 21 ≤ dfield d 52 4) ∨
      ((lay = 1 ∨ lay = 2) ∧ (row = 0 ∨ len % row ≠ 0)) ∨ (lay = 2 ∧ (sl = 0 ∨ sl = 5 ∨ row % z ≠ 0)) ∨
      (lay = 3 ∧ (row = 0 ∨ m = 0 ∨ len ≠ m * row ∨ (row * 8 ≠ 8 * slotBits sl ∧ row * 8 ≠ 16 * slotBits sl) ∨
        (d.getLsbD 57 = true ∧ bits d 56 55 = 0))) ∨
      (lay = 4 ∧ ((sl ≠ 4 ∧ sl ≠ 5) ∨ m = 0 ∨ len ≠ m * 16 * z)))) ∧
    (∀ a : DWord, rsvdAddr a = true ↔ (bits a 63 60 = 0 ∧ bits a 33 21 ≠ 0) ∨ (bits a 63 60 = 1 ∧ bits a 59 42 ≠ 0) ∨
      (bits a 63 60 = 2 ∧ bits a 59 54 ≠ 0) ∨ (bits a 63 60 = 3 ∧ bits a 59 42 ≠ 0) ∨ 4 ≤ bits a 63 60)) ∧
  (∀ (d : BitVec 512) (k n : Nat) (p : RawPiece), p ∈ rawPieces d k n →
    1 ≤ p.n ∧ p.at_ + p.n ≤ n ∧
    (∀ i < p.n, (⟨p.code, p.off + i, p.nib⟩ : SrcByte) ∈ srcOf d (k + p.at_ + i)) ∧
    (let base := if p.code = true then spaceLow (dScalesrc d) else spaceLow (dSrc d)
     (base + p.off) / 2 ^ 21 = (base + p.off + p.n - 1) / 2 ^ 21)) ∧
  (∀ (d : BitVec 512) (k n i : Nat) (x : SrcByte), i < n → x ∈ srcOf d (k + i) →
    ∃ p ∈ rawPieces d k n, p.at_ ≤ i ∧ i < p.at_ + p.n ∧ p.code = x.code ∧ p.nib = x.nib ∧ p.off + (i - p.at_) = x.off)

/-- DESCRIPTOR_FETCH (R287, R289, R292, R296, R301, R303): a running wain with a chain and no descriptor takes the 64 B at its
address from the loft or the granary; a refused read counts and gives zeros; a malformed one is error DESC, an uncorrectable read
LOFT_UE or GRAN_UE, a page not cached is awaited, and one that the map does not permit faults. A wain not in that position, or that
a scan-out stops, fetches nothing. -/
def Claims.DescriptorFetches : Prop :=
  ∀ (s : State) (id : WainId),
    let k := wainKey id
    let w := s.wain k
    let becomes (t : State) : Prop := exec (.descriptorFetch id) s = .next t
    (w.state ≠ .running ∨ w.chains = [] ∨ w.desc ≠ none ∨ w.miss ≠ none ∨ w.faulting ≠ none → becomes s) ∧
    (w.state = .running → w.chains ≠ [] → w.desc = none → w.miss = none → w.faulting = none →
      (w.stopReq = true → becomes (s.setWain k w.settleStop)) ∧
      (w.stopReq = false →
        (∀ code, s.resolve k w.descAddr 0 64 false 0 = .err code → becomes (s.wainError k code)) ∧
        (∀ x, s.resolve k w.descAddr 0 64 false 0 = .miss x →
          becomes (s.setWain k { w with state := .waitmap, miss := some (BitVec.ofNat 42 x, false, true) })) ∧
        (∀ x p, s.resolve k w.descAddr 0 64 false 0 = .fault x p →
          becomes (s.setWain k { w with faulting := some (faultWord false p true x) })) ∧
        (∀ t x pg, s.resolve k w.descAddr 0 64 false 0 = .ok t x pg → let u := s.setWain k (w.touch pg)
          (∀ c, t = .cell c →
            ((u.cell c).lockedOut = true ∨ u.isHole c = true → becomes (u.wainError k 7)) ∧
            ((u.cell c).lockedOut = false → u.isHole c = false →
              (u.refusedRange c x 64 = true →
                becomes (((u.countRefused c).wainRefused k).takeDescriptor k (List.replicate 64 0))) ∧
              (u.refusedRange c x 64 = false → ∀ v bytes bad, u.loftRead c x 64 2 = (v, bytes, bad) →
                becomes (if bad then v.wainError k 5 else v.takeDescriptor k bytes)))) ∧
          (∀ n, t = .stack n →
            ((u.stack n).state ≠ .active → becomes (u.wainError k 3)) ∧
            ((u.stack n).state = .active → ∀ v bytes bad, u.granRead x 64 0 = (v, bytes, bad) →
              becomes (if bad then v.wainError k 4 else v.takeDescriptor k bytes))) ∧
          ((∃ win, t = .host win) ∨ (∃ m r, t = .remote m r) → becomes (u.wainError k 6))))) ∧
    (∀ bytes : List Byte,
      let d := BitVec.ofNat 512 (leNat bytes)
      let fresh : Wain := { w with progress := 0, issued := 0, packets := [], registered := false, ranges := [] }
      let z := s.setWain k fresh
      let shape := if w.owner.toNat < 96 then ((s.plot w.owner).width.toNat, (s.plot w.owner).height.toNat) else (0, 0)
      (malformed d shape.1 shape.2 = true → s.takeDescriptor k bytes = z.wainError k 2) ∧
      (malformed d shape.1 shape.2 = false → s.takeDescriptor k bytes = z.setWain k { z.wain k with desc := some d, err := 0 }))

/-- Packets (R293): a packet starts at the first byte not yet issued; its bytes lie at consecutive destination addresses, do not
cross a 256 B boundary, and are no more than the limit or than the descriptor has left; and no packet could be longer. -/
def Claims.PacketLengths : Prop :=
  ∀ (d : BitVec 512) (k lim : Nat), k < dTotal d → 1 ≤ lim → lim ≤ 256 →
    let n := packetLen d k lim 257 0
    1 ≤ n ∧ n ≤ lim ∧ k + n ≤ dTotal d ∧ (∀ i < n, dstOff d (k + i) = dstOff d k + i) ∧
    (spaceLow (dDst d) + dstOff d k) / 256 = (spaceLow (dDst d) + dstOff d k + n - 1) / 256 ∧
    (n < lim → k + n < dTotal d → dstOff d (k + n) ≠ dstOff d (k + n - 1) + 1 ∨
      (spaceLow (dDst d) + dstOff d (k + n)) % 256 = 0)

/-- WAIN_RANGE_REGISTER (R170, R172, R174): the ranges of a descriptor, one for its writes and one for its reads in each cell, enter
the scoreboards of their cells together, or the wain waits for room. -/
def Claims.RangesEnter : Prop :=
  ∀ (s : State) (id : WainId),
    let k := wainKey id
    let w := s.wain k
    let becomes (t : State) : Prop := exec (.wainRangeRegister id) s = .next t
    (w.desc = none ∨ w.registered = true ∨ w.faulting ≠ none ∨ (w.state ≠ .running ∧ w.state ≠ .waitmap) → becomes s) ∧
    (∀ d, w.desc = some d → w.registered = false → w.faulting = none → w.state = .running ∨ w.state = .waitmap →
      let rs := s.descRanges k d
      let room : Prop := ∀ r ∈ rs, (s.cell r.1).board.length + (rs.filter fun x => x.1 == r.1).length ≤ 8
      (¬ room → becomes (s.setWain k { w with state := .waitmap })) ∧
      (room → ∃ t : State, becomes t ∧
        t.wain k = { w with state := .running, registered := true, ranges := (rs.map fun r => r.1).dedup } ∧
        (∀ c, t.cell c = { s.cell c with board := (s.cell c).board ++
          (rs.filter fun r => r.1 == c).map fun r => sbEntry r.2.1 r.2.2.1 r.2.2.2 (.wain k) }) ∧
        (∀ j, j ≠ k → t.wain j = s.wain j) ∧ t = { s with cells := t.cells, wains := t.wains })) ∧
    (∀ d : BitVec 512,
      let cell (a : DWord) : Option CellId := if bits a 63 60 = 0 then s.loftTarget (wainField (wainOfKey k)) w.owner a else none
      let rs := s.descRanges k d
      -- a range holds every byte that the descriptor writes, or reads, in its cell
      (∀ c i, cell (dDst d) = some c → i < dTotal d →
        ∃ r ∈ rs, r.1 = c ∧ r.2.2.2 = true ∧ r.2.1 ≤ spaceLow (dDst d) + dstOff d i ∧ spaceLow (dDst d) + dstOff d i < r.2.1 + r.2.2.1) ∧
      (∀ c i x, cell (dSrc d) = some c → i < dTotal d → x ∈ srcOf d i → x.code = false →
        ∃ r ∈ rs, r.1 = c ∧ r.2.2.2 = false ∧ r.2.1 ≤ spaceLow (dSrc d) + x.off ∧ spaceLow (dSrc d) + x.off < r.2.1 + r.2.2.1) ∧
      -- each cell has at most one range written and one read
      (rs.length ≤ 3 ∧ ∀ c write, (rs.filter fun r => r.1 == c && r.2.2.2 == write).length ≤ 1))

/-- WAIN_PACKET_ISSUE (R172, R293, R301, R303, R307, R308): the first packet waits for earlier instructions' accesses to the ranges;
then packets are formed one by one: the destination's address, then each piece's, is translated, a page not cached awaited, a page
fault kept, and a window that goes is HOSTWIN; a packet formed is counted, and its reads and its write are sent as far as they may. -/
def Claims.PacketsForm : Prop :=
  ∀ (s : State) (id : WainId),
    let k := wainKey id
    let w := s.wain k
    let becomes (t : State) : Prop := exec (.wainPacketIssue id) s = .next t
    (w.desc = none ∨ w.state ≠ .running ∨ w.registered = false ∨ w.miss ≠ none ∨ w.faulting ≠ none → becomes s) ∧
    (∀ d, w.desc = some d → w.state = .running → w.registered = true → w.miss = none → w.faulting = none →
      (dTotal d ≤ w.issued → becomes s) ∧
      (w.issued < dTotal d → w.stopReq = true → becomes (s.setWain k w.settleStop)) ∧
      (w.issued < dTotal d → w.stopReq = false →
        let held : Prop := w.issued = 0 ∧ ∃ c ∈ w.ranges, (s.cell c).earlierOpen k = true
        let gone (t : Target) : Prop := ∃ x : BitVec 6, t = .host x ∧
          ∀ y, Store.find? s.windows x.toNat = some y → y.closing = true
        let left : Prop := (∃ x, w.partDst = some x ∧ gone x.1) ∨ ∃ x ∈ w.part, gone x.tgt
        (held → becomes s) ∧
        (¬ held → left → becomes (s.wainError k 9)) ∧
        (¬ held → ¬ left →
          let n := packetLen d w.issued (if bits (dDst d) 63 60 = 3 then 224 else 256) 257 0
          let dst := s.resolve k (dDst d) (dstOff d w.issued) n true (dRank d)
          (w.partDst = none →
            (∀ code, dst = .err code → becomes ((s.setWain k w).wainError k code)) ∧
            (∀ x, dst = .miss x →
              becomes (s.setWain k { w with state := .waitmap, miss := some (BitVec.ofNat 42 x, true, false) })) ∧
            (∀ x p, dst = .fault x p → becomes (s.setWain k { w with faulting := some (faultWord true p false x) }))) ∧
          (∀ t a pg, (w.partDst = some (t, a) ∧ pg = none) ∨ (w.partDst = none ∧ dst = .ok t a pg) →
            let v : Wain := { w.touch pg with partDst := some (t, a), partPages := w.partPages ++ pg.toList }
            let formed := s.formPieces k d ((rawPieces d w.issued n).drop w.part.length) v
            (∀ code, formed.2 = some (.err code) → becomes ((s.setWain k formed.1).wainError k code)) ∧
            (∀ x, formed.2 = some (.miss x) →
              becomes (s.setWain k { formed.1 with state := .waitmap, miss := some (BitVec.ofNat 42 x, false, false) })) ∧
            (∀ x p, formed.2 = some (.fault x p) →
              becomes (s.setWain k { formed.1 with faulting := some (faultWord false p false x) })) ∧
            (formed.2 = none →
              let p : WPacket := { tgt := t, addr := a, data := List.replicate n 0, todo := formed.1.part, reads := [],
                                   pages := formed.1.partPages }
              let x : Wain := { formed.1 with
                packets := formed.1.packets ++ [p], issued := formed.1.issued + n, partDst := none, part := [], partPages := [] }
              becomes (((s.setWain k x).count (wainCtr k 2) 1).pump k)))))) ∧
    (∀ (d : BitVec 512) (v : Wain) (p : RawPiece) (l : List RawPiece),
      s.formPieces k d [] v = (v, none) ∧
      let got := s.resolve k (if p.code = true then dScalesrc d else dSrc d) p.off p.n false 0
      ((∀ t a pg, got ≠ .ok t a pg) → s.formPieces k d (p :: l) v = (v, some got)) ∧
      (∀ t a pg, got = .ok t a pg → s.formPieces k d (p :: l) v = s.formPieces k d l { v.touch pg with
        part := v.part ++ [⟨t, a, p.n, p.at_, p.nib⟩], partPages := v.partPages ++ pg.toList })) ∧
    (∀ v : Cell, v.earlierOpen k = true ↔ ∃ pre e post, v.board = pre ++ e :: post ∧ (∀ x ∈ pre ++ [e], x.owner ≠ .wain k) ∧
      (∀ j, e.owner ≠ .wain j) ∧ ∃ m ∈ v.board, m.owner = .wain k ∧ rangesMeet (e.start, e.stop) (m.start, m.stop) = true)

/-- The requests and answers of a wain (R291, R293, R296, R298, R306, R339, R341): at most 16 reads are outstanding, each under a tag of
its own; a packet whose data is complete is written; read data goes where the piece stands in the packet; a complete packet leaves,
and the leading run counts as progress; a refused answer counts and reads zeros; any other error ends the wain with its code. -/
def Claims.WainRequests : Prop :=
  (∀ (s : State) (k i fuel : Nat),
    let w := s.wain k
    (w.packets[i]? = none ∨ w.freeTag = none → s.sendReads k i (fuel + 1) = s) ∧
    (∀ p t, w.packets[i]? = some p → w.freeTag = some t →
      (p.todo = [] ∨ 16 ≤ (w.packets.map fun p => p.reads.length).sum → s.sendReads k i (fuel + 1) = s) ∧
      (∀ x l, p.todo = x :: l → (w.packets.map fun p => p.reads.length).sum < 16 →
        s.sendReads k i (fuel + 1) =
          ((s.setWain k { w with packets := w.packets.set i { p with todo := l, reads := p.reads ++ [(t, x)] } }).wainSend k
            (s.targetEnd x.tgt) (.readReq (x.tgt.meshAddr x.addr) (BitVec.ofNat 8 (x.n - 1)) t)).sendReads k i fuel)) ∧
    (∀ t, w.freeTag = some t → t ≠ 255 ∧ ∀ p ∈ w.packets, (∀ x ∈ p.reads, x.1 ≠ t) ∧ p.awaits t = false)) ∧
  (∀ (s : State) (k : Nat), s.pump k = (List.range (s.wain k).packets.length).foldl (fun (z : State) i =>
    let z := z.sendReads k i 600
    match (z.wain k).packets[i]?, (z.wain k).freeTag with
    | some p, some t => if p.todo = [] ∧ p.reads = [] ∧ p.sent = false then
        (z.setWain k { z.wain k with packets := (z.wain k).packets.set i { p with sent := true, tag := t } }).sendWrite k p t else z
    | _, _ => z) s) ∧
  (∀ (s : State) (k : Nat) (p : WPacket) (tag : Byte),
    (∀ m r, p.tgt = .remote m r → s.sendWrite k p tag = s.wainSend k (.hub (millField m) (millUnit m) 0)
      (.writeReq 0 (BitVec.ofNat 8 (p.data.length + 31)) false tag (envelope p.addr r.toNat none ++ p.data))) ∧
    ((∀ m r, p.tgt ≠ .remote m r) → s.sendWrite k p tag = s.wainSend k (s.targetEnd p.tgt)
      (.writeReq (p.tgt.meshAddr p.addr) (BitVec.ofNat 8 (p.data.length - 1)) false tag p.data)) ∧
    (∀ a r l, (envelope a r l).length = 32 ∧ leAt (envelope a r l) 0 8 = a % 2 ^ 64 ∧ leAt (envelope a r l) 8 4 = r % 2 ^ 32 ∧
      leAt (envelope a r none) 12 4 = 0 ∧ ∀ x, leAt (envelope a r (some x)) 12 4 = 2 ^ 31 + x.toNat) ∧
    (∀ c n win, s.targetEnd (.cell c) = .cell c ∧ s.targetEnd (.stack n) = .hub (stackField n) (stackUnit n) 0 ∧
      s.targetEnd (.host win) = .hub s.hingeField 20 0)) ∧
  (∀ (p : WPacket) (x : Piece) (l : List Byte),
    (x.nib = none → x.n ≤ l.length → x.at_ + x.n ≤ p.data.length → ∀ i : Nat, (p.fill x l).data[i]? =
      if x.at_ ≤ i ∧ i < x.at_ + x.n then l[i - x.at_]? else p.data[i]?) ∧
    (∀ b r old, l = b :: r → p.data[x.at_]? = some old → ∀ rd wr : Bool, x.nib = some (rd, wr) →
      let v := if rd then b.toNat / 16 else b.toNat % 16
      (p.fill x l).data = p.data.set x.at_ (BitVec.ofNat 8 (if wr then old.toNat % 16 + 16 * v else old.toNat / 16 * 16 + v)))) ∧
  (∀ (s : State) (k : Nat) (tag : Byte) (l : List Byte) (status : BitVec 4) (data : Bool),
    let w := s.wain k
    let reads : Prop := ∃ p ∈ w.packets, ∃ r ∈ p.reads, r.1 = tag
    let acks : Prop := ∃ p ∈ w.packets, p.awaits tag = true
    (¬ reads → s.wainData k tag l = s) ∧
    (let got (p : WPacket) : WPacket := match p.reads.find? fun r => r.1 == tag with
       | some (_, x) => { p.fill x l with reads := p.reads.filter fun r => r.1 != tag }
       | none => p
     reads → s.wainData k tag l = (s.setWain k { w with packets := w.packets.map got }).pump k) ∧
    (¬ acks → s.wainAck k tag = s) ∧
    (acks →
      let ps := w.packets.map fun p => if p.awaits tag = true then { p with done := true } else p
      let lead := ps.takeWhile fun p => p.done
      let v : Wain := { w with
        packets := ps.drop lead.length
        progress := w.progress + BitVec.ofNat 32 (lead.map fun p => p.data.length).sum }
      s.wainAck k tag = ((s.count (wainCtr k 0) ((w.packets.filter fun p => p.awaits tag).map fun p => p.data.length).sum).setWain k
        v.settleStop).pump k) ∧
    (status = 5 → (∀ x, w.awaitsRead tag = some x →
      s.wainErrResp k tag status data = (s.wainRefused k).wainData k tag (List.replicate x.n 0)) ∧
      (w.awaitsRead tag = none → s.wainErrResp k tag status data = if w.awaitsAck tag = true then (s.wainRefused k).wainAck k tag else s)) ∧
    (status ≠ 5 → (∀ x, w.awaitsRead tag = some x → s.wainErrResp k tag status data = s.wainError k (wainErrOf x.tgt status data)) ∧
      (w.awaitsRead tag = none → ¬ acks → s.wainErrResp k tag status data = s) ∧
      (∀ pre p post, w.awaitsRead tag = none → w.packets = pre ++ p :: post → (∀ x ∈ pre, x.awaits tag = false) → p.awaits tag = true →
        s.wainErrResp k tag status data = s.wainError k (wainErrOf p.tgt status data))) ∧
    (s.wainRefused k = (s.setWain k { w with refused := satAdd w.refused 1 }).count (wainCtr k 6) 1)) ∧
  (∀ (m : MillNo) (r : BitVec 21) (win : BitVec 6) (n : Nat) (c : CellId) (data : Bool),
    (∀ x, wainErrOf (.remote m r) x data = 10) ∧ wainErrOf (.host win) 4 data = 9 ∧ wainErrOf (.stack n) 3 data = 3 ∧
    wainErrOf (.stack n) 4 true = 4 ∧ wainErrOf (.stack n) 4 false = 6 ∧ wainErrOf (.cell c) 4 true = 5 ∧
    wainErrOf (.cell c) 4 false = 6 ∧
    (∀ t ∈ [Target.host win, .stack n, .cell c], wainErrOf t 2 data = 7 ∧ wainErrOf t 1 data = 8) ∧
    wainErrOf (.host win) 3 data = 8 ∧ wainErrOf (.cell c) 3 data = 8)

/-- MAP_ENTRY_READ and WAIN_FAULTED (R298, R301, R303): the entry awaited comes from the nearest copy that can be read and is cached,
32 of them, the one used last first, and the wain runs on; an entry that is not valid is a page fault, and no copy that can be read
GRAN_UE; a page fault is recorded once earlier packets are complete, with the next sequence number and a PAGE_FAULT notice. -/
def Claims.MissesAndFaults : Prop :=
  ∀ (s : State) (id : WainId),
    let k := wainKey id
    let w := s.wain k
    (w.miss = none → exec (.mapEntryRead id) s = .next s) ∧
    (∀ a write dfetch, w.miss = some (a, write, dfetch) →
      (s.copiesFor (wainField id) = [] → exec (.mapEntryRead id) s = .next (s.wainError k 3)) ∧
      (s.copiesFor (wainField id) ≠ [] → ∀ u,
        (s.mapRead (pageOf a.toNat) (s.copiesFor (wainField id)) = (u, none) →
          exec (.mapEntryRead id) s = .next (u.wainError k 4)) ∧
        (∀ e, s.mapRead (pageOf a.toNat) (s.copiesFor (wainField id)) = (u, some e) →
          let on : Wain := { w with miss := none, state := .running }
          (e.msb = false → exec (.mapEntryRead id) s = .next (u.setWain k { on with
            faulting := some (faultWord write false dfetch a.toNat) })) ∧
          (e.msb = true → exec (.mapEntryRead id) s = .next (u.setWain k { on with
            cache := cacheUse w.cache (BitVec.ofNat 21 (pageOf a.toNat), e) }))))) ∧
    (∀ (page j : Nat) (l : List Nat),
      let x := s.checkUnits 1 [copyAddr j page / 64]
      s.mapRead page [] = (s, none) ∧ (x.2 = true → s.mapRead page (j :: l) = x.1.mapRead page l) ∧
      (x.2 = false → s.mapRead page (j :: l) = (x.1, some (Store.get 0 s.gmap (copyKey j page))))) ∧
    (∀ (l : List (BitVec 21 × DWord)) (e : BitVec 21 × DWord),
      cacheUse l e = (e :: l.filter fun x => x.1 != e.1).take 32) ∧
    (∀ f, (∀ j ∈ s.copiesFor f, (s.stack j).state = .active) ∧ (∀ j < 16, (s.stack j).state = .active → j ∈ s.copiesFor f) ∧
      let dist (j : Nat) : Nat := (fxOf f - fxOf (stackField j)) + (fxOf (stackField j) - fxOf f) +
        (fyOf f - fyOf (stackField j)) + (fyOf (stackField j) - fyOf f)
      (s.copiesFor f).Pairwise fun i j => dist i < dist j ∨ (dist i = dist j ∧ i < j)) ∧
    (w.faulting = none ∨ (∃ p ∈ w.packets, p.done = false) → exec (.wainFaulted id) s = .next s) ∧
    (∀ f, w.faulting = some f → (∀ p ∈ w.packets, p.done = true) →
      let w' : Wain := { w with
        state := .faulted, err := 1, fault := f, faulting := none, faultSeq := some s.pageSeq, stopReq := false, partDst := none
        part := [], partPages := [] }
      let rec_ := pageRecord s.pageSeq id w' f
      let u := (s.setWain k w').count (wainCtr k 3) 1
      exec (.wainFaulted id) s = .next (({ u with
        pageSeq := s.pageSeq + 1
        pageFaults := u.pageFaults ++ [(s.pageSeq, k, rec_)] } : State).notice 2 32 (padBytes rec_ 48)) ∧
      rec_.length = 32 ∧ leAt rec_ 0 4 = s.pageSeq.toNat ∧ leAt rec_ 4 1 = w.owner.toNat ∧
      leAt rec_ 7 1 = (if f.msb then 1 else 0) + (if f.getLsbD 62 then 2 else 0) + (if f.getLsbD 61 then 4 else 0) ∧
      leAt rec_ 8 8 = bits f 41 0 ∧ leAt rec_ 16 8 = w.descAddr.toNat ∧ leAt rec_ 24 4 = w.progress.toNat) ∧
    (∀ (write prot dfetch : Bool) (a : Nat), a < 2 ^ 42 → let f := faultWord write prot dfetch a
      f.msb = write ∧ f.getLsbD 62 = prot ∧ f.getLsbD 61 = dfetch ∧ bits f 41 0 = a ∧ bits f 60 42 = 0)

/-- DESCRIPTOR_COMPLETE (R286, R294, R310): once every byte is written the ranges are released, the signals leave, DCOUNT counts, and
the wain goes on with the next descriptor, the next chain, or is IDLE; a wain that a run-dry stops is STOPPED with its chain; and its
plot has made progress. -/
def Claims.DescriptorCompletes : Prop :=
  ∀ (s : State) (id : WainId),
    let k := wainKey id
    let w := s.wain k
    let becomes (t : State) : Prop := exec (.descriptorComplete id) s = .next t
    (w.desc = none ∨ w.faulting ≠ none ∨ w.miss ≠ none ∨ (∃ p ∈ w.packets, p.done = false) ∨
      (w.state ≠ .running ∧ w.state ≠ .waitmap) → becomes s) ∧
    (∀ d, w.desc = some d → w.faulting = none → w.miss = none → (∀ p ∈ w.packets, p.done = true) →
      w.state = .running ∨ w.state = .waitmap →
      (bits d 31 0 ≠ 0 → w.registered = false ∨ w.issued < dTotal d → becomes s) ∧
      (bits d 31 0 = 0 ∨ (w.registered = true ∧ dTotal d ≤ w.issued) →
        let z := ((s.releaseRanges k).wainSignals id d).count (wainCtr k 1) 1
        let v : Wain := { z.wain k with
          desc := none, packets := [], issued := 0, partDst := none, part := [], partPages := [], miss := none, faulting := none
          dcount := (z.wain k).dcount + 1 }
        let on : Wain := { v with state := .running, descAddr := dNext d, progress := 0 }
        let x := if d.getLsbD 52 = true then v.endChain else on
        let y := if x.dryReq = true ∧ x.chains ≠ [] then { x with state := .stopped } else x.settleStop
        let u := z.setWain k y
        becomes (if y.owner.toNat < 96 then u.progress y.owner else u))) ∧
    (∀ v : Wain,
      (v.chains.length ≤ 1 → v.endChain = { v with chains := [], state := .idle }) ∧
      (∀ a b l, v.chains = a :: b :: l → v.endChain = { v with chains := b :: l, descAddr := b, state := .running, progress := 0 }) ∧
      (let stops : Prop := v.stopReq = true ∧ (∀ p ∈ v.packets, p.done = true) ∧ v.faulting = none ∧
          (v.state = .running ∨ v.state = .waitmap ∨ v.state = .idle)
       (stops → v.settleStop = { v with state := .stopped, miss := none, partDst := none, part := [], partPages := [] }) ∧
       (¬ stops → v.settleStop = v))) ∧
    (∀ d : BitVec 512,
      let f := wainField id
      let l : LatchId := BitVec.ofNat 17 (dfield d 44 4)
      let mill := s.wainMill id
      let set := if d.getLsbD 51 = false then s
        else if d.getLsbD 49 = true then s.unitSend f (wainUnit id) (millField mill) (millUnit mill)
          (.writeReq 0 31 true 255 (envelope 0 (dfield d 52 4) (some l)))
        else s.unitSend f (wainUnit id) (latchField l) 8 (.latchOp .set l false false none 0)
      (d.getLsbD 50 = false → s.wainSignals id d = set) ∧
      (d.getLsbD 50 = true → let o := Store.get 0 (set.niOfHub f).origins (set.wain k).owner.toNat
        s.wainSignals id d = set.hubSend f (wainUnit id)
          (.cell (mkCell (lxOf o + dfield d 48 4 % 1024) (lyOf o + dfield d 48 4 / 1024 % 512)))
          (.event (BitVec.ofNat 4 (bits d 47 44)))))

/-- HOST_COMPLETION (R289, R403): the hinge's unit 20 answers the oldest read of that wain and tag that waits for the host, with the
data or with RANGE; with none waiting, nothing happens. -/
def Claims.HostCompletions : Prop :=
  ∀ (s : State) (id : WainId) (tag : Byte) (ok : Bool) (bytes : List Byte),
    let e : Endpoint := .hub (wainField id) (wainUnit id) 0
    let mine (x : Endpoint × Byte × Nat) : Bool := sameUnit x.1 e && x.2.1 == tag
    ((∀ x ∈ s.hostReads, mine x = false) → exec (.hostCompletion id tag ok bytes) s = .next s) ∧
    (∀ pre x post, s.hostReads = pre ++ x :: post → (∀ y ∈ pre, mine y = false) → mine x = true →
      exec (.hostCompletion id tag ok bytes) s = .next (({ s with hostReads := pre ++ post } : State).answer
        (.hub s.hingeField 20 0) x.1 (if ok then .readResp tag (padBytes bytes x.2.2) else .errorResp tag 4 false)))

/-- The descriptors of a wain: layouts, checks, fetches and completions. -/
def Obligations.WainDescriptors : Prop :=
  Claims.Layouts ∧ Claims.DescriptorFetches ∧ Claims.DescriptorCompletes ∧ Claims.WainErrors

/-- The packets of a wain, and what its translations meet. -/
def Obligations.WainPackets : Prop :=
  Claims.WainAddresses ∧ Claims.PacketLengths ∧ Claims.RangesEnter ∧ Claims.PacketsForm ∧ Claims.WainRequests ∧
    Claims.MissesAndFaults ∧ Claims.HostCompletions

/-! ### Loft and granary errors, and scrubs (06, 10) -/

/-- What a reader of the loft meets (R166, R167): a corrected error counts once until its write-back, and the count reaching its
threshold raises a LOFT notice where that is enabled; an uncorrectable one counts, and is logged with its source where the log is
armed; a write replaces the error of a whole word, and merges a partial one. -/
def Claims.LoftErrors : Prop :=
  ∀ (s : State) (c : CellId) (w source : Nat) (ws : List Nat),
    let f := fieldOf c
    let h := s.hub f
    (w ∈ s.scrubs → s.corrected c w = s) ∧
    (w ∉ s.scrubs →
      let n := satAdd h.cecnt 1
      let level := 2 ^ bits h.loftCtrl 7 4
      let t := { (s.count (hubCtr f 13) 1).setHub f { h with cecnt := n } with scrubs := s.scrubs ++ [w] }
      let reached : Prop := h.loftCtrl.getLsbD 8 = true ∧ n.toNat = level ∧ h.cecnt.toNat < level
      (¬ reached → s.corrected c w = t) ∧
      (reached → s.corrected c w = t.notice 10 8 (padBytes ([BitVec.ofNat 8 f.toNat, BitVec.ofNat 8 (bits h.loftCtrl 7 4), 0, 0] ++
        leBytes 4 level) 48))) ∧
    (∀ a, a < 2 ^ 21 → ∃ log : DWord, s.uncorrectable c a source = s.setHub f { h with
        uecnt := satAdd h.uecnt 1
        uelog := log } ∧
      (h.uelog.msb = true → log = h.uelog) ∧
      (h.uelog.msb = false → source < 8 → s.physCol c < 128 → log.msb = true ∧ bits log 62 60 = source ∧
        bits log 54 48 = s.physCol c ∧ bits log 47 42 = rowIn c % 64)) ∧
    (s.checkWords c source [] = (s, false)) ∧
    (Store.get 0 s.loftErr w = 0 → s.checkWords c source (w :: ws) = s.checkWords c source ws) ∧
    (Store.get 0 s.loftErr w = 1 → s.checkWords c source (w :: ws) = (s.corrected c w).checkWords c source ws) ∧
    (2 ≤ Store.get 0 s.loftErr w → s.checkWords c source (w :: ws) =
      (((s.uncorrectable c (w % 2 ^ 17 * 16) source).checkWords c source ws).1, true)) ∧
    (∀ (a : Nat) (l : List (Option Byte)),
      let whole : Prop := ∀ i < 16, a ≤ w % 2 ^ 17 * 16 + i ∧ ∃ b, l[w % 2 ^ 17 * 16 + i - a]? = some (some b)
      s.mergeWords c a l [] = s ∧
      (whole → s.mergeWords c a l (w :: ws) = ({ s with loftErr := Store.erase s.loftErr w } : State).mergeWords c a l ws) ∧
      (¬ whole → Store.get 0 s.loftErr w = 0 → s.mergeWords c a l (w :: ws) = s.mergeWords c a l ws) ∧
      (¬ whole → Store.get 0 s.loftErr w = 1 → let t := s.corrected c w
        s.mergeWords c a l (w :: ws) = ({ t with
          loftErr := Store.erase t.loftErr w
          scrubs := t.scrubs.filter fun x => x != w } : State).mergeWords c a l ws) ∧
      (¬ whole → 2 ≤ Store.get 0 s.loftErr w →
        s.mergeWords c a l (w :: ws) = (s.uncorrectable c (w % 2 ^ 17 * 16) 6).mergeWords c a l ws))

/-- What a reader and a writer of the granary meet (R298): a corrected error counts, an uncorrectable one counts in the log and is
recorded where the log is armed; a write replaces the error of a whole unit, and merges a partial one. -/
def Claims.GranaryErrors : Prop :=
  ∀ (s : State) (u source : Nat) (us : List Nat),
    let k := u * 64 / 2 ^ 38 % 16
    let x := s.stack k
    let corrected := s.setStack k { x with cecnt := satAdd x.cecnt 1 }
    let logged (source : Nat) (t : State) : Prop := ∃ log : DWord, t = s.setStack k { x with uelog := log } ∧ log.msb = true ∧
      bits log 59 48 = min (bits x.uelog 59 48 + 1) 4095 ∧
      (x.uelog.msb = true → bits log 62 60 = bits x.uelog 62 60 ∧ bits log 47 0 = bits x.uelog 47 0) ∧
      (x.uelog.msb = false → source < 8 → bits log 62 60 = source ∧ bits log 41 0 = u * 64 % 2 ^ 42)
    (s.checkUnits source [] = (s, false)) ∧
    (Store.get 0 s.granErr u = 0 → s.checkUnits source (u :: us) = s.checkUnits source us) ∧
    (Store.get 0 s.granErr u = 1 → s.checkUnits source (u :: us) = corrected.checkUnits source us) ∧
    (2 ≤ Store.get 0 s.granErr u → u < 2 ^ 36 → ∃ t, logged source t ∧
      s.checkUnits source (u :: us) = ((t.checkUnits source us).1, true)) ∧
    (∀ a n, s.granRead a n source =
      ((s.checkUnits source (granUnits a n)).1, (s.checkUnits source (granUnits a n)).1.granary.readBytes a n,
        (s.checkUnits source (granUnits a n)).2)) ∧
    (∀ a n,
      let whole : Prop := a ≤ u * 64 ∧ u * 64 + 64 ≤ a + n
      s.mergeUnits a n [] = s ∧
      (whole → s.mergeUnits a n (u :: us) = ({ s with granErr := Store.erase s.granErr u } : State).mergeUnits a n us) ∧
      (¬ whole → Store.get 0 s.granErr u = 0 → s.mergeUnits a n (u :: us) = s.mergeUnits a n us) ∧
      (¬ whole → Store.get 0 s.granErr u = 1 →
        s.mergeUnits a n (u :: us) = ({ corrected with granErr := Store.erase s.granErr u } : State).mergeUnits a n us) ∧
      (¬ whole → 2 ≤ Store.get 0 s.granErr u → u < 2 ^ 36 → ∃ t, logged 2 t ∧
        s.mergeUnits a n (u :: us) = t.mergeUnits a n us)) ∧
    (∀ a (l : List Byte), let t := s.mergeUnits a l.length (granUnits a l.length)
      s.granWrite a l = { t with granary := t.granary.writeBytes a l } ∧ t.granary = s.granary)

/-- Scrubs of loft and granary (R166 to R168, R298): a corrected word is written back, the oldest of the cell first; a patrol that is
switched off reads nothing, and else meets what any reader does, with its own source; a stack that is not ACTIVE is not
scrubbed, and a corrected unit of another is written back. -/
def Claims.ScrubCommands : Prop :=
  ∀ (s : State) (c : CellId) (word : BitVec 17) (k : StackNo) (unit : BitVec 32),
    let e := c.toNat * 2 ^ 17 + word.toNat
    let u := k.toNat * 2 ^ 32 + unit.toNat
    ((∀ w ∈ s.scrubs, w / 2 ^ 17 ≠ c.toNat) → exec (.correctedWriteBack c) s = .next s) ∧
    (∀ pre w rest, s.scrubs = pre ++ w :: rest → (∀ x ∈ pre, x / 2 ^ 17 ≠ c.toNat) → w / 2 ^ 17 = c.toNat →
      let t := { s with scrubs := s.scrubs.filter fun x => x != w }
      (Store.get 0 s.loftErr w ≠ 1 → exec (.correctedWriteBack c) s = .next t) ∧
      (Store.get 0 s.loftErr w = 1 → exec (.correctedWriteBack c) s =
        .next { t with loftErr := Store.erase s.loftErr w })) ∧
    (bits (s.hub (fieldOf c)).loftCtrl 3 1 = 0 → exec (.loftPatrolScrub c word) s = .next s) ∧
    (bits (s.hub (fieldOf c)).loftCtrl 3 1 ≠ 0 →
      (Store.get 0 s.loftErr e = 0 → exec (.loftPatrolScrub c word) s = .next s) ∧
      (Store.get 0 s.loftErr e = 1 → exec (.loftPatrolScrub c word) s = .next (s.corrected c e)) ∧
      (2 ≤ Store.get 0 s.loftErr e → exec (.loftPatrolScrub c word) s = .next (s.uncorrectable c (word.toNat * 16) 7))) ∧
    ((s.stack k.toNat).state ≠ .active → exec (.granaryPatrolScrub k unit) s = .next s) ∧
    ((s.stack k.toNat).state = .active →
      (Store.get 0 s.granErr u = 0 → exec (.granaryPatrolScrub k unit) s = .next s) ∧
      (Store.get 0 s.granErr u = 1 → exec (.granaryPatrolScrub k unit) s = .next { s.setStack k.toNat { s.stack k.toNat with
        cecnt := satAdd (s.stack k.toNat).cecnt 1 } with granErr := Store.erase s.granErr u }) ∧
      (2 ≤ Store.get 0 s.granErr u →
        exec (.granaryPatrolScrub k unit) s = .next (s.stackUncorrectable k.toNat u 3)))

/-- The errors that loft and granary record, and their scrubs. -/
def Obligations.Scrubs : Prop := Claims.LoftErrors ∧ Claims.GranaryErrors ∧ Claims.ScrubCommands

/-! ### Defects found in service (16, 18) -/

/-- Faults of the ward (R445, R446, R449, R450): a fault takes the next number; each plot that it names is FAULTED where its state
allows, with its cells stopped and its record captured, and a notice tells of it; one that names none writes one notice. -/
def Claims.Faults : Prop :=
  (∀ (s : State) (cls unit flags : Nat) (detail : List Byte) (ps : List PlotId),
    let n := s.faultSeq.toNat
    let z := { s with faultSeq := s.faultSeq + 1 }
    let one (u : State) (p : PlotId) : State :=
      if (u.plot p).state.faultable = true then (u.plotFaulted p cls n).faultNotice (some p) cls n unit (flags + 1) detail
      else u.faultNotice (some p) cls n unit (flags + 4) detail
    (ps = [] → s.fault cls unit detail flags ps = z.faultNotice none cls n unit flags detail) ∧
    (ps ≠ [] → s.fault cls unit detail flags ps = ps.foldl one z)) ∧
  (∀ x : Sys2Proof.Machine.PlotState, x.faultable = true ↔ x ∈ [.loaded, .running, .done, .stopped]) ∧
  (∀ (s : State) (p : PlotId) (cls n : Nat),
    let q := s.plot p
    let x : Plot := { q with state := .faulted, faultReg := BitVec.ofNat 32 (cls * 2 ^ 24 + n % 2 ^ 24) }
    ∃ u : State, (∀ c, u.cell c = if c ∈ q.cells then (s.cell c).freeze else s.cell c) ∧ u = { s with cells := u.cells } ∧
      let v := u.setPlot p x
      s.plotFaulted p cls n = (v.setPlot p { x with record := v.plotRecord p cls n }).plotEvent p
        (if cls = 2 then 0b01010 else 0b01000)) ∧
  (∀ (s : State) (p : PlotId) (ev : BitVec 5),
    let q := s.plot p
    let fresh := ev &&& ~~~q.events
    let z := s.setPlot p { q with events := q.events ||| ev }
    (fresh = 0 → ev.getLsbD 0 = false → s.plotEvent p ev = z) ∧
    (fresh ≠ 0 ∨ ev.getLsbD 0 = true → ∃ b : Byte, s.plotEvent p ev =
      z.notice 1 3 (padBytes [BitVec.ofNat 8 p.toNat, b, BitVec.ofNat 8 fresh.toNat] 48) ∧
      (q.state = .running → b = 2) ∧ (q.state = .faulted → b = 5) ∧ (q.state = .stopped → b = 4) ∧ (q.state = .done → b = 3))) ∧
  (∀ (s : State) (p : Option PlotId) (cls n unit flags : Nat) (detail : List Byte), detail.length ≤ 24 →
    ∃ b : List Byte, s.faultNotice p cls n unit flags detail = s.notice 4 48 b ∧ b.length = 48 ∧ leAt b 0 1 = cls % 256 ∧
      (p = none → leAt b 1 1 = 255 ∧ leAt b 2 1 = 255) ∧
      (∀ q, p = some q → leAt b 1 1 = q.toNat ∧ leAt b 2 1 = (s.plot q).season.toNat) ∧ leAt b 3 1 = flags % 256 ∧
      leAt b 4 4 = n % 2 ^ 32 ∧ leAt b 8 8 = s.tick % 2 ^ 64 ∧ leAt b 16 4 = unit % 2 ^ 32 ∧ leAt b 20 4 = s.epoch.toNat ∧
      (b.drop 24).take detail.length = detail) ∧
  (∀ (s : State) (p : PlotId) (cls n : Nat),
    let q := s.plot p
    let l := s.plotRecord p cls n
    leAt l 0 4 = 0x544C5546 ∧ leAt l 4 1 = p.toNat ∧ leAt l 5 1 = q.season.toNat ∧ leAt l 6 1 = cls % 256 ∧
    leAt l 8 4 = n % 2 ^ 32 ∧ leAt l 12 2 = q.width.toNat ∧ leAt l 14 2 = q.height.toNat ∧ leAt l 16 8 = s.tick % 2 ^ 64 ∧
    l.drop 64 = q.cells.flatMap s.recordEntry ∧ ∀ c, (s.recordEntry c).length = 32)

/-- CYCLE_STALL (R220, R221): a running plot whose watchdog is on and some cell of which is held faults once PERIOD has passed with
no progress; its stall tick is the tick. -/
def Claims.Watchdog : Prop :=
  ∀ (s : State) (p : PlotId),
    let q := s.plot p
    let held := q.cells.filter fun c => s.isHeld c
    let becomes (t : State) : Prop := exec (.cycleStall p) s = .next t
    (q.state ≠ .running ∨ q.scanning = true ∨ q.wdog.msb = false ∨ held = [] ∨
        s.tick < max q.progress q.unheld + bits q.wdog 15 0 * 100 → becomes s) ∧
    (q.state = .running → q.scanning = false → q.wdog.msb = true → held ≠ [] →
      max q.progress q.unheld + bits q.wdog 15 0 * 100 ≤ s.tick →
      becomes ((s.setPlot p { q with stallAt := s.tick64 }).fault 2 0 (leBytes 8 s.tick ++ leBytes 4 held.length) 0 [p])) ∧
    (∀ c, s.isHeld c = true ↔ (s.holdOf c).1 = 1 ∨ (s.holdOf c).1 = 2)

/-- CELL_PROBE and CELL_INTERNAL_CHECK (R429, R456, R457): a cell of a running plot that does not answer ten probes in a row, or that
finds itself dead, is DEAD: it is locked out and made a hole, the links of a dead router go DOWN, and the plots that hold it
fault. -/
def Claims.DeadCells : Prop :=
  ∀ (s : State) (c : CellId) (f : FieldNo) (silent dead : List CellId),
    (∀ detection (rtr : Bool),
      ((s.cell c).lockedOut = true ∨ (s.hub (fieldOf c)).dark = true → s.cellDies c detection rtr = s) ∧
      ((s.cell c).lockedOut = false → (s.hub (fieldOf c)).dark = false →
        let u := s.setCell c { s.cell c with dead := true, routerDead := rtr }
        let ps := s.plotsWith fun q => q.covers c
        ∀ v made, u.lockUnit (.cell c) = (v, made) →
          let w := if rtr = true then [0, 1, 2, 3].foldl (fun (z : State) d => z.setLink c d .down) v else v
          s.cellDies c detection rtr = w.fault 8 c.toNat [BitVec.ofNat 8 detection, if rtr then 1 else 0] (if made then 2 else 0) ps)) ∧
    (s.tick % 1000 ≠ 0 ∨ 48 ≤ f.toNat ∨ (s.hub f).dark = true → exec (.cellProbe f silent dead) s = .next s) ∧
    (s.tick % 1000 = 0 → f.toNat < 48 → (s.hub f).dark = false →
      let probed (x : CellId) : Prop := fieldOf x = f ∧ (s.cell x).dead = false ∧ (s.cell x).lockedOut = false ∧
        ∃ p ∈ s.plotsWith (fun q => q.covers x), (s.plot p).state = .running
      ∃ (cs : List CellId) (u : State), (∀ x, x ∈ cs ↔ x ∈ silent ∧ probed x) ∧ (silent.Nodup → cs.Nodup) ∧
        (silent.Nodup → s.cells.sorted = true → ∀ x, (x ∈ cs → (u.cell x).missed = (s.cell x).missed + 1) ∧
          (x ∉ silent → fieldOf x = f → (u.cell x).missed = 0) ∧ (fieldOf x ≠ f → u.cell x = s.cell x) ∧
          u.cell x = { s.cell x with missed := (u.cell x).missed }) ∧
        u = { s with cells := u.cells } ∧
        exec (.cellProbe f silent dead) s = .next (cs.foldl (fun (z : State) x =>
          if 10 ≤ (z.cell x).missed then z.cellDies x 0 (dead.contains x) else z) u)) ∧
    (cellIdOk c = false ∨ s.isHole c = true ∨ 48 ≤ (fieldOf c).toNat ∨ (s.hub (fieldOf c)).dark = true →
      exec (.cellInternalCheck c) s = .next s) ∧
    (cellIdOk c = true → s.isHole c = false → (fieldOf c).toNat < 48 → (s.hub (fieldOf c)).dark = false →
      exec (.cellInternalCheck c) s = .next (s.cellDies c 1 false))

/-- A field that loses its supply (R23, R25 to R29, R183, R299): the state of its cells, hub and wains goes, and its loft and rank
tables; packets in its routers are lost, and a requester outside that waits for an answer receives NOUNIT; its stacks refresh
themselves, its links go DOWN, and its resident ranges are damaged. -/
def Claims.DarkFields : Prop :=
  ∀ (s : State) (f : FieldNo),
    let t := s.fieldLost f
    let h := s.hub f
    (∀ x a, a < 2 ^ 21 → t.loft.read (loftKey x a) = if fieldOf x = f then 0 else s.loft.read (loftKey x a)) ∧
    (∀ x, fieldOf x = f → (t.cell x).run = .halted ∧ (t.cell x).board = [] ∧
      (s.cells.sorted = true → t.cell x = { lockedOut := (s.cell x).lockedOut, dead := (s.cell x).dead, routerDead := (s.cell x).routerDead })) ∧
    (∀ x, fieldOf x ≠ f → t.cell x = s.cell x) ∧
    (∀ k, t.wain k = if wainField (wainOfKey k) = f then {} else s.wain k) ∧
    (∀ k < 16, t.stack k = if stackField k = f ∧ (s.stack k).state = .active then { s.stack k with state := .selfref } else s.stack k) ∧
    (∀ x a, a < 8192 → Store.find? t.pmem (x.toNat * 8192 + a) = if fieldOf x = f then none else Store.find? s.pmem (x.toNat * 8192 + a)) ∧
    (∀ m : MillNo, ∀ r < 2 ^ 21, Store.find? t.ranks (m.toNat * 2 ^ 21 + r) =
      if millField m = f then none else Store.find? s.ranks (m.toNat * 2 ^ 21 + r)) ∧
    (∀ m : MillNo, millField m = f → (t.mill m).link = 0 ∧ (t.mill m).light = false) ∧
    t.granary = s.granary ∧ t.hostMem = s.hostMem ∧ t.ledger = s.ledger ∧
    (let u := t.setHub f { dark := true, power := { cal := h.power.cal, trip := h.power.trip, weights := h.power.weights } }
     s.fieldDark f = u.damage fun c => fieldOf c == f) ∧
    (∀ (test : CellId → Bool),
      let hit (r : Resident) : Prop := ∃ c ∈ rectCells r.lx r.ly r.width r.height, test c = true
      ∃ l : List Resident, s.damage test = { s with residents := l } ∧ l.length = s.residents.length ∧
        ∀ (i : Nat) (r : Resident), s.residents[i]? = some r →
          (hit r → l[i]? = some { r with damaged := true }) ∧ (¬ hit r → l[i]? = some r)) ∧
    (∀ p : Packet, (∀ q : Packet, lostAnswer f p = some q → q.src = p.src ∧ q.vc = 2 ∧ ∃ tag e, q.body = .errorResp tag 3 false ∧
        q.dest = .unicast e ∧ outside f e = true) ∧
      (∀ a b tag, p.body = .readReq a b tag → outside f p.src = true → ∃ q, lostAnswer f p = some q ∧ q.dest = .unicast p.src) ∧
      (∀ a b tag d, p.body = .writeReq a b true tag d → lostAnswer f p = none) ∧
      (∀ a b tag d, p.body = .writeReq a b false tag d → outside f p.src = true → ∃ q, lostAnswer f p = some q ∧ q.dest = .unicast p.src))

/-- FIELD_TRIP (R25, R26, R254, R429, R459, R494, R498): a powered field whose rails exceed their trip levels goes dark; its ledger entry,
the faults of the plots that hold its cells, the change of bridge, the answer of a scan that it overtakes and the POWER notice
follow; below the levels nothing happens. -/
def Claims.FieldTrips : Prop :=
  ∀ (s : State) (f : FieldNo) (vcell vloft : BitVec 16),
    let h := s.hub f
    let rails (x : FieldPower) : Nat := (if bits x.trip 31 16 < vcell.toNat then 1 else 0) + (if bits x.trip 15 0 < vloft.toNat then 2 else 0)
    (48 ≤ f.toNat ∨ h.powered = false ∨ h.dark = true ∨ rails h.power = 0 → exec (.fieldTrip f vcell vloft) s = .next s) ∧
    (f.toNat < 48 → h.powered = true → h.dark = false → rails h.power ≠ 0 →
      exec (.fieldTrip f vcell vloft) s = .next (s.fieldTrips f vcell vloft)) ∧
    (let ps := s.plotsWith fun q => q.holds && q.cells.any fun c => fieldOf c == f
     let dark := s.fieldDark f
     let entered := if (∃ e ∈ dark.ledger, e.field.toNat = f.toNat ∧ e.row.toNat = 255 ∧ e.col.toNat = 255) then dark
       else dark.ledgerAdd ⟨BitVec.ofNat 8 f.toNat, 0xFF, 0xFF, 2, false, false, false, dark.epoch⟩
     let listed := if 9 ≤ entered.boot.done then entered.darkNow [f] else { entered with tripped := entered.tripped ++ [f] }
     let told := listed.fault 9 f.toNat ([BitVec.ofNat 8 (rails h.power), 0] ++ leBytes 2 vcell.toNat ++ leBytes 2 vloft.toNat) 8 ps
     let bridged := if 8 ≤ told.boot.done then told.chooseBridge else told
     let cut := bridged.abortScan fun p => ps.contains p
     s.fieldTrips f vcell vloft = (cut.powerNotice 7 (some f) h.power.tf 0xFFFFFFFF).refreshAlert) ∧
    (let blind : Prop := (s.hub 0).dark = true ∧ (s.hub 8).dark = true
     let b : BitVec 2 := if blind then 2 else if (s.hub 0).dark = true ∨ s.bridge = 1 then 1 else 0
     (b = s.bridge → s.chooseBridge = s) ∧
     (b ≠ s.bridge → ∃ e : Option Nat, s.chooseBridge = ({ s with bridge := b, switchEnd := e } : State).notice 7 1 (padBytes
        [BitVec.ofNat 8 (if b = 2 then 1 else if b = 1 then 2 else 0)] 48) ∧
       (b = 1 → 9 ≤ s.boot.done → ∃ k, e = some k ∧ s.tick ≤ k ∧ k ≤ s.tick + 100000) ∧ (b ≠ 1 ∨ s.boot.done < 9 → e = none))) ∧
    (∀ test : PlotId → Bool,
      (∀ r p, s.running = some r → r.what = .dry p → test p = true → s.abortScan test =
        (s.setPlot p { s.plot p with dryStart := none }).finish (refuse stAborted 0)) ∧
      (∀ r p, s.running = some r → r.what = .scan p → test p = true → s.abortScan test =
        (s.setPlot p { s.plot p with scanning := false, scanCut := true }).finish (refuse stAborted 0)) ∧
      ((∀ r p, s.running = some r → (r.what = .dry p ∨ r.what = .scan p) → test p = false) → s.abortScan test = s)) ∧
    (∀ fs : List FieldNo, let t := s.darkNow fs
      t.darkOrder = s.darkOrder ++ fs ∧
      (s.map.sorted = true → ∀ k, (Store.get 0 t.darkSeen k) = (Store.get {} s.map k).blocked) ∧
      (∀ c : CellId, ∀ i, 12 ≤ i → Store.find? (Store.get {} t.niCell c.toNat).detours i = none))

/-- The faults of the ward, the watchdog, dead cells and fields that trip. -/
def Obligations.Defects : Prop :=
  Claims.Faults ∧ Claims.Watchdog ∧ Claims.DeadCells ∧ Claims.DarkFields ∧ Claims.FieldTrips

/-! ### Reset, memories and words -/

/-- The reset values of the register tables (02, 06 to 12, 14 to 19), as a read meets them: the registers of every hub with its
gates and wains, of mills and stacks, of the hinge, of the plots, of the ports and of every cell. Fuse and flash values are
the model's (log entry 3) and stand aside. -/
def Claims.ResetRegisters : Prop :=
  let s := State.reset
  let reads (b : RegBlock) (off : Nat) (v : DWord) : Prop := (s.regAt b off).map RegView.value = some v
  (∀ f : FieldNo, ∀ e : Nat × DWord, e ∈ [(0x0B00, 0), (0x0B04, 0), (0x0B08, 0), (0x0C00, 0x86), (0x0C04, 0), (0x0C08, 0),
    (0x0C10, 0), (0x0C14, 0), (0x0D00, 0), (0x0D04, 0), (0x0D08, 0), (0x0D10, 0), (0x0D18, 0), (0x1000, 0), (0x10FC, 0),
    (0x1100, 0), (0x1104, 0), (0x2000, 0x3F80000), (0x2004, 0), (0x2008, 0), (0x200C, 0x2710), (0x2010, 0), (0x2014, 0),
    (0x2050, 0), (0x4000, 0), (0xC000, 0), (0xC008, 0), (0xC010, 0), (0xC014, 0), (0xC018, 0)] → reads (.hub f) e.1 e.2) ∧
  (∀ e : Nat × DWord, e ∈ [(0xE000, 0), (0xE004, 1), (0xE008, 0), (0xE00C, 0x24142404), (0xE010, 0), (0xE018, 0), (0xE020, 0),
    (0xE028, 0), (0xE02C, 0), (0xE030, 0), (0xE034, 10), (0xE038, 0), (0xE100, 0), (0xE108, 0), (0xE110, 0), (0xE114, 0),
    (0xE118, 0), (0xE400, 0), (0xE500, 0)] → reads (.hub 3) e.1 e.2) ∧
  (∀ e : Nat × DWord, e ∈ [(0xD004, 0), (0xD008, 0)] → reads (.hub 8) e.1 e.2) ∧
  (∀ e : Nat × DWord, e ∈ [(0x30100, 0x186A0), (0x30108, 0), (0x30200, 0), (0x30208, 0), (0x30210, 0), (0x30300, 0), (0x30400, 0),
    (0x30404, 0), (0x30500, 0), (0x30504, 0), (0x30600, 0), (0x30608, 0), (0x30614, 0x40), (0x30618, 0x7F000000),
    (0x30620, 0x8000000000000000), (0x30628, 0), (0x30710, 0), (0x40000, 0), (0x40008, 0), (0x40010, 0x800003E8),
    (0x40014, 0xA0064), (0x40018, 0), (0x4001C, 0), (0x40020, 0), (0x40028, 0), (0x40030, 0), (0x40034, 0)] →
    reads .hinge e.1 e.2) ∧
  (∀ e : Nat × DWord, e ∈ [(0x008, 0), (0x010, 0), (0x014, 0), (0x018, 0), (0x020, 0), (0x024, 0), (0x028, 0)] →
    reads (.port 0) e.1 e.2 ∧ reads (.port 1) e.1 e.2) ∧
  (∀ (c : CellId) (e : Nat × Word), e ∈ [(0x000, 0), (0x004, 0), (0x008, 0), (0x010, 0), (0x014, 0), (0x018, 0), (0x020, 0),
    (0x030, 0), (0x034, 0), (0x038, 0), (0x040, 0), (0x044, 0), (0x048, 0xFFFF), (0x050, 0), (0x060, 0)] →
    s.csr (s.cell c) e.1 = some e.2) ∧
  s.pending = [] ∧ s.loft = [] ∧ s.granary = [] ∧ s.hostMem = [] ∧ s.net = [] ∧ s.tick = 0

/-- What reset leaves: the register tables' values, and memories in their canonical form. -/
def Obligations.ResetValues : Prop := Claims.ResetRegisters ∧ State.reset.MemoriesWf

/-- Every step keeps the canonical form of the lofts, the granary, host memory and the mailboxes, from every state that has
it. -/
def Obligations.StepKeepsMemories : Prop := ∀ s t : State, s.MemoriesWf → step s = .next t → t.MemoriesWf

/-- Words of the encoding tables (R62 to R97), written out bit by bit, decode to the instructions that they stand for. -/
def Claims.SampleWords : Prop :=
  ∀ c : CellId,
    -- NOP: major 0x0, payload 0
    decodeWords c [0b00000000000000] = some (1, .instr (.nop c)) ∧
    -- ADD s3, s3, s5: major 0x1, one word
    decodeWords c [0b00010000110101] = some (1, .instr (.add c 3 3 (.reg 5))) ∧
    -- ADDI s7, 9: major 0x2, destination in bits 9:6
    decodeWords c [0b00100111001001] = some (1, .instr (.addi c 7 9)) ∧
    -- LW s2, [s4]: major 0x3
    decodeWords c [0b00110000100100] = some (1, .instr (.lw c 2 4 0)) ∧
    -- POP s1, q6: major 0x4
    decodeWords c [0b01000000001110] = some (1, .instr (.pop c false 1 6)) ∧
    -- SETL with s9: major 0x5
    decodeWords c [0b01010010001001] = some (1, .instr (.setl c 9)) ∧
    -- EXT, VMUL v2, v3, v4 of CH16: major 0x6, type code 1 and source b in the prefix
    decodeWords c [0b10100000001100, 0b01100010010011] = some (2, .instr (.vmul c .ch16 2 3 4)) ∧
    -- VLD v5, [s6]: major 0x7
    decodeWords c [0b01110010100110] = some (1, .instr (.vld c 5 6 0)) ∧
    -- MSWAP: major 0x8
    decodeWords c [0b10000010000000] = some (1, .instr (.mswap c)) ∧
    -- CRD of counter 1 into s8: major 0x9
    decodeWords c [0b10010000011000] = some (1, .instr (.crd c 1 8)) ∧
    -- WGO of wain 3 with s2: major 0xB
    decodeWords c [0b10110001100010] = some (1, .instr (.wgo c 3 2)) ∧
    -- TRAP 5: major 0xC
    decodeWords c [0b11001010000101] = some (1, .instr (.trap c 5)) ∧
    -- major 0xD is reserved
    decodeWords c [0b11010000000000] = some (1, .reserved 1)

/-- What a cell's program holds is what the cell runs (R62 to R97): the words of every instruction whose operands its encoding can
spell decode to it, with its length, whatever words follow. -/
def Claims.WordsDecode : Prop :=
  ∀ (i : Instr) (c : CellId) (rest : List Word14), i.spellable = true → i.cellOf = some c → encodeWords i ≠ [] →
    decodeWords c (encodeWords i ++ rest) = some ((encodeWords i).length, .instr i)

/-- The encoding of a cell's instructions: the words of an instruction decode to it, and words of the tables decode as they stand. -/
def Obligations.WordsDecode : Prop := Claims.WordsDecode ∧ Claims.SampleWords

/-! ### The words of the links (08, 11) -/

/-- A mesh packet as its link carries it (R234, R237, R238, R249, R255): the header flit's fields, the sideband's bits and its eight
even parities, with HEAD set on the header alone; every sideband is read back from its 24 bits. -/
def Claims.MeshWords : Prop :=
  (∀ x : Sideband, sidebandOf x.bits = x) ∧
  (∀ (p : Packet) (word : BitVec 128),
    let h := headerFlit p word
    bits h 3 0 = p.len.toNat % 16 ∧ bits h 7 4 = bodyType p.body % 16 ∧
    bits h 9 8 = (match p.dest with
      | .unicast (.cell _) => 0
      | .unicast (.hub _ _ _) => 1
      | .multicast _ _ _ => 2
      | .reserved => 3) ∧
    bits h 10 10 = (match p.src with
      | .cell _ => 0
      | .hub _ _ _ => 1) ∧
    bits h 11 11 = (if p.waypt = none then 0 else 1) ∧ (∀ c, p.dest = .unicast (.cell c) → bits h 30 12 = c.toNat) ∧
    (∀ f u tap, p.dest = .unicast (.hub f u tap) → bits h 18 12 = tap.toNat ∧ bits h 24 19 = u.toNat ∧ bits h 30 25 = f.toNat) ∧
    (∀ c, p.src = .cell c → bits h 49 31 = c.toNat) ∧ (∀ c, p.waypt = some c → bits h 68 50 = c.toNat) ∧
    bits h 71 69 = 0 ∧ bits h 79 72 = (bodyTag p.body).toNat ∧ bits h 127 80 = 0 ∧ bits h 255 128 = word.toNat) ∧
  (∀ (f : Flit256) (i : Nat), i < 8 →
    ((parityBits f).getLsbD i = true ↔ ((List.range 32).filter fun k => f.getLsbD (32 * i + k)).length % 2 = 1)) ∧
  (∀ (p : Packet) (l : List (Flit256 × Sideband)), packetFlits p = some l →
    ∃ word h rest, typeWord p.body = some word ∧ l = h :: rest ∧ h.1 = headerFlit p word ∧ h.2.head = true ∧
      (∀ x ∈ rest, x.2.head = false) ∧ ∀ x ∈ l, x.2.valid = true ∧ x.2.vc = p.vc ∧ x.2.leg = p.leg ∧ x.2.credit = none ∧
        parOk x.1 x.2 = true)

/-- The type words (R240, R263, R420): each field at its place. -/
def Claims.TypeWords : Prop :=
  (∀ (a : MeshAddr) (n tag : Byte) (posted : Bool) (d : List Byte),
    (∃ w, typeWord (.readReq a n tag) = some w ∧ bits w 41 0 = a.toNat % 2 ^ 42 ∧ bits w 49 42 = n.toNat ∧ bits w 127 50 = 0) ∧
    (∃ w, typeWord (.writeReq a n posted tag d) = some w ∧ bits w 41 0 = a.toNat % 2 ^ 42 ∧ bits w 49 42 = n.toNat ∧
      w.getLsbD 50 = posted ∧ bits w 127 51 = 0) ∧
    typeWord (.writeAck tag) = some 0 ∧
    (∀ status data, ∃ w, typeWord (.errorResp tag status data) = some w ∧ bits w 3 0 = status.toNat ∧ w.getLsbD 4 = data ∧
      bits w 127 5 = 0)) ∧
  (∀ op l old deadline ctag, ∃ w, typeWord (.latchOp op l old deadline none ctag) = some w ∧ bits w 2 0 = latchOpCode op ∧
    bits w 19 3 = l.toNat ∧ w.getLsbD 20 = old ∧ w.getLsbD 21 = deadline ∧ bits w 47 22 = 0) ∧
  (∀ r : Rect, let w := rectWord (some r)
    bits w 39 0 = 0 ∧ w.getLsbD 40 = true ∧ bits w 50 41 = r.lxLo.toNat ∧ bits w 60 51 = r.lxHi.toNat ∧ bits w 69 61 = r.lyLo.toNat ∧
    bits w 78 70 = r.lyHi.toNat)

/-- Frames of a Chonel link (R316, R317): the control field and its type are read back from its 92 bits, which stand at bit 5,016; a
slot stands at 256 times its number with its tag from bit 4,864; a reserved type code is none; and the CRC of a frame that a mill
forms matches. -/
def Claims.FrameWords : Prop :=
  (∀ (t : FrameType) (c : FrameCtl), ctlOf (ctlBits t c) = c ∧ frameTypeOf (ctlBits t c) = some t) ∧
  (∀ w : BitVec 92, 5 ≤ bits w 2 0 → frameTypeOf w = none) ∧
  (∀ f : TxFrame, frameCrcOk f.bits = true ∧ bits f.bits 5107 5016 = (ctlBits f.type f.ctl).toNat) ∧
  (∀ (f : TxFrame) (k : Nat) (x : Slot), k < 19 → f.slots[k]? = some x →
    bits f.bits (256 * k + 255) (256 * k) = x.flit.toNat ∧
    let tag := bits f.bits (4864 + 8 * k + 7) (4864 + 8 * k)
    tag % 16 = 0 ∧ tag / 16 % 2 = (if x.head then 1 else 0) ∧ tag / 32 % 4 = x.lvc.toNat ∧ tag / 128 = 1) ∧
  (∀ (f : TxFrame) (k : Nat), k < 19 → f.slots.length ≤ k →
    bits f.bits (256 * k + 255) (256 * k) = 0 ∧ bits f.bits (4864 + 8 * k + 7) (4864 + 8 * k) = 0)

/-- What the fields of packets and frames stand for on their links, bit by bit. -/
def Obligations.LinkWords : Prop := Claims.MeshWords ∧ Claims.TypeWords ∧ Claims.FrameWords
end

