-- ==== Sys2Proof/Laws/Issue.lean ====
section
/-! SUPPORT. What the issue of an instruction answers, by what the instruction does when it comes to issue. -/

namespace Sys2Proof.Laws
open Sys2Proof.Machine

variable {s t : State} {c : CellId} {i : Instr} {a target : PAddr} {n : Nat}
  {act : State → Cell → PAddr → Nat → Act}

/-- The issue of an instruction that comes to issue, by its act. -/
theorem issue_eq (h : s.ComesToIssue c i a n) :
    s.issue c i act = match act s (s.cell c) a n with
      | .hold => s
      | .trap cause info => s.afterTrap c a n cause info
      | .trapIn t cause info => t.precise c cause a info (rawOf (((s.cell c).held.take n).map (·.word)))
      | .done t => t.afterIssue c i n
      | .jump t x => t.afterBranch c i n x
      | .stay t => t
      | .leave t x => (t.modCell c fun v => { v with pc := x, held := [] }).countIssue c i := by
  obtain ⟨h1, h2, h3, h4, h5, h6, h7⟩ := h
  unfold State.issue
  cases hl : (s.cell c).held with
  | nil => simp [hl] at h3
  | cons w l =>
    have hw : w.addr = a := by simpa [hl] using h3
    subst hw
    simp only [h1, h2, h4, hl, h5, h6, h7]
    cases hx : act s (s.cell c) w.addr n <;>
      simp [State.afterTrap, State.afterIssue, State.afterBranch, hl]

theorem issue_done (h : s.ComesToIssue c i a n) (e : act s (s.cell c) a n = .done t) :
    s.issue c i act = t.afterIssue c i n := by rw [issue_eq h, e]

theorem issue_jump (h : s.ComesToIssue c i a n) (e : act s (s.cell c) a n = .jump t target) :
    s.issue c i act = t.afterBranch c i n target := by rw [issue_eq h, e]

theorem issue_trap {cause : Nat} {info : Word} (h : s.ComesToIssue c i a n)
    (e : act s (s.cell c) a n = .trap cause info) : s.issue c i act = s.afterTrap c a n cause info := by
  rw [issue_eq h, e]

theorem issue_hold (h : s.ComesToIssue c i a n) (e : act s (s.cell c) a n = .hold) : s.issue c i act = s := by
  rw [issue_eq h, e]

theorem issue_stay (h : s.ComesToIssue c i a n) (e : act s (s.cell c) a n = .stay t) : s.issue c i act = t := by
  rw [issue_eq h, e]

end Sys2Proof.Laws
end

