-- ==== Sys2Proof/Laws/Store.lean ====
section
/-! SUPPORT. The laws of sparse stores and of the memories made of them: reading after writing, and that every
operation keeps the canonical form. -/

namespace Sys2Proof.Laws
open Sys2Proof.Machine

variable {α : Type}

/-! ### Reading after writing -/

theorem find?_erase_same (m : Store α) (k : Nat) : Store.find? (Store.erase m k) k = none := by
  induction m with
  | nil => rfl
  | cons e m ih =>
    obtain ⟨k', v⟩ := e
    by_cases h : k' = k <;> simp [Store.erase, Store.find?, h, ih]

theorem find?_erase_other (m : Store α) {k j : Nat} (h : j ≠ k) :
    Store.find? (Store.erase m k) j = Store.find? m j := by
  induction m with
  | nil => rfl
  | cons e m ih =>
    obtain ⟨k', v⟩ := e
    by_cases h' : k' = k
    · subst h'
      simp [Store.erase, Store.find?, ih, Ne.symm h]
    · simp only [Store.erase, h', if_false, Store.find?, ih]

theorem find?_insert_same (m : Store α) (k : Nat) (v : α) : Store.find? (Store.insert m k v) k = some v := by
  induction m with
  | nil => simp [Store.insert, Store.find?]
  | cons e m ih =>
    obtain ⟨k', v'⟩ := e
    unfold Store.insert
    split
    · simp [Store.find?]
    · split
      · simp [Store.find?]
      · next h => simp [Store.find?, Ne.symm h, ih]

theorem find?_insert_other (m : Store α) {k j : Nat} (v : α) (h : j ≠ k) :
    Store.find? (Store.insert m k v) j = Store.find? m j := by
  induction m with
  | nil => simp [Store.insert, Store.find?, Ne.symm h]
  | cons e m ih =>
    obtain ⟨k', v'⟩ := e
    unfold Store.insert
    split
    · simp [Store.find?, Ne.symm h]
    · split
      · next h' => subst h'; simp [Store.find?, Ne.symm h]
      · by_cases h'' : k' = j <;> simp [Store.find?, h'', ih]

section
variable [DecidableEq α]

@[simp] theorem get_set_same (d : α) (m : Store α) (k : Nat) (v : α) :
    Store.get d (Store.set d m k v) k = v := by
  unfold Store.set Store.get
  split
  · next h => simp [find?_erase_same, h]
  · simp [find?_insert_same]

theorem get_set_other (d : α) (m : Store α) {k j : Nat} (v : α) (h : j ≠ k) :
    Store.get d (Store.set d m k v) j = Store.get d m j := by
  unfold Store.set Store.get
  split
  · rw [find?_erase_other m h]
  · rw [find?_insert_other m v h]

/-- A read after a write: the value written at its key, the old one elsewhere. -/
theorem get_set (d : α) (m : Store α) (k j : Nat) (v : α) :
    Store.get d (Store.set d m k v) j = if j = k then v else Store.get d m j := by
  split
  · next h => subst h; simp
  · next h => exact get_set_other d m v h

end

@[simp] theorem get_nil (d : α) (k : Nat) : Store.get d ([] : Store α) k = d := rfl

/-! ### The canonical form -/

/-- Every key of a store is above a bound. -/
def Above (b : Nat) (m : Store α) : Prop := ∀ e ∈ m, b < e.1

theorem sorted_cons {k : Nat} {v : α} {m : Store α} :
    Store.sorted ((k, v) :: m) = true ↔ Above k m ∧ Store.sorted m = true := by
  induction m generalizing k v with
  | nil => simp [Store.sorted, Above]
  | cons e m ih =>
    obtain ⟨k', v'⟩ := e
    have step : Store.sorted ((k, v) :: (k', v') :: m) = true ↔ k < k' ∧ Store.sorted ((k', v') :: m) = true := by
      simp [Store.sorted]
    rw [step]
    constructor
    · rintro ⟨h1, h2⟩
      refine ⟨?_, h2⟩
      intro e he
      rcases List.mem_cons.1 he with rfl | he
      · exact h1
      · exact lt_trans h1 ((ih.1 h2).1 e he)
    · rintro ⟨h1, h2⟩
      exact ⟨h1 (k', v') (by simp), h2⟩

theorem mem_erase {m : Store α} {k : Nat} {e : Nat × α} (h : e ∈ Store.erase m k) : e ∈ m := by
  induction m with
  | nil => simp [Store.erase] at h
  | cons x m ih =>
    obtain ⟨k', v'⟩ := x
    unfold Store.erase at h
    split at h
    · exact List.mem_cons_of_mem _ (ih h)
    · rcases List.mem_cons.1 h with rfl | h
      · simp
      · exact List.mem_cons_of_mem _ (ih h)

theorem mem_insert {m : Store α} {k : Nat} {v : α} {e : Nat × α} (h : e ∈ Store.insert m k v) :
    e = (k, v) ∨ e ∈ m := by
  induction m with
  | nil => simpa [Store.insert] using h
  | cons x m ih =>
    obtain ⟨k', v'⟩ := x
    unfold Store.insert at h
    split at h
    · simpa using h
    · split at h
      · rcases List.mem_cons.1 h with h | h
        · exact .inl h
        · exact .inr (List.mem_cons_of_mem _ h)
      · rcases List.mem_cons.1 h with rfl | h
        · simp
        · exact (ih h).imp id (List.mem_cons_of_mem _)

theorem sorted_erase {m : Store α} {k : Nat} (h : Store.sorted m = true) : Store.sorted (Store.erase m k) = true := by
  induction m with
  | nil => rfl
  | cons x m ih =>
    obtain ⟨k', v'⟩ := x
    obtain ⟨h1, h2⟩ := sorted_cons.1 h
    unfold Store.erase
    split
    · exact ih h2
    · exact sorted_cons.2 ⟨fun e he => h1 e (mem_erase he), ih h2⟩

theorem sorted_insert {m : Store α} {k : Nat} {v : α} (h : Store.sorted m = true) :
    Store.sorted (Store.insert m k v) = true := by
  induction m with
  | nil => rfl
  | cons x m ih =>
    obtain ⟨k', v'⟩ := x
    obtain ⟨h1, h2⟩ := sorted_cons.1 h
    unfold Store.insert
    split
    · next hk =>
      refine sorted_cons.2 ⟨?_, h⟩
      intro e he
      rcases List.mem_cons.1 he with rfl | he
      · exact hk
      · exact lt_trans hk (h1 e he)
    · split
      · next hk => exact sorted_cons.2 ⟨fun e he => hk ▸ h1 e he, h2⟩
      · next hk hk' =>
        refine sorted_cons.2 ⟨?_, ih h2⟩
        intro e he
        rcases mem_insert he with rfl | he
        · show k' < k; omega
        · exact h1 e he

theorem sorted_filter {m : Store α} {p : Nat × α → Bool} (h : Store.sorted m = true) :
    Store.sorted (m.filter p) = true := by
  induction m with
  | nil => rfl
  | cons x m ih =>
    obtain ⟨k', v'⟩ := x
    obtain ⟨h1, h2⟩ := sorted_cons.1 h
    rw [List.filter_cons]
    split
    · exact sorted_cons.2 ⟨fun e he => h1 e (List.mem_filter.1 he).1, ih h2⟩
    · exact ih h2

section
variable [DecidableEq α]

theorem wf_iff {d : α} {m : Store α} :
    Store.wf d m = true ↔ Store.sorted m = true ∧ ∀ e ∈ m, e.2 ≠ d := by
  simp [Store.wf]

@[simp] theorem wf_nil (d : α) : Store.wf d ([] : Store α) = true := rfl

theorem wf_erase {d : α} {m : Store α} {k : Nat} (h : Store.wf d m = true) : Store.wf d (Store.erase m k) = true := by
  obtain ⟨h1, h2⟩ := wf_iff.1 h
  exact wf_iff.2 ⟨sorted_erase h1, fun e he => h2 e (mem_erase he)⟩

theorem wf_insert {d : α} {m : Store α} {k : Nat} {v : α} (hv : v ≠ d) (h : Store.wf d m = true) :
    Store.wf d (Store.insert m k v) = true := by
  obtain ⟨h1, h2⟩ := wf_iff.1 h
  refine wf_iff.2 ⟨sorted_insert h1, fun e he => ?_⟩
  rcases mem_insert he with rfl | he
  · exact hv
  · exact h2 e he

theorem wf_set {d : α} {m : Store α} {k : Nat} {v : α} (h : Store.wf d m = true) :
    Store.wf d (Store.set d m k v) = true := by
  unfold Store.set
  split
  · exact wf_erase h
  · next hv => exact wf_insert hv h

theorem wf_filter {d : α} {m : Store α} {p : Nat × α → Bool} (h : Store.wf d m = true) :
    Store.wf d (m.filter p) = true := by
  obtain ⟨h1, h2⟩ := wf_iff.1 h
  exact wf_iff.2 ⟨sorted_filter h1, fun e he => h2 e (List.mem_filter.1 he).1⟩

end

/-! ### Memories -/

@[simp] theorem read_nil (a : Nat) : Memory.read [] a = 0 := rfl

@[simp] theorem read_write_same (m : Memory) (a : Nat) (b : Byte) : (m.write a b).read a = b :=
  get_set_same _ _ _ _

theorem read_write_other (m : Memory) {a x : Nat} (b : Byte) (h : x ≠ a) : (m.write a b).read x = m.read x :=
  get_set_other _ _ _ h

theorem wf_write {m : Memory} {a : Nat} {b : Byte} (h : m.wf = true) : (m.write a b).wf = true := wf_set h

theorem wf_writeBytes {m : Memory} {a : Nat} {l : List Byte} (h : m.wf = true) : (m.writeBytes a l).wf = true := by
  induction l generalizing m a with
  | nil => exact h
  | cons b l ih => exact ih (wf_write h)

theorem wf_writeMasked {m : Memory} {a : Nat} {l : List (Option Byte)} (h : m.wf = true) :
    Memory.wf (writeMasked m a l) = true := by
  induction l generalizing m a with
  | nil => exact h
  | cons b l ih =>
    cases b with
    | none => exact ih h
    | some b => exact ih (wf_write h)

theorem wf_clear {m : Memory} {a n : Nat} (h : m.wf = true) : (m.clear a n).wf = true := wf_filter h

/-- A write of bytes leaves every byte outside them alone. -/
theorem read_writeBytes_other {m : Memory} {a x : Nat} {l : List Byte} (h : x < a ∨ a + l.length ≤ x) :
    (m.writeBytes a l).read x = m.read x := by
  induction l generalizing m a with
  | nil => rfl
  | cons b l ih =>
    simp only [List.length_cons] at h
    unfold Memory.writeBytes
    rw [ih (by omega), read_write_other m b (by omega)]

/-- A write of bytes is read back. -/
theorem read_writeBytes_same {m : Memory} {a i : Nat} {l : List Byte} (h : i < l.length) :
    (m.writeBytes a l).read (a + i) = l[i] := by
  induction l generalizing m a i with
  | nil => simp at h
  | cons b l ih =>
    unfold Memory.writeBytes
    cases i with
    | zero => rw [read_writeBytes_other (by omega)]; simp
    | succ i =>
      have := ih (m := m.write a b) (a := a + 1) (i := i) (by simpa using h)
      rw [show a + (i + 1) = a + 1 + i by omega, this]; rfl

theorem readBytes_length (m : Memory) (a n : Nat) : (m.readBytes a n).length = n := by
  induction n generalizing a with
  | zero => rfl
  | succ n ih => simp [Memory.readBytes, ih]

theorem leBytes_length (n x : Nat) : (leBytes n x).length = n := by
  induction n generalizing x with
  | zero => rfl
  | succ n ih => simp [leBytes, ih]

end Sys2Proof.Laws
end

