-- ==== Sys2Proof/Laws/State.lean ====
section
/-! SUPPORT. What the named updates of the state leave alone, field by field, and what is read after them. -/

namespace Sys2Proof.Laws
open Sys2Proof.Machine

variable (s : State)

/-! ### setCell -/

theorem setCell_cell (k j : CellId) (v : Cell) :
    (s.setCell k v).cell j = if j = k then v else s.cell j := by
  unfold State.setCell State.cell
  simp only [get_set]
  by_cases h : j = k
  · simp [h]
  · have : j.toNat ≠ k.toNat := fun e => h (BitVec.eq_of_toNat_eq e)
    simp [h, this]

@[simp] theorem setCell_cell_same (k : CellId) (v : Cell) : (s.setCell k v).cell k = v := by simp [setCell_cell]

theorem setCell_cell_other {k j : CellId} (v : Cell) (h : j ≠ k) : (s.setCell k v).cell j = s.cell j := by
  simp [setCell_cell, h]

@[simp] theorem setCell_pending (k : CellId) (v : Cell) : (s.setCell k v).pending = s.pending := rfl
@[simp] theorem setCell_tick (k : CellId) (v : Cell) : (s.setCell k v).tick = s.tick := rfl
@[simp] theorem setCell_drawn (k : CellId) (v : Cell) : (s.setCell k v).drawn = s.drawn := rfl
@[simp] theorem setCell_tickHold (k : CellId) (v : Cell) : (s.setCell k v).tickHold = s.tickHold := rfl
@[simp] theorem setCell_slew (k : CellId) (v : Cell) : (s.setCell k v).slew = s.slew := rfl
@[simp] theorem setCell_slewPart (k : CellId) (v : Cell) : (s.setCell k v).slewPart = s.slewPart := rfl
@[simp] theorem setCell_net (k : CellId) (v : Cell) : (s.setCell k v).net = s.net := rfl
@[simp] theorem setCell_pmem (k : CellId) (v : Cell) : (s.setCell k v).pmem = s.pmem := rfl
@[simp] theorem setCell_pmemAll (k : CellId) (v : Cell) : (s.setCell k v).pmemAll = s.pmemAll := rfl
@[simp] theorem setCell_library (k : CellId) (v : Cell) : (s.setCell k v).library = s.library := rfl
@[simp] theorem setCell_loft (k : CellId) (v : Cell) : (s.setCell k v).loft = s.loft := rfl
@[simp] theorem setCell_loftErr (k : CellId) (v : Cell) : (s.setCell k v).loftErr = s.loftErr := rfl
@[simp] theorem setCell_scrubs (k : CellId) (v : Cell) : (s.setCell k v).scrubs = s.scrubs := rfl
@[simp] theorem setCell_links (k : CellId) (v : Cell) : (s.setCell k v).links = s.links := rfl
@[simp] theorem setCell_linkAll (k : CellId) (v : Cell) : (s.setCell k v).linkAll = s.linkAll := rfl
@[simp] theorem setCell_linksOut (k : CellId) (v : Cell) : (s.setCell k v).linksOut = s.linksOut := rfl
@[simp] theorem setCell_arb (k : CellId) (v : Cell) : (s.setCell k v).arb = s.arb := rfl
@[simp] theorem setCell_hostReads (k : CellId) (v : Cell) : (s.setCell k v).hostReads = s.hostReads := rfl
@[simp] theorem setCell_ni (k : CellId) (v : Cell) : (s.setCell k v).ni = s.ni := rfl
@[simp] theorem setCell_niCell (k : CellId) (v : Cell) : (s.setCell k v).niCell = s.niCell := rfl
@[simp] theorem setCell_hubs (k : CellId) (v : Cell) : (s.setCell k v).hubs = s.hubs := rfl
@[simp] theorem setCell_niHub (k : CellId) (v : Cell) : (s.setCell k v).niHub = s.niHub := rfl
@[simp] theorem setCell_wains (k : CellId) (v : Cell) : (s.setCell k v).wains = s.wains := rfl
@[simp] theorem setCell_gstacks (k : CellId) (v : Cell) : (s.setCell k v).gstacks = s.gstacks := rfl
@[simp] theorem setCell_granary (k : CellId) (v : Cell) : (s.setCell k v).granary = s.granary := rfl
@[simp] theorem setCell_granErr (k : CellId) (v : Cell) : (s.setCell k v).granErr = s.granErr := rfl
@[simp] theorem setCell_gmap (k : CellId) (v : Cell) : (s.setCell k v).gmap = s.gmap := rfl
@[simp] theorem setCell_hingeCache (k : CellId) (v : Cell) : (s.setCell k v).hingeCache = s.hingeCache := rfl
@[simp] theorem setCell_plots (k : CellId) (v : Cell) : (s.setCell k v).plots = s.plots := rfl
@[simp] theorem setCell_ports (k : CellId) (v : Cell) : (s.setCell k v).ports = s.ports := rfl
@[simp] theorem setCell_map (k : CellId) (v : Cell) : (s.setCell k v).map = s.map := rfl
@[simp] theorem setCell_epoch (k : CellId) (v : Cell) : (s.setCell k v).epoch = s.epoch := rfl
@[simp] theorem setCell_ledger (k : CellId) (v : Cell) : (s.setCell k v).ledger = s.ledger := rfl
@[simp] theorem setCell_ledgerLost (k : CellId) (v : Cell) : (s.setCell k v).ledgerLost = s.ledgerLost := rfl
@[simp] theorem setCell_faultSeq (k : CellId) (v : Cell) : (s.setCell k v).faultSeq = s.faultSeq := rfl
@[simp] theorem setCell_millsOut (k : CellId) (v : Cell) : (s.setCell k v).millsOut = s.millsOut := rfl
@[simp] theorem setCell_darkOrder (k : CellId) (v : Cell) : (s.setCell k v).darkOrder = s.darkOrder := rfl
@[simp] theorem setCell_darkSeen (k : CellId) (v : Cell) : (s.setCell k v).darkSeen = s.darkSeen := rfl
@[simp] theorem setCell_residents (k : CellId) (v : Cell) : (s.setCell k v).residents = s.residents := rfl
@[simp] theorem setCell_libver (k : CellId) (v : Cell) : (s.setCell k v).libver = s.libver := rfl
@[simp] theorem setCell_mills (k : CellId) (v : Cell) : (s.setCell k v).mills = s.mills := rfl
@[simp] theorem setCell_ranks (k : CellId) (v : Cell) : (s.setCell k v).ranks = s.ranks := rfl
@[simp] theorem setCell_routes (k : CellId) (v : Cell) : (s.setCell k v).routes = s.routes := rfl
@[simp] theorem setCell_rankWr (k : CellId) (v : Cell) : (s.setCell k v).rankWr = s.rankWr := rfl
@[simp] theorem setCell_routeWr (k : CellId) (v : Cell) : (s.setCell k v).routeWr = s.routeWr := rfl
@[simp] theorem setCell_badEnt (k : CellId) (v : Cell) : (s.setCell k v).badEnt = s.badEnt := rfl
@[simp] theorem setCell_rankBusy (k : CellId) (v : Cell) : (s.setCell k v).rankBusy = s.rankBusy := rfl
@[simp] theorem setCell_tally (k : CellId) (v : Cell) : (s.setCell k v).tally = s.tally := rfl
@[simp] theorem setCell_dump (k : CellId) (v : Cell) : (s.setCell k v).dump = s.dump := rfl
@[simp] theorem setCell_forced (k : CellId) (v : Cell) : (s.setCell k v).forced = s.forced := rfl
@[simp] theorem setCell_licence (k : CellId) (v : Cell) : (s.setCell k v).licence = s.licence := rfl
@[simp] theorem setCell_windows (k : CellId) (v : Cell) : (s.setCell k v).windows = s.windows := rfl
@[simp] theorem setCell_hostMem (k : CellId) (v : Cell) : (s.setCell k v).hostMem = s.hostMem := rfl
@[simp] theorem setCell_bridge (k : CellId) (v : Cell) : (s.setCell k v).bridge = s.bridge := rfl
@[simp] theorem setCell_bridgeDrop (k : CellId) (v : Cell) : (s.setCell k v).bridgeDrop = s.bridgeDrop := rfl
@[simp] theorem setCell_switchEnd (k : CellId) (v : Cell) : (s.setCell k v).switchEnd = s.switchEnd := rfl
@[simp] theorem setCell_pageFaults (k : CellId) (v : Cell) : (s.setCell k v).pageFaults = s.pageFaults := rfl
@[simp] theorem setCell_pageSeq (k : CellId) (v : Cell) : (s.setCell k v).pageSeq = s.pageSeq := rfl
@[simp] theorem setCell_wafer (k : CellId) (v : Cell) : (s.setCell k v).wafer = s.wafer := rfl
@[simp] theorem setCell_jobtag (k : CellId) (v : Cell) : (s.setCell k v).jobtag = s.jobtag := rfl
@[simp] theorem setCell_jobLoaded (k : CellId) (v : Cell) : (s.setCell k v).jobLoaded = s.jobLoaded := rfl
@[simp] theorem setCell_serial (k : CellId) (v : Cell) : (s.setCell k v).serial = s.serial := rfl
@[simp] theorem setCell_steward (k : CellId) (v : Cell) : (s.setCell k v).steward = s.steward := rfl
@[simp] theorem setCell_lastSeq (k : CellId) (v : Cell) : (s.setCell k v).lastSeq = s.lastSeq := rfl
@[simp] theorem setCell_mail (k : CellId) (v : Cell) : (s.setCell k v).mail = s.mail := rfl
@[simp] theorem setCell_running (k : CellId) (v : Cell) : (s.setCell k v).running = s.running := rfl
@[simp] theorem setCell_restarting (k : CellId) (v : Cell) : (s.setCell k v).restarting = s.restarting := rfl
@[simp] theorem setCell_plan (k : CellId) (v : Cell) : (s.setCell k v).plan = s.plan := rfl
@[simp] theorem setCell_nextLoad (k : CellId) (v : Cell) : (s.setCell k v).nextLoad = s.nextLoad := rfl
@[simp] theorem setCell_boot (k : CellId) (v : Cell) : (s.setCell k v).boot = s.boot := rfl
@[simp] theorem setCell_fuseComp (k : CellId) (v : Cell) : (s.setCell k v).fuseComp = s.fuseComp := rfl
@[simp] theorem setCell_fuseRtr (k : CellId) (v : Cell) : (s.setCell k v).fuseRtr = s.fuseRtr := rfl
@[simp] theorem setCell_failComp (k : CellId) (v : Cell) : (s.setCell k v).failComp = s.failComp := rfl
@[simp] theorem setCell_failRtr (k : CellId) (v : Cell) : (s.setCell k v).failRtr = s.failRtr := rfl
@[simp] theorem setCell_failLink (k : CellId) (v : Cell) : (s.setCell k v).failLink = s.failLink := rfl
@[simp] theorem setCell_tripped (k : CellId) (v : Cell) : (s.setCell k v).tripped = s.tripped := rfl
@[simp] theorem setCell_flashMap (k : CellId) (v : Cell) : (s.setCell k v).flashMap = s.flashMap := rfl
@[simp] theorem setCell_flashEpoch (k : CellId) (v : Cell) : (s.setCell k v).flashEpoch = s.flashEpoch := rfl
@[simp] theorem setCell_dormant (k : CellId) (v : Cell) : (s.setCell k v).dormant = s.dormant := rfl
@[simp] theorem setCell_clocks (k : CellId) (v : Cell) : (s.setCell k v).clocks = s.clocks := rfl
@[simp] theorem setCell_power (k : CellId) (v : Cell) : (s.setCell k v).power = s.power := rfl
@[simp] theorem setCell_fw (k : CellId) (v : Cell) : (s.setCell k v).fw = s.fw := rfl
@[simp] theorem setCell_pins (k : CellId) (v : Cell) : (s.setCell k v).pins = s.pins := rfl
@[simp] theorem setCell_regAcc (k : CellId) (v : Cell) : (s.setCell k v).regAcc = s.regAcc := rfl
@[simp] theorem setCell_regOut (k : CellId) (v : Cell) : (s.setCell k v).regOut = s.regOut := rfl
@[simp] theorem setCell_hub (k : CellId) (v : Cell) (j : FieldNo) : (s.setCell k v).hub j = s.hub j := rfl
@[simp] theorem setCell_plot (k : CellId) (v : Cell) (j : PlotId) : (s.setCell k v).plot j = s.plot j := rfl
@[simp] theorem setCell_wain (k : CellId) (v : Cell) (j : Nat) : (s.setCell k v).wain j = s.wain j := rfl
@[simp] theorem setCell_stack (k : CellId) (v : Cell) (j : Nat) : (s.setCell k v).stack j = s.stack j := rfl
@[simp] theorem setCell_port (k : CellId) (v : Cell) (j : PortNo) : (s.setCell k v).port j = s.port j := rfl
@[simp] theorem setCell_mill (k : CellId) (v : Cell) (j : MillNo) : (s.setCell k v).mill j = s.mill j := rfl

/-! ### setHub -/

theorem setHub_hub (k j : FieldNo) (v : Hub) :
    (s.setHub k v).hub j = if j = k then v else s.hub j := by
  unfold State.setHub State.hub
  simp only [get_set]
  by_cases h : j = k
  · simp [h]
  · have : j.toNat ≠ k.toNat := fun e => h (BitVec.eq_of_toNat_eq e)
    simp [h, this]

@[simp] theorem setHub_hub_same (k : FieldNo) (v : Hub) : (s.setHub k v).hub k = v := by simp [setHub_hub]

theorem setHub_hub_other {k j : FieldNo} (v : Hub) (h : j ≠ k) : (s.setHub k v).hub j = s.hub j := by
  simp [setHub_hub, h]

@[simp] theorem setHub_pending (k : FieldNo) (v : Hub) : (s.setHub k v).pending = s.pending := rfl
@[simp] theorem setHub_tick (k : FieldNo) (v : Hub) : (s.setHub k v).tick = s.tick := rfl
@[simp] theorem setHub_drawn (k : FieldNo) (v : Hub) : (s.setHub k v).drawn = s.drawn := rfl
@[simp] theorem setHub_tickHold (k : FieldNo) (v : Hub) : (s.setHub k v).tickHold = s.tickHold := rfl
@[simp] theorem setHub_slew (k : FieldNo) (v : Hub) : (s.setHub k v).slew = s.slew := rfl
@[simp] theorem setHub_slewPart (k : FieldNo) (v : Hub) : (s.setHub k v).slewPart = s.slewPart := rfl
@[simp] theorem setHub_net (k : FieldNo) (v : Hub) : (s.setHub k v).net = s.net := rfl
@[simp] theorem setHub_cells (k : FieldNo) (v : Hub) : (s.setHub k v).cells = s.cells := rfl
@[simp] theorem setHub_pmem (k : FieldNo) (v : Hub) : (s.setHub k v).pmem = s.pmem := rfl
@[simp] theorem setHub_pmemAll (k : FieldNo) (v : Hub) : (s.setHub k v).pmemAll = s.pmemAll := rfl
@[simp] theorem setHub_library (k : FieldNo) (v : Hub) : (s.setHub k v).library = s.library := rfl
@[simp] theorem setHub_loft (k : FieldNo) (v : Hub) : (s.setHub k v).loft = s.loft := rfl
@[simp] theorem setHub_loftErr (k : FieldNo) (v : Hub) : (s.setHub k v).loftErr = s.loftErr := rfl
@[simp] theorem setHub_scrubs (k : FieldNo) (v : Hub) : (s.setHub k v).scrubs = s.scrubs := rfl
@[simp] theorem setHub_links (k : FieldNo) (v : Hub) : (s.setHub k v).links = s.links := rfl
@[simp] theorem setHub_linkAll (k : FieldNo) (v : Hub) : (s.setHub k v).linkAll = s.linkAll := rfl
@[simp] theorem setHub_linksOut (k : FieldNo) (v : Hub) : (s.setHub k v).linksOut = s.linksOut := rfl
@[simp] theorem setHub_arb (k : FieldNo) (v : Hub) : (s.setHub k v).arb = s.arb := rfl
@[simp] theorem setHub_hostReads (k : FieldNo) (v : Hub) : (s.setHub k v).hostReads = s.hostReads := rfl
@[simp] theorem setHub_ni (k : FieldNo) (v : Hub) : (s.setHub k v).ni = s.ni := rfl
@[simp] theorem setHub_niCell (k : FieldNo) (v : Hub) : (s.setHub k v).niCell = s.niCell := rfl
@[simp] theorem setHub_niHub (k : FieldNo) (v : Hub) : (s.setHub k v).niHub = s.niHub := rfl
@[simp] theorem setHub_wains (k : FieldNo) (v : Hub) : (s.setHub k v).wains = s.wains := rfl
@[simp] theorem setHub_gstacks (k : FieldNo) (v : Hub) : (s.setHub k v).gstacks = s.gstacks := rfl
@[simp] theorem setHub_granary (k : FieldNo) (v : Hub) : (s.setHub k v).granary = s.granary := rfl
@[simp] theorem setHub_granErr (k : FieldNo) (v : Hub) : (s.setHub k v).granErr = s.granErr := rfl
@[simp] theorem setHub_gmap (k : FieldNo) (v : Hub) : (s.setHub k v).gmap = s.gmap := rfl
@[simp] theorem setHub_hingeCache (k : FieldNo) (v : Hub) : (s.setHub k v).hingeCache = s.hingeCache := rfl
@[simp] theorem setHub_plots (k : FieldNo) (v : Hub) : (s.setHub k v).plots = s.plots := rfl
@[simp] theorem setHub_ports (k : FieldNo) (v : Hub) : (s.setHub k v).ports = s.ports := rfl
@[simp] theorem setHub_map (k : FieldNo) (v : Hub) : (s.setHub k v).map = s.map := rfl
@[simp] theorem setHub_epoch (k : FieldNo) (v : Hub) : (s.setHub k v).epoch = s.epoch := rfl
@[simp] theorem setHub_ledger (k : FieldNo) (v : Hub) : (s.setHub k v).ledger = s.ledger := rfl
@[simp] theorem setHub_ledgerLost (k : FieldNo) (v : Hub) : (s.setHub k v).ledgerLost = s.ledgerLost := rfl
@[simp] theorem setHub_faultSeq (k : FieldNo) (v : Hub) : (s.setHub k v).faultSeq = s.faultSeq := rfl
@[simp] theorem setHub_millsOut (k : FieldNo) (v : Hub) : (s.setHub k v).millsOut = s.millsOut := rfl
@[simp] theorem setHub_darkOrder (k : FieldNo) (v : Hub) : (s.setHub k v).darkOrder = s.darkOrder := rfl
@[simp] theorem setHub_darkSeen (k : FieldNo) (v : Hub) : (s.setHub k v).darkSeen = s.darkSeen := rfl
@[simp] theorem setHub_residents (k : FieldNo) (v : Hub) : (s.setHub k v).residents = s.residents := rfl
@[simp] theorem setHub_libver (k : FieldNo) (v : Hub) : (s.setHub k v).libver = s.libver := rfl
@[simp] theorem setHub_mills (k : FieldNo) (v : Hub) : (s.setHub k v).mills = s.mills := rfl
@[simp] theorem setHub_ranks (k : FieldNo) (v : Hub) : (s.setHub k v).ranks = s.ranks := rfl
@[simp] theorem setHub_routes (k : FieldNo) (v : Hub) : (s.setHub k v).routes = s.routes := rfl
@[simp] theorem setHub_rankWr (k : FieldNo) (v : Hub) : (s.setHub k v).rankWr = s.rankWr := rfl
@[simp] theorem setHub_routeWr (k : FieldNo) (v : Hub) : (s.setHub k v).routeWr = s.routeWr := rfl
@[simp] theorem setHub_badEnt (k : FieldNo) (v : Hub) : (s.setHub k v).badEnt = s.badEnt := rfl
@[simp] theorem setHub_rankBusy (k : FieldNo) (v : Hub) : (s.setHub k v).rankBusy = s.rankBusy := rfl
@[simp] theorem setHub_tally (k : FieldNo) (v : Hub) : (s.setHub k v).tally = s.tally := rfl
@[simp] theorem setHub_dump (k : FieldNo) (v : Hub) : (s.setHub k v).dump = s.dump := rfl
@[simp] theorem setHub_forced (k : FieldNo) (v : Hub) : (s.setHub k v).forced = s.forced := rfl
@[simp] theorem setHub_licence (k : FieldNo) (v : Hub) : (s.setHub k v).licence = s.licence := rfl
@[simp] theorem setHub_windows (k : FieldNo) (v : Hub) : (s.setHub k v).windows = s.windows := rfl
@[simp] theorem setHub_hostMem (k : FieldNo) (v : Hub) : (s.setHub k v).hostMem = s.hostMem := rfl
@[simp] theorem setHub_bridge (k : FieldNo) (v : Hub) : (s.setHub k v).bridge = s.bridge := rfl
@[simp] theorem setHub_bridgeDrop (k : FieldNo) (v : Hub) : (s.setHub k v).bridgeDrop = s.bridgeDrop := rfl
@[simp] theorem setHub_switchEnd (k : FieldNo) (v : Hub) : (s.setHub k v).switchEnd = s.switchEnd := rfl
@[simp] theorem setHub_pageFaults (k : FieldNo) (v : Hub) : (s.setHub k v).pageFaults = s.pageFaults := rfl
@[simp] theorem setHub_pageSeq (k : FieldNo) (v : Hub) : (s.setHub k v).pageSeq = s.pageSeq := rfl
@[simp] theorem setHub_wafer (k : FieldNo) (v : Hub) : (s.setHub k v).wafer = s.wafer := rfl
@[simp] theorem setHub_jobtag (k : FieldNo) (v : Hub) : (s.setHub k v).jobtag = s.jobtag := rfl
@[simp] theorem setHub_jobLoaded (k : FieldNo) (v : Hub) : (s.setHub k v).jobLoaded = s.jobLoaded := rfl
@[simp] theorem setHub_serial (k : FieldNo) (v : Hub) : (s.setHub k v).serial = s.serial := rfl
@[simp] theorem setHub_steward (k : FieldNo) (v : Hub) : (s.setHub k v).steward = s.steward := rfl
@[simp] theorem setHub_lastSeq (k : FieldNo) (v : Hub) : (s.setHub k v).lastSeq = s.lastSeq := rfl
@[simp] theorem setHub_mail (k : FieldNo) (v : Hub) : (s.setHub k v).mail = s.mail := rfl
@[simp] theorem setHub_running (k : FieldNo) (v : Hub) : (s.setHub k v).running = s.running := rfl
@[simp] theorem setHub_restarting (k : FieldNo) (v : Hub) : (s.setHub k v).restarting = s.restarting := rfl
@[simp] theorem setHub_plan (k : FieldNo) (v : Hub) : (s.setHub k v).plan = s.plan := rfl
@[simp] theorem setHub_nextLoad (k : FieldNo) (v : Hub) : (s.setHub k v).nextLoad = s.nextLoad := rfl
@[simp] theorem setHub_boot (k : FieldNo) (v : Hub) : (s.setHub k v).boot = s.boot := rfl
@[simp] theorem setHub_fuseComp (k : FieldNo) (v : Hub) : (s.setHub k v).fuseComp = s.fuseComp := rfl
@[simp] theorem setHub_fuseRtr (k : FieldNo) (v : Hub) : (s.setHub k v).fuseRtr = s.fuseRtr := rfl
@[simp] theorem setHub_failComp (k : FieldNo) (v : Hub) : (s.setHub k v).failComp = s.failComp := rfl
@[simp] theorem setHub_failRtr (k : FieldNo) (v : Hub) : (s.setHub k v).failRtr = s.failRtr := rfl
@[simp] theorem setHub_failLink (k : FieldNo) (v : Hub) : (s.setHub k v).failLink = s.failLink := rfl
@[simp] theorem setHub_tripped (k : FieldNo) (v : Hub) : (s.setHub k v).tripped = s.tripped := rfl
@[simp] theorem setHub_flashMap (k : FieldNo) (v : Hub) : (s.setHub k v).flashMap = s.flashMap := rfl
@[simp] theorem setHub_flashEpoch (k : FieldNo) (v : Hub) : (s.setHub k v).flashEpoch = s.flashEpoch := rfl
@[simp] theorem setHub_dormant (k : FieldNo) (v : Hub) : (s.setHub k v).dormant = s.dormant := rfl
@[simp] theorem setHub_clocks (k : FieldNo) (v : Hub) : (s.setHub k v).clocks = s.clocks := rfl
@[simp] theorem setHub_power (k : FieldNo) (v : Hub) : (s.setHub k v).power = s.power := rfl
@[simp] theorem setHub_fw (k : FieldNo) (v : Hub) : (s.setHub k v).fw = s.fw := rfl
@[simp] theorem setHub_pins (k : FieldNo) (v : Hub) : (s.setHub k v).pins = s.pins := rfl
@[simp] theorem setHub_regAcc (k : FieldNo) (v : Hub) : (s.setHub k v).regAcc = s.regAcc := rfl
@[simp] theorem setHub_regOut (k : FieldNo) (v : Hub) : (s.setHub k v).regOut = s.regOut := rfl
@[simp] theorem setHub_cell (k : FieldNo) (v : Hub) (j : CellId) : (s.setHub k v).cell j = s.cell j := rfl
@[simp] theorem setHub_plot (k : FieldNo) (v : Hub) (j : PlotId) : (s.setHub k v).plot j = s.plot j := rfl
@[simp] theorem setHub_wain (k : FieldNo) (v : Hub) (j : Nat) : (s.setHub k v).wain j = s.wain j := rfl
@[simp] theorem setHub_stack (k : FieldNo) (v : Hub) (j : Nat) : (s.setHub k v).stack j = s.stack j := rfl
@[simp] theorem setHub_port (k : FieldNo) (v : Hub) (j : PortNo) : (s.setHub k v).port j = s.port j := rfl
@[simp] theorem setHub_mill (k : FieldNo) (v : Hub) (j : MillNo) : (s.setHub k v).mill j = s.mill j := rfl

/-! ### setPlot -/

theorem setPlot_plot (k j : PlotId) (v : Plot) :
    (s.setPlot k v).plot j = if j = k then v else s.plot j := by
  unfold State.setPlot State.plot
  simp only [get_set]
  by_cases h : j = k
  · simp [h]
  · have : j.toNat ≠ k.toNat := fun e => h (BitVec.eq_of_toNat_eq e)
    simp [h, this]

@[simp] theorem setPlot_plot_same (k : PlotId) (v : Plot) : (s.setPlot k v).plot k = v := by simp [setPlot_plot]

theorem setPlot_plot_other {k j : PlotId} (v : Plot) (h : j ≠ k) : (s.setPlot k v).plot j = s.plot j := by
  simp [setPlot_plot, h]

@[simp] theorem setPlot_pending (k : PlotId) (v : Plot) : (s.setPlot k v).pending = s.pending := rfl
@[simp] theorem setPlot_tick (k : PlotId) (v : Plot) : (s.setPlot k v).tick = s.tick := rfl
@[simp] theorem setPlot_drawn (k : PlotId) (v : Plot) : (s.setPlot k v).drawn = s.drawn := rfl
@[simp] theorem setPlot_tickHold (k : PlotId) (v : Plot) : (s.setPlot k v).tickHold = s.tickHold := rfl
@[simp] theorem setPlot_slew (k : PlotId) (v : Plot) : (s.setPlot k v).slew = s.slew := rfl
@[simp] theorem setPlot_slewPart (k : PlotId) (v : Plot) : (s.setPlot k v).slewPart = s.slewPart := rfl
@[simp] theorem setPlot_net (k : PlotId) (v : Plot) : (s.setPlot k v).net = s.net := rfl
@[simp] theorem setPlot_cells (k : PlotId) (v : Plot) : (s.setPlot k v).cells = s.cells := rfl
@[simp] theorem setPlot_pmem (k : PlotId) (v : Plot) : (s.setPlot k v).pmem = s.pmem := rfl
@[simp] theorem setPlot_pmemAll (k : PlotId) (v : Plot) : (s.setPlot k v).pmemAll = s.pmemAll := rfl
@[simp] theorem setPlot_library (k : PlotId) (v : Plot) : (s.setPlot k v).library = s.library := rfl
@[simp] theorem setPlot_loft (k : PlotId) (v : Plot) : (s.setPlot k v).loft = s.loft := rfl
@[simp] theorem setPlot_loftErr (k : PlotId) (v : Plot) : (s.setPlot k v).loftErr = s.loftErr := rfl
@[simp] theorem setPlot_scrubs (k : PlotId) (v : Plot) : (s.setPlot k v).scrubs = s.scrubs := rfl
@[simp] theorem setPlot_links (k : PlotId) (v : Plot) : (s.setPlot k v).links = s.links := rfl
@[simp] theorem setPlot_linkAll (k : PlotId) (v : Plot) : (s.setPlot k v).linkAll = s.linkAll := rfl
@[simp] theorem setPlot_linksOut (k : PlotId) (v : Plot) : (s.setPlot k v).linksOut = s.linksOut := rfl
@[simp] theorem setPlot_arb (k : PlotId) (v : Plot) : (s.setPlot k v).arb = s.arb := rfl
@[simp] theorem setPlot_hostReads (k : PlotId) (v : Plot) : (s.setPlot k v).hostReads = s.hostReads := rfl
@[simp] theorem setPlot_ni (k : PlotId) (v : Plot) : (s.setPlot k v).ni = s.ni := rfl
@[simp] theorem setPlot_niCell (k : PlotId) (v : Plot) : (s.setPlot k v).niCell = s.niCell := rfl
@[simp] theorem setPlot_hubs (k : PlotId) (v : Plot) : (s.setPlot k v).hubs = s.hubs := rfl
@[simp] theorem setPlot_niHub (k : PlotId) (v : Plot) : (s.setPlot k v).niHub = s.niHub := rfl
@[simp] theorem setPlot_wains (k : PlotId) (v : Plot) : (s.setPlot k v).wains = s.wains := rfl
@[simp] theorem setPlot_gstacks (k : PlotId) (v : Plot) : (s.setPlot k v).gstacks = s.gstacks := rfl
@[simp] theorem setPlot_granary (k : PlotId) (v : Plot) : (s.setPlot k v).granary = s.granary := rfl
@[simp] theorem setPlot_granErr (k : PlotId) (v : Plot) : (s.setPlot k v).granErr = s.granErr := rfl
@[simp] theorem setPlot_gmap (k : PlotId) (v : Plot) : (s.setPlot k v).gmap = s.gmap := rfl
@[simp] theorem setPlot_hingeCache (k : PlotId) (v : Plot) : (s.setPlot k v).hingeCache = s.hingeCache := rfl
@[simp] theorem setPlot_ports (k : PlotId) (v : Plot) : (s.setPlot k v).ports = s.ports := rfl
@[simp] theorem setPlot_map (k : PlotId) (v : Plot) : (s.setPlot k v).map = s.map := rfl
@[simp] theorem setPlot_epoch (k : PlotId) (v : Plot) : (s.setPlot k v).epoch = s.epoch := rfl
@[simp] theorem setPlot_ledger (k : PlotId) (v : Plot) : (s.setPlot k v).ledger = s.ledger := rfl
@[simp] theorem setPlot_ledgerLost (k : PlotId) (v : Plot) : (s.setPlot k v).ledgerLost = s.ledgerLost := rfl
@[simp] theorem setPlot_faultSeq (k : PlotId) (v : Plot) : (s.setPlot k v).faultSeq = s.faultSeq := rfl
@[simp] theorem setPlot_millsOut (k : PlotId) (v : Plot) : (s.setPlot k v).millsOut = s.millsOut := rfl
@[simp] theorem setPlot_darkOrder (k : PlotId) (v : Plot) : (s.setPlot k v).darkOrder = s.darkOrder := rfl
@[simp] theorem setPlot_darkSeen (k : PlotId) (v : Plot) : (s.setPlot k v).darkSeen = s.darkSeen := rfl
@[simp] theorem setPlot_residents (k : PlotId) (v : Plot) : (s.setPlot k v).residents = s.residents := rfl
@[simp] theorem setPlot_libver (k : PlotId) (v : Plot) : (s.setPlot k v).libver = s.libver := rfl
@[simp] theorem setPlot_mills (k : PlotId) (v : Plot) : (s.setPlot k v).mills = s.mills := rfl
@[simp] theorem setPlot_ranks (k : PlotId) (v : Plot) : (s.setPlot k v).ranks = s.ranks := rfl
@[simp] theorem setPlot_routes (k : PlotId) (v : Plot) : (s.setPlot k v).routes = s.routes := rfl
@[simp] theorem setPlot_rankWr (k : PlotId) (v : Plot) : (s.setPlot k v).rankWr = s.rankWr := rfl
@[simp] theorem setPlot_routeWr (k : PlotId) (v : Plot) : (s.setPlot k v).routeWr = s.routeWr := rfl
@[simp] theorem setPlot_badEnt (k : PlotId) (v : Plot) : (s.setPlot k v).badEnt = s.badEnt := rfl
@[simp] theorem setPlot_rankBusy (k : PlotId) (v : Plot) : (s.setPlot k v).rankBusy = s.rankBusy := rfl
@[simp] theorem setPlot_tally (k : PlotId) (v : Plot) : (s.setPlot k v).tally = s.tally := rfl
@[simp] theorem setPlot_dump (k : PlotId) (v : Plot) : (s.setPlot k v).dump = s.dump := rfl
@[simp] theorem setPlot_forced (k : PlotId) (v : Plot) : (s.setPlot k v).forced = s.forced := rfl
@[simp] theorem setPlot_licence (k : PlotId) (v : Plot) : (s.setPlot k v).licence = s.licence := rfl
@[simp] theorem setPlot_windows (k : PlotId) (v : Plot) : (s.setPlot k v).windows = s.windows := rfl
@[simp] theorem setPlot_hostMem (k : PlotId) (v : Plot) : (s.setPlot k v).hostMem = s.hostMem := rfl
@[simp] theorem setPlot_bridge (k : PlotId) (v : Plot) : (s.setPlot k v).bridge = s.bridge := rfl
@[simp] theorem setPlot_bridgeDrop (k : PlotId) (v : Plot) : (s.setPlot k v).bridgeDrop = s.bridgeDrop := rfl
@[simp] theorem setPlot_switchEnd (k : PlotId) (v : Plot) : (s.setPlot k v).switchEnd = s.switchEnd := rfl
@[simp] theorem setPlot_pageFaults (k : PlotId) (v : Plot) : (s.setPlot k v).pageFaults = s.pageFaults := rfl
@[simp] theorem setPlot_pageSeq (k : PlotId) (v : Plot) : (s.setPlot k v).pageSeq = s.pageSeq := rfl
@[simp] theorem setPlot_wafer (k : PlotId) (v : Plot) : (s.setPlot k v).wafer = s.wafer := rfl
@[simp] theorem setPlot_jobtag (k : PlotId) (v : Plot) : (s.setPlot k v).jobtag = s.jobtag := rfl
@[simp] theorem setPlot_jobLoaded (k : PlotId) (v : Plot) : (s.setPlot k v).jobLoaded = s.jobLoaded := rfl
@[simp] theorem setPlot_serial (k : PlotId) (v : Plot) : (s.setPlot k v).serial = s.serial := rfl
@[simp] theorem setPlot_steward (k : PlotId) (v : Plot) : (s.setPlot k v).steward = s.steward := rfl
@[simp] theorem setPlot_lastSeq (k : PlotId) (v : Plot) : (s.setPlot k v).lastSeq = s.lastSeq := rfl
@[simp] theorem setPlot_mail (k : PlotId) (v : Plot) : (s.setPlot k v).mail = s.mail := rfl
@[simp] theorem setPlot_running (k : PlotId) (v : Plot) : (s.setPlot k v).running = s.running := rfl
@[simp] theorem setPlot_restarting (k : PlotId) (v : Plot) : (s.setPlot k v).restarting = s.restarting := rfl
@[simp] theorem setPlot_plan (k : PlotId) (v : Plot) : (s.setPlot k v).plan = s.plan := rfl
@[simp] theorem setPlot_nextLoad (k : PlotId) (v : Plot) : (s.setPlot k v).nextLoad = s.nextLoad := rfl
@[simp] theorem setPlot_boot (k : PlotId) (v : Plot) : (s.setPlot k v).boot = s.boot := rfl
@[simp] theorem setPlot_fuseComp (k : PlotId) (v : Plot) : (s.setPlot k v).fuseComp = s.fuseComp := rfl
@[simp] theorem setPlot_fuseRtr (k : PlotId) (v : Plot) : (s.setPlot k v).fuseRtr = s.fuseRtr := rfl
@[simp] theorem setPlot_failComp (k : PlotId) (v : Plot) : (s.setPlot k v).failComp = s.failComp := rfl
@[simp] theorem setPlot_failRtr (k : PlotId) (v : Plot) : (s.setPlot k v).failRtr = s.failRtr := rfl
@[simp] theorem setPlot_failLink (k : PlotId) (v : Plot) : (s.setPlot k v).failLink = s.failLink := rfl
@[simp] theorem setPlot_tripped (k : PlotId) (v : Plot) : (s.setPlot k v).tripped = s.tripped := rfl
@[simp] theorem setPlot_flashMap (k : PlotId) (v : Plot) : (s.setPlot k v).flashMap = s.flashMap := rfl
@[simp] theorem setPlot_flashEpoch (k : PlotId) (v : Plot) : (s.setPlot k v).flashEpoch = s.flashEpoch := rfl
@[simp] theorem setPlot_dormant (k : PlotId) (v : Plot) : (s.setPlot k v).dormant = s.dormant := rfl
@[simp] theorem setPlot_clocks (k : PlotId) (v : Plot) : (s.setPlot k v).clocks = s.clocks := rfl
@[simp] theorem setPlot_power (k : PlotId) (v : Plot) : (s.setPlot k v).power = s.power := rfl
@[simp] theorem setPlot_fw (k : PlotId) (v : Plot) : (s.setPlot k v).fw = s.fw := rfl
@[simp] theorem setPlot_pins (k : PlotId) (v : Plot) : (s.setPlot k v).pins = s.pins := rfl
@[simp] theorem setPlot_regAcc (k : PlotId) (v : Plot) : (s.setPlot k v).regAcc = s.regAcc := rfl
@[simp] theorem setPlot_regOut (k : PlotId) (v : Plot) : (s.setPlot k v).regOut = s.regOut := rfl
@[simp] theorem setPlot_cell (k : PlotId) (v : Plot) (j : CellId) : (s.setPlot k v).cell j = s.cell j := rfl
@[simp] theorem setPlot_hub (k : PlotId) (v : Plot) (j : FieldNo) : (s.setPlot k v).hub j = s.hub j := rfl
@[simp] theorem setPlot_wain (k : PlotId) (v : Plot) (j : Nat) : (s.setPlot k v).wain j = s.wain j := rfl
@[simp] theorem setPlot_stack (k : PlotId) (v : Plot) (j : Nat) : (s.setPlot k v).stack j = s.stack j := rfl
@[simp] theorem setPlot_port (k : PlotId) (v : Plot) (j : PortNo) : (s.setPlot k v).port j = s.port j := rfl
@[simp] theorem setPlot_mill (k : PlotId) (v : Plot) (j : MillNo) : (s.setPlot k v).mill j = s.mill j := rfl

/-! ### setWain -/

theorem setWain_wain (k j : Nat) (v : Wain) :
    (s.setWain k v).wain j = if j = k then v else s.wain j := by
  unfold State.setWain State.wain
  exact get_set _ _ _ _ _

@[simp] theorem setWain_wain_same (k : Nat) (v : Wain) : (s.setWain k v).wain k = v := by simp [setWain_wain]

theorem setWain_wain_other {k j : Nat} (v : Wain) (h : j ≠ k) : (s.setWain k v).wain j = s.wain j := by
  simp [setWain_wain, h]

@[simp] theorem setWain_pending (k : Nat) (v : Wain) : (s.setWain k v).pending = s.pending := rfl
@[simp] theorem setWain_tick (k : Nat) (v : Wain) : (s.setWain k v).tick = s.tick := rfl
@[simp] theorem setWain_drawn (k : Nat) (v : Wain) : (s.setWain k v).drawn = s.drawn := rfl
@[simp] theorem setWain_tickHold (k : Nat) (v : Wain) : (s.setWain k v).tickHold = s.tickHold := rfl
@[simp] theorem setWain_slew (k : Nat) (v : Wain) : (s.setWain k v).slew = s.slew := rfl
@[simp] theorem setWain_slewPart (k : Nat) (v : Wain) : (s.setWain k v).slewPart = s.slewPart := rfl
@[simp] theorem setWain_net (k : Nat) (v : Wain) : (s.setWain k v).net = s.net := rfl
@[simp] theorem setWain_cells (k : Nat) (v : Wain) : (s.setWain k v).cells = s.cells := rfl
@[simp] theorem setWain_pmem (k : Nat) (v : Wain) : (s.setWain k v).pmem = s.pmem := rfl
@[simp] theorem setWain_pmemAll (k : Nat) (v : Wain) : (s.setWain k v).pmemAll = s.pmemAll := rfl
@[simp] theorem setWain_library (k : Nat) (v : Wain) : (s.setWain k v).library = s.library := rfl
@[simp] theorem setWain_loft (k : Nat) (v : Wain) : (s.setWain k v).loft = s.loft := rfl
@[simp] theorem setWain_loftErr (k : Nat) (v : Wain) : (s.setWain k v).loftErr = s.loftErr := rfl
@[simp] theorem setWain_scrubs (k : Nat) (v : Wain) : (s.setWain k v).scrubs = s.scrubs := rfl
@[simp] theorem setWain_links (k : Nat) (v : Wain) : (s.setWain k v).links = s.links := rfl
@[simp] theorem setWain_linkAll (k : Nat) (v : Wain) : (s.setWain k v).linkAll = s.linkAll := rfl
@[simp] theorem setWain_linksOut (k : Nat) (v : Wain) : (s.setWain k v).linksOut = s.linksOut := rfl
@[simp] theorem setWain_arb (k : Nat) (v : Wain) : (s.setWain k v).arb = s.arb := rfl
@[simp] theorem setWain_hostReads (k : Nat) (v : Wain) : (s.setWain k v).hostReads = s.hostReads := rfl
@[simp] theorem setWain_ni (k : Nat) (v : Wain) : (s.setWain k v).ni = s.ni := rfl
@[simp] theorem setWain_niCell (k : Nat) (v : Wain) : (s.setWain k v).niCell = s.niCell := rfl
@[simp] theorem setWain_hubs (k : Nat) (v : Wain) : (s.setWain k v).hubs = s.hubs := rfl
@[simp] theorem setWain_niHub (k : Nat) (v : Wain) : (s.setWain k v).niHub = s.niHub := rfl
@[simp] theorem setWain_gstacks (k : Nat) (v : Wain) : (s.setWain k v).gstacks = s.gstacks := rfl
@[simp] theorem setWain_granary (k : Nat) (v : Wain) : (s.setWain k v).granary = s.granary := rfl
@[simp] theorem setWain_granErr (k : Nat) (v : Wain) : (s.setWain k v).granErr = s.granErr := rfl
@[simp] theorem setWain_gmap (k : Nat) (v : Wain) : (s.setWain k v).gmap = s.gmap := rfl
@[simp] theorem setWain_hingeCache (k : Nat) (v : Wain) : (s.setWain k v).hingeCache = s.hingeCache := rfl
@[simp] theorem setWain_plots (k : Nat) (v : Wain) : (s.setWain k v).plots = s.plots := rfl
@[simp] theorem setWain_ports (k : Nat) (v : Wain) : (s.setWain k v).ports = s.ports := rfl
@[simp] theorem setWain_map (k : Nat) (v : Wain) : (s.setWain k v).map = s.map := rfl
@[simp] theorem setWain_epoch (k : Nat) (v : Wain) : (s.setWain k v).epoch = s.epoch := rfl
@[simp] theorem setWain_ledger (k : Nat) (v : Wain) : (s.setWain k v).ledger = s.ledger := rfl
@[simp] theorem setWain_ledgerLost (k : Nat) (v : Wain) : (s.setWain k v).ledgerLost = s.ledgerLost := rfl
@[simp] theorem setWain_faultSeq (k : Nat) (v : Wain) : (s.setWain k v).faultSeq = s.faultSeq := rfl
@[simp] theorem setWain_millsOut (k : Nat) (v : Wain) : (s.setWain k v).millsOut = s.millsOut := rfl
@[simp] theorem setWain_darkOrder (k : Nat) (v : Wain) : (s.setWain k v).darkOrder = s.darkOrder := rfl
@[simp] theorem setWain_darkSeen (k : Nat) (v : Wain) : (s.setWain k v).darkSeen = s.darkSeen := rfl
@[simp] theorem setWain_residents (k : Nat) (v : Wain) : (s.setWain k v).residents = s.residents := rfl
@[simp] theorem setWain_libver (k : Nat) (v : Wain) : (s.setWain k v).libver = s.libver := rfl
@[simp] theorem setWain_mills (k : Nat) (v : Wain) : (s.setWain k v).mills = s.mills := rfl
@[simp] theorem setWain_ranks (k : Nat) (v : Wain) : (s.setWain k v).ranks = s.ranks := rfl
@[simp] theorem setWain_routes (k : Nat) (v : Wain) : (s.setWain k v).routes = s.routes := rfl
@[simp] theorem setWain_rankWr (k : Nat) (v : Wain) : (s.setWain k v).rankWr = s.rankWr := rfl
@[simp] theorem setWain_routeWr (k : Nat) (v : Wain) : (s.setWain k v).routeWr = s.routeWr := rfl
@[simp] theorem setWain_badEnt (k : Nat) (v : Wain) : (s.setWain k v).badEnt = s.badEnt := rfl
@[simp] theorem setWain_rankBusy (k : Nat) (v : Wain) : (s.setWain k v).rankBusy = s.rankBusy := rfl
@[simp] theorem setWain_tally (k : Nat) (v : Wain) : (s.setWain k v).tally = s.tally := rfl
@[simp] theorem setWain_dump (k : Nat) (v : Wain) : (s.setWain k v).dump = s.dump := rfl
@[simp] theorem setWain_forced (k : Nat) (v : Wain) : (s.setWain k v).forced = s.forced := rfl
@[simp] theorem setWain_licence (k : Nat) (v : Wain) : (s.setWain k v).licence = s.licence := rfl
@[simp] theorem setWain_windows (k : Nat) (v : Wain) : (s.setWain k v).windows = s.windows := rfl
@[simp] theorem setWain_hostMem (k : Nat) (v : Wain) : (s.setWain k v).hostMem = s.hostMem := rfl
@[simp] theorem setWain_bridge (k : Nat) (v : Wain) : (s.setWain k v).bridge = s.bridge := rfl
@[simp] theorem setWain_bridgeDrop (k : Nat) (v : Wain) : (s.setWain k v).bridgeDrop = s.bridgeDrop := rfl
@[simp] theorem setWain_switchEnd (k : Nat) (v : Wain) : (s.setWain k v).switchEnd = s.switchEnd := rfl
@[simp] theorem setWain_pageFaults (k : Nat) (v : Wain) : (s.setWain k v).pageFaults = s.pageFaults := rfl
@[simp] theorem setWain_pageSeq (k : Nat) (v : Wain) : (s.setWain k v).pageSeq = s.pageSeq := rfl
@[simp] theorem setWain_wafer (k : Nat) (v : Wain) : (s.setWain k v).wafer = s.wafer := rfl
@[simp] theorem setWain_jobtag (k : Nat) (v : Wain) : (s.setWain k v).jobtag = s.jobtag := rfl
@[simp] theorem setWain_jobLoaded (k : Nat) (v : Wain) : (s.setWain k v).jobLoaded = s.jobLoaded := rfl
@[simp] theorem setWain_serial (k : Nat) (v : Wain) : (s.setWain k v).serial = s.serial := rfl
@[simp] theorem setWain_steward (k : Nat) (v : Wain) : (s.setWain k v).steward = s.steward := rfl
@[simp] theorem setWain_lastSeq (k : Nat) (v : Wain) : (s.setWain k v).lastSeq = s.lastSeq := rfl
@[simp] theorem setWain_mail (k : Nat) (v : Wain) : (s.setWain k v).mail = s.mail := rfl
@[simp] theorem setWain_running (k : Nat) (v : Wain) : (s.setWain k v).running = s.running := rfl
@[simp] theorem setWain_restarting (k : Nat) (v : Wain) : (s.setWain k v).restarting = s.restarting := rfl
@[simp] theorem setWain_plan (k : Nat) (v : Wain) : (s.setWain k v).plan = s.plan := rfl
@[simp] theorem setWain_nextLoad (k : Nat) (v : Wain) : (s.setWain k v).nextLoad = s.nextLoad := rfl
@[simp] theorem setWain_boot (k : Nat) (v : Wain) : (s.setWain k v).boot = s.boot := rfl
@[simp] theorem setWain_fuseComp (k : Nat) (v : Wain) : (s.setWain k v).fuseComp = s.fuseComp := rfl
@[simp] theorem setWain_fuseRtr (k : Nat) (v : Wain) : (s.setWain k v).fuseRtr = s.fuseRtr := rfl
@[simp] theorem setWain_failComp (k : Nat) (v : Wain) : (s.setWain k v).failComp = s.failComp := rfl
@[simp] theorem setWain_failRtr (k : Nat) (v : Wain) : (s.setWain k v).failRtr = s.failRtr := rfl
@[simp] theorem setWain_failLink (k : Nat) (v : Wain) : (s.setWain k v).failLink = s.failLink := rfl
@[simp] theorem setWain_tripped (k : Nat) (v : Wain) : (s.setWain k v).tripped = s.tripped := rfl
@[simp] theorem setWain_flashMap (k : Nat) (v : Wain) : (s.setWain k v).flashMap = s.flashMap := rfl
@[simp] theorem setWain_flashEpoch (k : Nat) (v : Wain) : (s.setWain k v).flashEpoch = s.flashEpoch := rfl
@[simp] theorem setWain_dormant (k : Nat) (v : Wain) : (s.setWain k v).dormant = s.dormant := rfl
@[simp] theorem setWain_clocks (k : Nat) (v : Wain) : (s.setWain k v).clocks = s.clocks := rfl
@[simp] theorem setWain_power (k : Nat) (v : Wain) : (s.setWain k v).power = s.power := rfl
@[simp] theorem setWain_fw (k : Nat) (v : Wain) : (s.setWain k v).fw = s.fw := rfl
@[simp] theorem setWain_pins (k : Nat) (v : Wain) : (s.setWain k v).pins = s.pins := rfl
@[simp] theorem setWain_regAcc (k : Nat) (v : Wain) : (s.setWain k v).regAcc = s.regAcc := rfl
@[simp] theorem setWain_regOut (k : Nat) (v : Wain) : (s.setWain k v).regOut = s.regOut := rfl
@[simp] theorem setWain_cell (k : Nat) (v : Wain) (j : CellId) : (s.setWain k v).cell j = s.cell j := rfl
@[simp] theorem setWain_hub (k : Nat) (v : Wain) (j : FieldNo) : (s.setWain k v).hub j = s.hub j := rfl
@[simp] theorem setWain_plot (k : Nat) (v : Wain) (j : PlotId) : (s.setWain k v).plot j = s.plot j := rfl
@[simp] theorem setWain_stack (k : Nat) (v : Wain) (j : Nat) : (s.setWain k v).stack j = s.stack j := rfl
@[simp] theorem setWain_port (k : Nat) (v : Wain) (j : PortNo) : (s.setWain k v).port j = s.port j := rfl
@[simp] theorem setWain_mill (k : Nat) (v : Wain) (j : MillNo) : (s.setWain k v).mill j = s.mill j := rfl

/-! ### setStack -/

theorem setStack_stack (k j : Nat) (v : Stack) :
    (s.setStack k v).stack j = if j = k then v else s.stack j := by
  unfold State.setStack State.stack
  exact get_set _ _ _ _ _

@[simp] theorem setStack_stack_same (k : Nat) (v : Stack) : (s.setStack k v).stack k = v := by simp [setStack_stack]

theorem setStack_stack_other {k j : Nat} (v : Stack) (h : j ≠ k) : (s.setStack k v).stack j = s.stack j := by
  simp [setStack_stack, h]

@[simp] theorem setStack_pending (k : Nat) (v : Stack) : (s.setStack k v).pending = s.pending := rfl
@[simp] theorem setStack_tick (k : Nat) (v : Stack) : (s.setStack k v).tick = s.tick := rfl
@[simp] theorem setStack_drawn (k : Nat) (v : Stack) : (s.setStack k v).drawn = s.drawn := rfl
@[simp] theorem setStack_tickHold (k : Nat) (v : Stack) : (s.setStack k v).tickHold = s.tickHold := rfl
@[simp] theorem setStack_slew (k : Nat) (v : Stack) : (s.setStack k v).slew = s.slew := rfl
@[simp] theorem setStack_slewPart (k : Nat) (v : Stack) : (s.setStack k v).slewPart = s.slewPart := rfl
@[simp] theorem setStack_net (k : Nat) (v : Stack) : (s.setStack k v).net = s.net := rfl
@[simp] theorem setStack_cells (k : Nat) (v : Stack) : (s.setStack k v).cells = s.cells := rfl
@[simp] theorem setStack_pmem (k : Nat) (v : Stack) : (s.setStack k v).pmem = s.pmem := rfl
@[simp] theorem setStack_pmemAll (k : Nat) (v : Stack) : (s.setStack k v).pmemAll = s.pmemAll := rfl
@[simp] theorem setStack_library (k : Nat) (v : Stack) : (s.setStack k v).library = s.library := rfl
@[simp] theorem setStack_loft (k : Nat) (v : Stack) : (s.setStack k v).loft = s.loft := rfl
@[simp] theorem setStack_loftErr (k : Nat) (v : Stack) : (s.setStack k v).loftErr = s.loftErr := rfl
@[simp] theorem setStack_scrubs (k : Nat) (v : Stack) : (s.setStack k v).scrubs = s.scrubs := rfl
@[simp] theorem setStack_links (k : Nat) (v : Stack) : (s.setStack k v).links = s.links := rfl
@[simp] theorem setStack_linkAll (k : Nat) (v : Stack) : (s.setStack k v).linkAll = s.linkAll := rfl
@[simp] theorem setStack_linksOut (k : Nat) (v : Stack) : (s.setStack k v).linksOut = s.linksOut := rfl
@[simp] theorem setStack_arb (k : Nat) (v : Stack) : (s.setStack k v).arb = s.arb := rfl
@[simp] theorem setStack_hostReads (k : Nat) (v : Stack) : (s.setStack k v).hostReads = s.hostReads := rfl
@[simp] theorem setStack_ni (k : Nat) (v : Stack) : (s.setStack k v).ni = s.ni := rfl
@[simp] theorem setStack_niCell (k : Nat) (v : Stack) : (s.setStack k v).niCell = s.niCell := rfl
@[simp] theorem setStack_hubs (k : Nat) (v : Stack) : (s.setStack k v).hubs = s.hubs := rfl
@[simp] theorem setStack_niHub (k : Nat) (v : Stack) : (s.setStack k v).niHub = s.niHub := rfl
@[simp] theorem setStack_wains (k : Nat) (v : Stack) : (s.setStack k v).wains = s.wains := rfl
@[simp] theorem setStack_granary (k : Nat) (v : Stack) : (s.setStack k v).granary = s.granary := rfl
@[simp] theorem setStack_granErr (k : Nat) (v : Stack) : (s.setStack k v).granErr = s.granErr := rfl
@[simp] theorem setStack_gmap (k : Nat) (v : Stack) : (s.setStack k v).gmap = s.gmap := rfl
@[simp] theorem setStack_hingeCache (k : Nat) (v : Stack) : (s.setStack k v).hingeCache = s.hingeCache := rfl
@[simp] theorem setStack_plots (k : Nat) (v : Stack) : (s.setStack k v).plots = s.plots := rfl
@[simp] theorem setStack_ports (k : Nat) (v : Stack) : (s.setStack k v).ports = s.ports := rfl
@[simp] theorem setStack_map (k : Nat) (v : Stack) : (s.setStack k v).map = s.map := rfl
@[simp] theorem setStack_epoch (k : Nat) (v : Stack) : (s.setStack k v).epoch = s.epoch := rfl
@[simp] theorem setStack_ledger (k : Nat) (v : Stack) : (s.setStack k v).ledger = s.ledger := rfl
@[simp] theorem setStack_ledgerLost (k : Nat) (v : Stack) : (s.setStack k v).ledgerLost = s.ledgerLost := rfl
@[simp] theorem setStack_faultSeq (k : Nat) (v : Stack) : (s.setStack k v).faultSeq = s.faultSeq := rfl
@[simp] theorem setStack_millsOut (k : Nat) (v : Stack) : (s.setStack k v).millsOut = s.millsOut := rfl
@[simp] theorem setStack_darkOrder (k : Nat) (v : Stack) : (s.setStack k v).darkOrder = s.darkOrder := rfl
@[simp] theorem setStack_darkSeen (k : Nat) (v : Stack) : (s.setStack k v).darkSeen = s.darkSeen := rfl
@[simp] theorem setStack_residents (k : Nat) (v : Stack) : (s.setStack k v).residents = s.residents := rfl
@[simp] theorem setStack_libver (k : Nat) (v : Stack) : (s.setStack k v).libver = s.libver := rfl
@[simp] theorem setStack_mills (k : Nat) (v : Stack) : (s.setStack k v).mills = s.mills := rfl
@[simp] theorem setStack_ranks (k : Nat) (v : Stack) : (s.setStack k v).ranks = s.ranks := rfl
@[simp] theorem setStack_routes (k : Nat) (v : Stack) : (s.setStack k v).routes = s.routes := rfl
@[simp] theorem setStack_rankWr (k : Nat) (v : Stack) : (s.setStack k v).rankWr = s.rankWr := rfl
@[simp] theorem setStack_routeWr (k : Nat) (v : Stack) : (s.setStack k v).routeWr = s.routeWr := rfl
@[simp] theorem setStack_badEnt (k : Nat) (v : Stack) : (s.setStack k v).badEnt = s.badEnt := rfl
@[simp] theorem setStack_rankBusy (k : Nat) (v : Stack) : (s.setStack k v).rankBusy = s.rankBusy := rfl
@[simp] theorem setStack_tally (k : Nat) (v : Stack) : (s.setStack k v).tally = s.tally := rfl
@[simp] theorem setStack_dump (k : Nat) (v : Stack) : (s.setStack k v).dump = s.dump := rfl
@[simp] theorem setStack_forced (k : Nat) (v : Stack) : (s.setStack k v).forced = s.forced := rfl
@[simp] theorem setStack_licence (k : Nat) (v : Stack) : (s.setStack k v).licence = s.licence := rfl
@[simp] theorem setStack_windows (k : Nat) (v : Stack) : (s.setStack k v).windows = s.windows := rfl
@[simp] theorem setStack_hostMem (k : Nat) (v : Stack) : (s.setStack k v).hostMem = s.hostMem := rfl
@[simp] theorem setStack_bridge (k : Nat) (v : Stack) : (s.setStack k v).bridge = s.bridge := rfl
@[simp] theorem setStack_bridgeDrop (k : Nat) (v : Stack) : (s.setStack k v).bridgeDrop = s.bridgeDrop := rfl
@[simp] theorem setStack_switchEnd (k : Nat) (v : Stack) : (s.setStack k v).switchEnd = s.switchEnd := rfl
@[simp] theorem setStack_pageFaults (k : Nat) (v : Stack) : (s.setStack k v).pageFaults = s.pageFaults := rfl
@[simp] theorem setStack_pageSeq (k : Nat) (v : Stack) : (s.setStack k v).pageSeq = s.pageSeq := rfl
@[simp] theorem setStack_wafer (k : Nat) (v : Stack) : (s.setStack k v).wafer = s.wafer := rfl
@[simp] theorem setStack_jobtag (k : Nat) (v : Stack) : (s.setStack k v).jobtag = s.jobtag := rfl
@[simp] theorem setStack_jobLoaded (k : Nat) (v : Stack) : (s.setStack k v).jobLoaded = s.jobLoaded := rfl
@[simp] theorem setStack_serial (k : Nat) (v : Stack) : (s.setStack k v).serial = s.serial := rfl
@[simp] theorem setStack_steward (k : Nat) (v : Stack) : (s.setStack k v).steward = s.steward := rfl
@[simp] theorem setStack_lastSeq (k : Nat) (v : Stack) : (s.setStack k v).lastSeq = s.lastSeq := rfl
@[simp] theorem setStack_mail (k : Nat) (v : Stack) : (s.setStack k v).mail = s.mail := rfl
@[simp] theorem setStack_running (k : Nat) (v : Stack) : (s.setStack k v).running = s.running := rfl
@[simp] theorem setStack_restarting (k : Nat) (v : Stack) : (s.setStack k v).restarting = s.restarting := rfl
@[simp] theorem setStack_plan (k : Nat) (v : Stack) : (s.setStack k v).plan = s.plan := rfl
@[simp] theorem setStack_nextLoad (k : Nat) (v : Stack) : (s.setStack k v).nextLoad = s.nextLoad := rfl
@[simp] theorem setStack_boot (k : Nat) (v : Stack) : (s.setStack k v).boot = s.boot := rfl
@[simp] theorem setStack_fuseComp (k : Nat) (v : Stack) : (s.setStack k v).fuseComp = s.fuseComp := rfl
@[simp] theorem setStack_fuseRtr (k : Nat) (v : Stack) : (s.setStack k v).fuseRtr = s.fuseRtr := rfl
@[simp] theorem setStack_failComp (k : Nat) (v : Stack) : (s.setStack k v).failComp = s.failComp := rfl
@[simp] theorem setStack_failRtr (k : Nat) (v : Stack) : (s.setStack k v).failRtr = s.failRtr := rfl
@[simp] theorem setStack_failLink (k : Nat) (v : Stack) : (s.setStack k v).failLink = s.failLink := rfl
@[simp] theorem setStack_tripped (k : Nat) (v : Stack) : (s.setStack k v).tripped = s.tripped := rfl
@[simp] theorem setStack_flashMap (k : Nat) (v : Stack) : (s.setStack k v).flashMap = s.flashMap := rfl
@[simp] theorem setStack_flashEpoch (k : Nat) (v : Stack) : (s.setStack k v).flashEpoch = s.flashEpoch := rfl
@[simp] theorem setStack_dormant (k : Nat) (v : Stack) : (s.setStack k v).dormant = s.dormant := rfl
@[simp] theorem setStack_clocks (k : Nat) (v : Stack) : (s.setStack k v).clocks = s.clocks := rfl
@[simp] theorem setStack_power (k : Nat) (v : Stack) : (s.setStack k v).power = s.power := rfl
@[simp] theorem setStack_fw (k : Nat) (v : Stack) : (s.setStack k v).fw = s.fw := rfl
@[simp] theorem setStack_pins (k : Nat) (v : Stack) : (s.setStack k v).pins = s.pins := rfl
@[simp] theorem setStack_regAcc (k : Nat) (v : Stack) : (s.setStack k v).regAcc = s.regAcc := rfl
@[simp] theorem setStack_regOut (k : Nat) (v : Stack) : (s.setStack k v).regOut = s.regOut := rfl
@[simp] theorem setStack_cell (k : Nat) (v : Stack) (j : CellId) : (s.setStack k v).cell j = s.cell j := rfl
@[simp] theorem setStack_hub (k : Nat) (v : Stack) (j : FieldNo) : (s.setStack k v).hub j = s.hub j := rfl
@[simp] theorem setStack_plot (k : Nat) (v : Stack) (j : PlotId) : (s.setStack k v).plot j = s.plot j := rfl
@[simp] theorem setStack_wain (k : Nat) (v : Stack) (j : Nat) : (s.setStack k v).wain j = s.wain j := rfl
@[simp] theorem setStack_port (k : Nat) (v : Stack) (j : PortNo) : (s.setStack k v).port j = s.port j := rfl
@[simp] theorem setStack_mill (k : Nat) (v : Stack) (j : MillNo) : (s.setStack k v).mill j = s.mill j := rfl

/-! ### setPort -/

theorem setPort_port (k j : PortNo) (v : Port) :
    (s.setPort k v).port j = if j = k then v else s.port j := by
  unfold State.setPort State.port
  simp only [get_set]
  by_cases h : j = k
  · simp [h]
  · have : j.toNat ≠ k.toNat := fun e => h (BitVec.eq_of_toNat_eq e)
    simp [h, this]

@[simp] theorem setPort_port_same (k : PortNo) (v : Port) : (s.setPort k v).port k = v := by simp [setPort_port]

theorem setPort_port_other {k j : PortNo} (v : Port) (h : j ≠ k) : (s.setPort k v).port j = s.port j := by
  simp [setPort_port, h]

@[simp] theorem setPort_pending (k : PortNo) (v : Port) : (s.setPort k v).pending = s.pending := rfl
@[simp] theorem setPort_tick (k : PortNo) (v : Port) : (s.setPort k v).tick = s.tick := rfl
@[simp] theorem setPort_drawn (k : PortNo) (v : Port) : (s.setPort k v).drawn = s.drawn := rfl
@[simp] theorem setPort_tickHold (k : PortNo) (v : Port) : (s.setPort k v).tickHold = s.tickHold := rfl
@[simp] theorem setPort_slew (k : PortNo) (v : Port) : (s.setPort k v).slew = s.slew := rfl
@[simp] theorem setPort_slewPart (k : PortNo) (v : Port) : (s.setPort k v).slewPart = s.slewPart := rfl
@[simp] theorem setPort_net (k : PortNo) (v : Port) : (s.setPort k v).net = s.net := rfl
@[simp] theorem setPort_cells (k : PortNo) (v : Port) : (s.setPort k v).cells = s.cells := rfl
@[simp] theorem setPort_pmem (k : PortNo) (v : Port) : (s.setPort k v).pmem = s.pmem := rfl
@[simp] theorem setPort_pmemAll (k : PortNo) (v : Port) : (s.setPort k v).pmemAll = s.pmemAll := rfl
@[simp] theorem setPort_library (k : PortNo) (v : Port) : (s.setPort k v).library = s.library := rfl
@[simp] theorem setPort_loft (k : PortNo) (v : Port) : (s.setPort k v).loft = s.loft := rfl
@[simp] theorem setPort_loftErr (k : PortNo) (v : Port) : (s.setPort k v).loftErr = s.loftErr := rfl
@[simp] theorem setPort_scrubs (k : PortNo) (v : Port) : (s.setPort k v).scrubs = s.scrubs := rfl
@[simp] theorem setPort_links (k : PortNo) (v : Port) : (s.setPort k v).links = s.links := rfl
@[simp] theorem setPort_linkAll (k : PortNo) (v : Port) : (s.setPort k v).linkAll = s.linkAll := rfl
@[simp] theorem setPort_linksOut (k : PortNo) (v : Port) : (s.setPort k v).linksOut = s.linksOut := rfl
@[simp] theorem setPort_arb (k : PortNo) (v : Port) : (s.setPort k v).arb = s.arb := rfl
@[simp] theorem setPort_hostReads (k : PortNo) (v : Port) : (s.setPort k v).hostReads = s.hostReads := rfl
@[simp] theorem setPort_ni (k : PortNo) (v : Port) : (s.setPort k v).ni = s.ni := rfl
@[simp] theorem setPort_niCell (k : PortNo) (v : Port) : (s.setPort k v).niCell = s.niCell := rfl
@[simp] theorem setPort_hubs (k : PortNo) (v : Port) : (s.setPort k v).hubs = s.hubs := rfl
@[simp] theorem setPort_niHub (k : PortNo) (v : Port) : (s.setPort k v).niHub = s.niHub := rfl
@[simp] theorem setPort_wains (k : PortNo) (v : Port) : (s.setPort k v).wains = s.wains := rfl
@[simp] theorem setPort_gstacks (k : PortNo) (v : Port) : (s.setPort k v).gstacks = s.gstacks := rfl
@[simp] theorem setPort_granary (k : PortNo) (v : Port) : (s.setPort k v).granary = s.granary := rfl
@[simp] theorem setPort_granErr (k : PortNo) (v : Port) : (s.setPort k v).granErr = s.granErr := rfl
@[simp] theorem setPort_gmap (k : PortNo) (v : Port) : (s.setPort k v).gmap = s.gmap := rfl
@[simp] theorem setPort_hingeCache (k : PortNo) (v : Port) : (s.setPort k v).hingeCache = s.hingeCache := rfl
@[simp] theorem setPort_plots (k : PortNo) (v : Port) : (s.setPort k v).plots = s.plots := rfl
@[simp] theorem setPort_map (k : PortNo) (v : Port) : (s.setPort k v).map = s.map := rfl
@[simp] theorem setPort_epoch (k : PortNo) (v : Port) : (s.setPort k v).epoch = s.epoch := rfl
@[simp] theorem setPort_ledger (k : PortNo) (v : Port) : (s.setPort k v).ledger = s.ledger := rfl
@[simp] theorem setPort_ledgerLost (k : PortNo) (v : Port) : (s.setPort k v).ledgerLost = s.ledgerLost := rfl
@[simp] theorem setPort_faultSeq (k : PortNo) (v : Port) : (s.setPort k v).faultSeq = s.faultSeq := rfl
@[simp] theorem setPort_millsOut (k : PortNo) (v : Port) : (s.setPort k v).millsOut = s.millsOut := rfl
@[simp] theorem setPort_darkOrder (k : PortNo) (v : Port) : (s.setPort k v).darkOrder = s.darkOrder := rfl
@[simp] theorem setPort_darkSeen (k : PortNo) (v : Port) : (s.setPort k v).darkSeen = s.darkSeen := rfl
@[simp] theorem setPort_residents (k : PortNo) (v : Port) : (s.setPort k v).residents = s.residents := rfl
@[simp] theorem setPort_libver (k : PortNo) (v : Port) : (s.setPort k v).libver = s.libver := rfl
@[simp] theorem setPort_mills (k : PortNo) (v : Port) : (s.setPort k v).mills = s.mills := rfl
@[simp] theorem setPort_ranks (k : PortNo) (v : Port) : (s.setPort k v).ranks = s.ranks := rfl
@[simp] theorem setPort_routes (k : PortNo) (v : Port) : (s.setPort k v).routes = s.routes := rfl
@[simp] theorem setPort_rankWr (k : PortNo) (v : Port) : (s.setPort k v).rankWr = s.rankWr := rfl
@[simp] theorem setPort_routeWr (k : PortNo) (v : Port) : (s.setPort k v).routeWr = s.routeWr := rfl
@[simp] theorem setPort_badEnt (k : PortNo) (v : Port) : (s.setPort k v).badEnt = s.badEnt := rfl
@[simp] theorem setPort_rankBusy (k : PortNo) (v : Port) : (s.setPort k v).rankBusy = s.rankBusy := rfl
@[simp] theorem setPort_tally (k : PortNo) (v : Port) : (s.setPort k v).tally = s.tally := rfl
@[simp] theorem setPort_dump (k : PortNo) (v : Port) : (s.setPort k v).dump = s.dump := rfl
@[simp] theorem setPort_forced (k : PortNo) (v : Port) : (s.setPort k v).forced = s.forced := rfl
@[simp] theorem setPort_licence (k : PortNo) (v : Port) : (s.setPort k v).licence = s.licence := rfl
@[simp] theorem setPort_windows (k : PortNo) (v : Port) : (s.setPort k v).windows = s.windows := rfl
@[simp] theorem setPort_hostMem (k : PortNo) (v : Port) : (s.setPort k v).hostMem = s.hostMem := rfl
@[simp] theorem setPort_bridge (k : PortNo) (v : Port) : (s.setPort k v).bridge = s.bridge := rfl
@[simp] theorem setPort_bridgeDrop (k : PortNo) (v : Port) : (s.setPort k v).bridgeDrop = s.bridgeDrop := rfl
@[simp] theorem setPort_switchEnd (k : PortNo) (v : Port) : (s.setPort k v).switchEnd = s.switchEnd := rfl
@[simp] theorem setPort_pageFaults (k : PortNo) (v : Port) : (s.setPort k v).pageFaults = s.pageFaults := rfl
@[simp] theorem setPort_pageSeq (k : PortNo) (v : Port) : (s.setPort k v).pageSeq = s.pageSeq := rfl
@[simp] theorem setPort_wafer (k : PortNo) (v : Port) : (s.setPort k v).wafer = s.wafer := rfl
@[simp] theorem setPort_jobtag (k : PortNo) (v : Port) : (s.setPort k v).jobtag = s.jobtag := rfl
@[simp] theorem setPort_jobLoaded (k : PortNo) (v : Port) : (s.setPort k v).jobLoaded = s.jobLoaded := rfl
@[simp] theorem setPort_serial (k : PortNo) (v : Port) : (s.setPort k v).serial = s.serial := rfl
@[simp] theorem setPort_steward (k : PortNo) (v : Port) : (s.setPort k v).steward = s.steward := rfl
@[simp] theorem setPort_lastSeq (k : PortNo) (v : Port) : (s.setPort k v).lastSeq = s.lastSeq := rfl
@[simp] theorem setPort_mail (k : PortNo) (v : Port) : (s.setPort k v).mail = s.mail := rfl
@[simp] theorem setPort_running (k : PortNo) (v : Port) : (s.setPort k v).running = s.running := rfl
@[simp] theorem setPort_restarting (k : PortNo) (v : Port) : (s.setPort k v).restarting = s.restarting := rfl
@[simp] theorem setPort_plan (k : PortNo) (v : Port) : (s.setPort k v).plan = s.plan := rfl
@[simp] theorem setPort_nextLoad (k : PortNo) (v : Port) : (s.setPort k v).nextLoad = s.nextLoad := rfl
@[simp] theorem setPort_boot (k : PortNo) (v : Port) : (s.setPort k v).boot = s.boot := rfl
@[simp] theorem setPort_fuseComp (k : PortNo) (v : Port) : (s.setPort k v).fuseComp = s.fuseComp := rfl
@[simp] theorem setPort_fuseRtr (k : PortNo) (v : Port) : (s.setPort k v).fuseRtr = s.fuseRtr := rfl
@[simp] theorem setPort_failComp (k : PortNo) (v : Port) : (s.setPort k v).failComp = s.failComp := rfl
@[simp] theorem setPort_failRtr (k : PortNo) (v : Port) : (s.setPort k v).failRtr = s.failRtr := rfl
@[simp] theorem setPort_failLink (k : PortNo) (v : Port) : (s.setPort k v).failLink = s.failLink := rfl
@[simp] theorem setPort_tripped (k : PortNo) (v : Port) : (s.setPort k v).tripped = s.tripped := rfl
@[simp] theorem setPort_flashMap (k : PortNo) (v : Port) : (s.setPort k v).flashMap = s.flashMap := rfl
@[simp] theorem setPort_flashEpoch (k : PortNo) (v : Port) : (s.setPort k v).flashEpoch = s.flashEpoch := rfl
@[simp] theorem setPort_dormant (k : PortNo) (v : Port) : (s.setPort k v).dormant = s.dormant := rfl
@[simp] theorem setPort_clocks (k : PortNo) (v : Port) : (s.setPort k v).clocks = s.clocks := rfl
@[simp] theorem setPort_power (k : PortNo) (v : Port) : (s.setPort k v).power = s.power := rfl
@[simp] theorem setPort_fw (k : PortNo) (v : Port) : (s.setPort k v).fw = s.fw := rfl
@[simp] theorem setPort_pins (k : PortNo) (v : Port) : (s.setPort k v).pins = s.pins := rfl
@[simp] theorem setPort_regAcc (k : PortNo) (v : Port) : (s.setPort k v).regAcc = s.regAcc := rfl
@[simp] theorem setPort_regOut (k : PortNo) (v : Port) : (s.setPort k v).regOut = s.regOut := rfl
@[simp] theorem setPort_cell (k : PortNo) (v : Port) (j : CellId) : (s.setPort k v).cell j = s.cell j := rfl
@[simp] theorem setPort_hub (k : PortNo) (v : Port) (j : FieldNo) : (s.setPort k v).hub j = s.hub j := rfl
@[simp] theorem setPort_plot (k : PortNo) (v : Port) (j : PlotId) : (s.setPort k v).plot j = s.plot j := rfl
@[simp] theorem setPort_wain (k : PortNo) (v : Port) (j : Nat) : (s.setPort k v).wain j = s.wain j := rfl
@[simp] theorem setPort_stack (k : PortNo) (v : Port) (j : Nat) : (s.setPort k v).stack j = s.stack j := rfl
@[simp] theorem setPort_mill (k : PortNo) (v : Port) (j : MillNo) : (s.setPort k v).mill j = s.mill j := rfl

/-! ### setMill -/

theorem setMill_mill (k j : MillNo) (v : Mill) :
    (s.setMill k v).mill j = if j = k then v else s.mill j := by
  unfold State.setMill State.mill
  simp only [get_set]
  by_cases h : j = k
  · simp [h]
  · have : j.toNat ≠ k.toNat := fun e => h (BitVec.eq_of_toNat_eq e)
    simp [h, this]

@[simp] theorem setMill_mill_same (k : MillNo) (v : Mill) : (s.setMill k v).mill k = v := by simp [setMill_mill]

theorem setMill_mill_other {k j : MillNo} (v : Mill) (h : j ≠ k) : (s.setMill k v).mill j = s.mill j := by
  simp [setMill_mill, h]

@[simp] theorem setMill_pending (k : MillNo) (v : Mill) : (s.setMill k v).pending = s.pending := rfl
@[simp] theorem setMill_tick (k : MillNo) (v : Mill) : (s.setMill k v).tick = s.tick := rfl
@[simp] theorem setMill_drawn (k : MillNo) (v : Mill) : (s.setMill k v).drawn = s.drawn := rfl
@[simp] theorem setMill_tickHold (k : MillNo) (v : Mill) : (s.setMill k v).tickHold = s.tickHold := rfl
@[simp] theorem setMill_slew (k : MillNo) (v : Mill) : (s.setMill k v).slew = s.slew := rfl
@[simp] theorem setMill_slewPart (k : MillNo) (v : Mill) : (s.setMill k v).slewPart = s.slewPart := rfl
@[simp] theorem setMill_net (k : MillNo) (v : Mill) : (s.setMill k v).net = s.net := rfl
@[simp] theorem setMill_cells (k : MillNo) (v : Mill) : (s.setMill k v).cells = s.cells := rfl
@[simp] theorem setMill_pmem (k : MillNo) (v : Mill) : (s.setMill k v).pmem = s.pmem := rfl
@[simp] theorem setMill_pmemAll (k : MillNo) (v : Mill) : (s.setMill k v).pmemAll = s.pmemAll := rfl
@[simp] theorem setMill_library (k : MillNo) (v : Mill) : (s.setMill k v).library = s.library := rfl
@[simp] theorem setMill_loft (k : MillNo) (v : Mill) : (s.setMill k v).loft = s.loft := rfl
@[simp] theorem setMill_loftErr (k : MillNo) (v : Mill) : (s.setMill k v).loftErr = s.loftErr := rfl
@[simp] theorem setMill_scrubs (k : MillNo) (v : Mill) : (s.setMill k v).scrubs = s.scrubs := rfl
@[simp] theorem setMill_links (k : MillNo) (v : Mill) : (s.setMill k v).links = s.links := rfl
@[simp] theorem setMill_linkAll (k : MillNo) (v : Mill) : (s.setMill k v).linkAll = s.linkAll := rfl
@[simp] theorem setMill_linksOut (k : MillNo) (v : Mill) : (s.setMill k v).linksOut = s.linksOut := rfl
@[simp] theorem setMill_arb (k : MillNo) (v : Mill) : (s.setMill k v).arb = s.arb := rfl
@[simp] theorem setMill_hostReads (k : MillNo) (v : Mill) : (s.setMill k v).hostReads = s.hostReads := rfl
@[simp] theorem setMill_ni (k : MillNo) (v : Mill) : (s.setMill k v).ni = s.ni := rfl
@[simp] theorem setMill_niCell (k : MillNo) (v : Mill) : (s.setMill k v).niCell = s.niCell := rfl
@[simp] theorem setMill_hubs (k : MillNo) (v : Mill) : (s.setMill k v).hubs = s.hubs := rfl
@[simp] theorem setMill_niHub (k : MillNo) (v : Mill) : (s.setMill k v).niHub = s.niHub := rfl
@[simp] theorem setMill_wains (k : MillNo) (v : Mill) : (s.setMill k v).wains = s.wains := rfl
@[simp] theorem setMill_gstacks (k : MillNo) (v : Mill) : (s.setMill k v).gstacks = s.gstacks := rfl
@[simp] theorem setMill_granary (k : MillNo) (v : Mill) : (s.setMill k v).granary = s.granary := rfl
@[simp] theorem setMill_granErr (k : MillNo) (v : Mill) : (s.setMill k v).granErr = s.granErr := rfl
@[simp] theorem setMill_gmap (k : MillNo) (v : Mill) : (s.setMill k v).gmap = s.gmap := rfl
@[simp] theorem setMill_hingeCache (k : MillNo) (v : Mill) : (s.setMill k v).hingeCache = s.hingeCache := rfl
@[simp] theorem setMill_plots (k : MillNo) (v : Mill) : (s.setMill k v).plots = s.plots := rfl
@[simp] theorem setMill_ports (k : MillNo) (v : Mill) : (s.setMill k v).ports = s.ports := rfl
@[simp] theorem setMill_map (k : MillNo) (v : Mill) : (s.setMill k v).map = s.map := rfl
@[simp] theorem setMill_epoch (k : MillNo) (v : Mill) : (s.setMill k v).epoch = s.epoch := rfl
@[simp] theorem setMill_ledger (k : MillNo) (v : Mill) : (s.setMill k v).ledger = s.ledger := rfl
@[simp] theorem setMill_ledgerLost (k : MillNo) (v : Mill) : (s.setMill k v).ledgerLost = s.ledgerLost := rfl
@[simp] theorem setMill_faultSeq (k : MillNo) (v : Mill) : (s.setMill k v).faultSeq = s.faultSeq := rfl
@[simp] theorem setMill_millsOut (k : MillNo) (v : Mill) : (s.setMill k v).millsOut = s.millsOut := rfl
@[simp] theorem setMill_darkOrder (k : MillNo) (v : Mill) : (s.setMill k v).darkOrder = s.darkOrder := rfl
@[simp] theorem setMill_darkSeen (k : MillNo) (v : Mill) : (s.setMill k v).darkSeen = s.darkSeen := rfl
@[simp] theorem setMill_residents (k : MillNo) (v : Mill) : (s.setMill k v).residents = s.residents := rfl
@[simp] theorem setMill_libver (k : MillNo) (v : Mill) : (s.setMill k v).libver = s.libver := rfl
@[simp] theorem setMill_ranks (k : MillNo) (v : Mill) : (s.setMill k v).ranks = s.ranks := rfl
@[simp] theorem setMill_routes (k : MillNo) (v : Mill) : (s.setMill k v).routes = s.routes := rfl
@[simp] theorem setMill_rankWr (k : MillNo) (v : Mill) : (s.setMill k v).rankWr = s.rankWr := rfl
@[simp] theorem setMill_routeWr (k : MillNo) (v : Mill) : (s.setMill k v).routeWr = s.routeWr := rfl
@[simp] theorem setMill_badEnt (k : MillNo) (v : Mill) : (s.setMill k v).badEnt = s.badEnt := rfl
@[simp] theorem setMill_rankBusy (k : MillNo) (v : Mill) : (s.setMill k v).rankBusy = s.rankBusy := rfl
@[simp] theorem setMill_tally (k : MillNo) (v : Mill) : (s.setMill k v).tally = s.tally := rfl
@[simp] theorem setMill_dump (k : MillNo) (v : Mill) : (s.setMill k v).dump = s.dump := rfl
@[simp] theorem setMill_forced (k : MillNo) (v : Mill) : (s.setMill k v).forced = s.forced := rfl
@[simp] theorem setMill_licence (k : MillNo) (v : Mill) : (s.setMill k v).licence = s.licence := rfl
@[simp] theorem setMill_windows (k : MillNo) (v : Mill) : (s.setMill k v).windows = s.windows := rfl
@[simp] theorem setMill_hostMem (k : MillNo) (v : Mill) : (s.setMill k v).hostMem = s.hostMem := rfl
@[simp] theorem setMill_bridge (k : MillNo) (v : Mill) : (s.setMill k v).bridge = s.bridge := rfl
@[simp] theorem setMill_bridgeDrop (k : MillNo) (v : Mill) : (s.setMill k v).bridgeDrop = s.bridgeDrop := rfl
@[simp] theorem setMill_switchEnd (k : MillNo) (v : Mill) : (s.setMill k v).switchEnd = s.switchEnd := rfl
@[simp] theorem setMill_pageFaults (k : MillNo) (v : Mill) : (s.setMill k v).pageFaults = s.pageFaults := rfl
@[simp] theorem setMill_pageSeq (k : MillNo) (v : Mill) : (s.setMill k v).pageSeq = s.pageSeq := rfl
@[simp] theorem setMill_wafer (k : MillNo) (v : Mill) : (s.setMill k v).wafer = s.wafer := rfl
@[simp] theorem setMill_jobtag (k : MillNo) (v : Mill) : (s.setMill k v).jobtag = s.jobtag := rfl
@[simp] theorem setMill_jobLoaded (k : MillNo) (v : Mill) : (s.setMill k v).jobLoaded = s.jobLoaded := rfl
@[simp] theorem setMill_serial (k : MillNo) (v : Mill) : (s.setMill k v).serial = s.serial := rfl
@[simp] theorem setMill_steward (k : MillNo) (v : Mill) : (s.setMill k v).steward = s.steward := rfl
@[simp] theorem setMill_lastSeq (k : MillNo) (v : Mill) : (s.setMill k v).lastSeq = s.lastSeq := rfl
@[simp] theorem setMill_mail (k : MillNo) (v : Mill) : (s.setMill k v).mail = s.mail := rfl
@[simp] theorem setMill_running (k : MillNo) (v : Mill) : (s.setMill k v).running = s.running := rfl
@[simp] theorem setMill_restarting (k : MillNo) (v : Mill) : (s.setMill k v).restarting = s.restarting := rfl
@[simp] theorem setMill_plan (k : MillNo) (v : Mill) : (s.setMill k v).plan = s.plan := rfl
@[simp] theorem setMill_nextLoad (k : MillNo) (v : Mill) : (s.setMill k v).nextLoad = s.nextLoad := rfl
@[simp] theorem setMill_boot (k : MillNo) (v : Mill) : (s.setMill k v).boot = s.boot := rfl
@[simp] theorem setMill_fuseComp (k : MillNo) (v : Mill) : (s.setMill k v).fuseComp = s.fuseComp := rfl
@[simp] theorem setMill_fuseRtr (k : MillNo) (v : Mill) : (s.setMill k v).fuseRtr = s.fuseRtr := rfl
@[simp] theorem setMill_failComp (k : MillNo) (v : Mill) : (s.setMill k v).failComp = s.failComp := rfl
@[simp] theorem setMill_failRtr (k : MillNo) (v : Mill) : (s.setMill k v).failRtr = s.failRtr := rfl
@[simp] theorem setMill_failLink (k : MillNo) (v : Mill) : (s.setMill k v).failLink = s.failLink := rfl
@[simp] theorem setMill_tripped (k : MillNo) (v : Mill) : (s.setMill k v).tripped = s.tripped := rfl
@[simp] theorem setMill_flashMap (k : MillNo) (v : Mill) : (s.setMill k v).flashMap = s.flashMap := rfl
@[simp] theorem setMill_flashEpoch (k : MillNo) (v : Mill) : (s.setMill k v).flashEpoch = s.flashEpoch := rfl
@[simp] theorem setMill_dormant (k : MillNo) (v : Mill) : (s.setMill k v).dormant = s.dormant := rfl
@[simp] theorem setMill_clocks (k : MillNo) (v : Mill) : (s.setMill k v).clocks = s.clocks := rfl
@[simp] theorem setMill_power (k : MillNo) (v : Mill) : (s.setMill k v).power = s.power := rfl
@[simp] theorem setMill_fw (k : MillNo) (v : Mill) : (s.setMill k v).fw = s.fw := rfl
@[simp] theorem setMill_pins (k : MillNo) (v : Mill) : (s.setMill k v).pins = s.pins := rfl
@[simp] theorem setMill_regAcc (k : MillNo) (v : Mill) : (s.setMill k v).regAcc = s.regAcc := rfl
@[simp] theorem setMill_regOut (k : MillNo) (v : Mill) : (s.setMill k v).regOut = s.regOut := rfl
@[simp] theorem setMill_cell (k : MillNo) (v : Mill) (j : CellId) : (s.setMill k v).cell j = s.cell j := rfl
@[simp] theorem setMill_hub (k : MillNo) (v : Mill) (j : FieldNo) : (s.setMill k v).hub j = s.hub j := rfl
@[simp] theorem setMill_plot (k : MillNo) (v : Mill) (j : PlotId) : (s.setMill k v).plot j = s.plot j := rfl
@[simp] theorem setMill_wain (k : MillNo) (v : Mill) (j : Nat) : (s.setMill k v).wain j = s.wain j := rfl
@[simp] theorem setMill_stack (k : MillNo) (v : Mill) (j : Nat) : (s.setMill k v).stack j = s.stack j := rfl
@[simp] theorem setMill_port (k : MillNo) (v : Mill) (j : PortNo) : (s.setMill k v).port j = s.port j := rfl

theorem modCell_eq (k : CellId) (g : Cell → Cell) : s.modCell k g = s.setCell k (g (s.cell k)) := rfl
theorem modHub_eq (k : FieldNo) (g : Hub → Hub) : s.modHub k g = s.setHub k (g (s.hub k)) := rfl
theorem modPlot_eq (k : PlotId) (g : Plot → Plot) : s.modPlot k g = s.setPlot k (g (s.plot k)) := rfl
theorem modWain_eq (k : Nat) (g : Wain → Wain) : s.modWain k g = s.setWain k (g (s.wain k)) := rfl
theorem modPort_eq (k : PortNo) (g : Port → Port) : s.modPort k g = s.setPort k (g (s.port k)) := rfl
theorem modMill_eq (k : MillNo) (g : Mill → Mill) : s.modMill k g = s.setMill k (g (s.mill k)) := rfl

/-! ### count and send -/

@[simp] theorem count_pending (k n : Nat) : (s.count k n).pending = s.pending := rfl
@[simp] theorem count_tick (k n : Nat) : (s.count k n).tick = s.tick := rfl
@[simp] theorem count_drawn (k n : Nat) : (s.count k n).drawn = s.drawn := rfl
@[simp] theorem count_tickHold (k n : Nat) : (s.count k n).tickHold = s.tickHold := rfl
@[simp] theorem count_slew (k n : Nat) : (s.count k n).slew = s.slew := rfl
@[simp] theorem count_slewPart (k n : Nat) : (s.count k n).slewPart = s.slewPart := rfl
@[simp] theorem count_net (k n : Nat) : (s.count k n).net = s.net := rfl
@[simp] theorem count_cells (k n : Nat) : (s.count k n).cells = s.cells := rfl
@[simp] theorem count_pmem (k n : Nat) : (s.count k n).pmem = s.pmem := rfl
@[simp] theorem count_pmemAll (k n : Nat) : (s.count k n).pmemAll = s.pmemAll := rfl
@[simp] theorem count_library (k n : Nat) : (s.count k n).library = s.library := rfl
@[simp] theorem count_loft (k n : Nat) : (s.count k n).loft = s.loft := rfl
@[simp] theorem count_loftErr (k n : Nat) : (s.count k n).loftErr = s.loftErr := rfl
@[simp] theorem count_scrubs (k n : Nat) : (s.count k n).scrubs = s.scrubs := rfl
@[simp] theorem count_links (k n : Nat) : (s.count k n).links = s.links := rfl
@[simp] theorem count_linkAll (k n : Nat) : (s.count k n).linkAll = s.linkAll := rfl
@[simp] theorem count_linksOut (k n : Nat) : (s.count k n).linksOut = s.linksOut := rfl
@[simp] theorem count_arb (k n : Nat) : (s.count k n).arb = s.arb := rfl
@[simp] theorem count_hostReads (k n : Nat) : (s.count k n).hostReads = s.hostReads := rfl
@[simp] theorem count_ni (k n : Nat) : (s.count k n).ni = s.ni := rfl
@[simp] theorem count_niCell (k n : Nat) : (s.count k n).niCell = s.niCell := rfl
@[simp] theorem count_hubs (k n : Nat) : (s.count k n).hubs = s.hubs := rfl
@[simp] theorem count_niHub (k n : Nat) : (s.count k n).niHub = s.niHub := rfl
@[simp] theorem count_wains (k n : Nat) : (s.count k n).wains = s.wains := rfl
@[simp] theorem count_gstacks (k n : Nat) : (s.count k n).gstacks = s.gstacks := rfl
@[simp] theorem count_granary (k n : Nat) : (s.count k n).granary = s.granary := rfl
@[simp] theorem count_granErr (k n : Nat) : (s.count k n).granErr = s.granErr := rfl
@[simp] theorem count_gmap (k n : Nat) : (s.count k n).gmap = s.gmap := rfl
@[simp] theorem count_hingeCache (k n : Nat) : (s.count k n).hingeCache = s.hingeCache := rfl
@[simp] theorem count_plots (k n : Nat) : (s.count k n).plots = s.plots := rfl
@[simp] theorem count_ports (k n : Nat) : (s.count k n).ports = s.ports := rfl
@[simp] theorem count_map (k n : Nat) : (s.count k n).map = s.map := rfl
@[simp] theorem count_epoch (k n : Nat) : (s.count k n).epoch = s.epoch := rfl
@[simp] theorem count_ledger (k n : Nat) : (s.count k n).ledger = s.ledger := rfl
@[simp] theorem count_ledgerLost (k n : Nat) : (s.count k n).ledgerLost = s.ledgerLost := rfl
@[simp] theorem count_faultSeq (k n : Nat) : (s.count k n).faultSeq = s.faultSeq := rfl
@[simp] theorem count_millsOut (k n : Nat) : (s.count k n).millsOut = s.millsOut := rfl
@[simp] theorem count_darkOrder (k n : Nat) : (s.count k n).darkOrder = s.darkOrder := rfl
@[simp] theorem count_darkSeen (k n : Nat) : (s.count k n).darkSeen = s.darkSeen := rfl
@[simp] theorem count_residents (k n : Nat) : (s.count k n).residents = s.residents := rfl
@[simp] theorem count_libver (k n : Nat) : (s.count k n).libver = s.libver := rfl
@[simp] theorem count_mills (k n : Nat) : (s.count k n).mills = s.mills := rfl
@[simp] theorem count_ranks (k n : Nat) : (s.count k n).ranks = s.ranks := rfl
@[simp] theorem count_routes (k n : Nat) : (s.count k n).routes = s.routes := rfl
@[simp] theorem count_rankWr (k n : Nat) : (s.count k n).rankWr = s.rankWr := rfl
@[simp] theorem count_routeWr (k n : Nat) : (s.count k n).routeWr = s.routeWr := rfl
@[simp] theorem count_badEnt (k n : Nat) : (s.count k n).badEnt = s.badEnt := rfl
@[simp] theorem count_rankBusy (k n : Nat) : (s.count k n).rankBusy = s.rankBusy := rfl
@[simp] theorem count_dump (k n : Nat) : (s.count k n).dump = s.dump := rfl
@[simp] theorem count_forced (k n : Nat) : (s.count k n).forced = s.forced := rfl
@[simp] theorem count_licence (k n : Nat) : (s.count k n).licence = s.licence := rfl
@[simp] theorem count_windows (k n : Nat) : (s.count k n).windows = s.windows := rfl
@[simp] theorem count_hostMem (k n : Nat) : (s.count k n).hostMem = s.hostMem := rfl
@[simp] theorem count_bridge (k n : Nat) : (s.count k n).bridge = s.bridge := rfl
@[simp] theorem count_bridgeDrop (k n : Nat) : (s.count k n).bridgeDrop = s.bridgeDrop := rfl
@[simp] theorem count_switchEnd (k n : Nat) : (s.count k n).switchEnd = s.switchEnd := rfl
@[simp] theorem count_pageFaults (k n : Nat) : (s.count k n).pageFaults = s.pageFaults := rfl
@[simp] theorem count_pageSeq (k n : Nat) : (s.count k n).pageSeq = s.pageSeq := rfl
@[simp] theorem count_wafer (k n : Nat) : (s.count k n).wafer = s.wafer := rfl
@[simp] theorem count_jobtag (k n : Nat) : (s.count k n).jobtag = s.jobtag := rfl
@[simp] theorem count_jobLoaded (k n : Nat) : (s.count k n).jobLoaded = s.jobLoaded := rfl
@[simp] theorem count_serial (k n : Nat) : (s.count k n).serial = s.serial := rfl
@[simp] theorem count_steward (k n : Nat) : (s.count k n).steward = s.steward := rfl
@[simp] theorem count_lastSeq (k n : Nat) : (s.count k n).lastSeq = s.lastSeq := rfl
@[simp] theorem count_mail (k n : Nat) : (s.count k n).mail = s.mail := rfl
@[simp] theorem count_running (k n : Nat) : (s.count k n).running = s.running := rfl
@[simp] theorem count_restarting (k n : Nat) : (s.count k n).restarting = s.restarting := rfl
@[simp] theorem count_plan (k n : Nat) : (s.count k n).plan = s.plan := rfl
@[simp] theorem count_nextLoad (k n : Nat) : (s.count k n).nextLoad = s.nextLoad := rfl
@[simp] theorem count_boot (k n : Nat) : (s.count k n).boot = s.boot := rfl
@[simp] theorem count_fuseComp (k n : Nat) : (s.count k n).fuseComp = s.fuseComp := rfl
@[simp] theorem count_fuseRtr (k n : Nat) : (s.count k n).fuseRtr = s.fuseRtr := rfl
@[simp] theorem count_failComp (k n : Nat) : (s.count k n).failComp = s.failComp := rfl
@[simp] theorem count_failRtr (k n : Nat) : (s.count k n).failRtr = s.failRtr := rfl
@[simp] theorem count_failLink (k n : Nat) : (s.count k n).failLink = s.failLink := rfl
@[simp] theorem count_tripped (k n : Nat) : (s.count k n).tripped = s.tripped := rfl
@[simp] theorem count_flashMap (k n : Nat) : (s.count k n).flashMap = s.flashMap := rfl
@[simp] theorem count_flashEpoch (k n : Nat) : (s.count k n).flashEpoch = s.flashEpoch := rfl
@[simp] theorem count_dormant (k n : Nat) : (s.count k n).dormant = s.dormant := rfl
@[simp] theorem count_clocks (k n : Nat) : (s.count k n).clocks = s.clocks := rfl
@[simp] theorem count_power (k n : Nat) : (s.count k n).power = s.power := rfl
@[simp] theorem count_fw (k n : Nat) : (s.count k n).fw = s.fw := rfl
@[simp] theorem count_pins (k n : Nat) : (s.count k n).pins = s.pins := rfl
@[simp] theorem count_regAcc (k n : Nat) : (s.count k n).regAcc = s.regAcc := rfl
@[simp] theorem count_regOut (k n : Nat) : (s.count k n).regOut = s.regOut := rfl
@[simp] theorem count_cell (k n : Nat) (j : CellId) : (s.count k n).cell j = s.cell j := rfl
@[simp] theorem count_hub (k n : Nat) (j : FieldNo) : (s.count k n).hub j = s.hub j := rfl
@[simp] theorem count_plot (k n : Nat) (j : PlotId) : (s.count k n).plot j = s.plot j := rfl
@[simp] theorem count_wain (k n : Nat) (j : Nat) : (s.count k n).wain j = s.wain j := rfl
@[simp] theorem count_stack (k n : Nat) (j : Nat) : (s.count k n).stack j = s.stack j := rfl
@[simp] theorem count_port (k n : Nat) (j : PortNo) : (s.count k n).port j = s.port j := rfl
@[simp] theorem count_mill (k n : Nat) (j : MillNo) : (s.count k n).mill j = s.mill j := rfl
@[simp] theorem send_pending (p : Packet) : (s.send p).pending = s.pending := rfl
@[simp] theorem send_tick (p : Packet) : (s.send p).tick = s.tick := rfl
@[simp] theorem send_drawn (p : Packet) : (s.send p).drawn = s.drawn := rfl
@[simp] theorem send_tickHold (p : Packet) : (s.send p).tickHold = s.tickHold := rfl
@[simp] theorem send_slew (p : Packet) : (s.send p).slew = s.slew := rfl
@[simp] theorem send_slewPart (p : Packet) : (s.send p).slewPart = s.slewPart := rfl
@[simp] theorem send_cells (p : Packet) : (s.send p).cells = s.cells := rfl
@[simp] theorem send_pmem (p : Packet) : (s.send p).pmem = s.pmem := rfl
@[simp] theorem send_pmemAll (p : Packet) : (s.send p).pmemAll = s.pmemAll := rfl
@[simp] theorem send_library (p : Packet) : (s.send p).library = s.library := rfl
@[simp] theorem send_loft (p : Packet) : (s.send p).loft = s.loft := rfl
@[simp] theorem send_loftErr (p : Packet) : (s.send p).loftErr = s.loftErr := rfl
@[simp] theorem send_scrubs (p : Packet) : (s.send p).scrubs = s.scrubs := rfl
@[simp] theorem send_links (p : Packet) : (s.send p).links = s.links := rfl
@[simp] theorem send_linkAll (p : Packet) : (s.send p).linkAll = s.linkAll := rfl
@[simp] theorem send_linksOut (p : Packet) : (s.send p).linksOut = s.linksOut := rfl
@[simp] theorem send_arb (p : Packet) : (s.send p).arb = s.arb := rfl
@[simp] theorem send_hostReads (p : Packet) : (s.send p).hostReads = s.hostReads := rfl
@[simp] theorem send_ni (p : Packet) : (s.send p).ni = s.ni := rfl
@[simp] theorem send_niCell (p : Packet) : (s.send p).niCell = s.niCell := rfl
@[simp] theorem send_hubs (p : Packet) : (s.send p).hubs = s.hubs := rfl
@[simp] theorem send_niHub (p : Packet) : (s.send p).niHub = s.niHub := rfl
@[simp] theorem send_wains (p : Packet) : (s.send p).wains = s.wains := rfl
@[simp] theorem send_gstacks (p : Packet) : (s.send p).gstacks = s.gstacks := rfl
@[simp] theorem send_granary (p : Packet) : (s.send p).granary = s.granary := rfl
@[simp] theorem send_granErr (p : Packet) : (s.send p).granErr = s.granErr := rfl
@[simp] theorem send_gmap (p : Packet) : (s.send p).gmap = s.gmap := rfl
@[simp] theorem send_hingeCache (p : Packet) : (s.send p).hingeCache = s.hingeCache := rfl
@[simp] theorem send_plots (p : Packet) : (s.send p).plots = s.plots := rfl
@[simp] theorem send_ports (p : Packet) : (s.send p).ports = s.ports := rfl
@[simp] theorem send_map (p : Packet) : (s.send p).map = s.map := rfl
@[simp] theorem send_epoch (p : Packet) : (s.send p).epoch = s.epoch := rfl
@[simp] theorem send_ledger (p : Packet) : (s.send p).ledger = s.ledger := rfl
@[simp] theorem send_ledgerLost (p : Packet) : (s.send p).ledgerLost = s.ledgerLost := rfl
@[simp] theorem send_faultSeq (p : Packet) : (s.send p).faultSeq = s.faultSeq := rfl
@[simp] theorem send_millsOut (p : Packet) : (s.send p).millsOut = s.millsOut := rfl
@[simp] theorem send_darkOrder (p : Packet) : (s.send p).darkOrder = s.darkOrder := rfl
@[simp] theorem send_darkSeen (p : Packet) : (s.send p).darkSeen = s.darkSeen := rfl
@[simp] theorem send_residents (p : Packet) : (s.send p).residents = s.residents := rfl
@[simp] theorem send_libver (p : Packet) : (s.send p).libver = s.libver := rfl
@[simp] theorem send_mills (p : Packet) : (s.send p).mills = s.mills := rfl
@[simp] theorem send_ranks (p : Packet) : (s.send p).ranks = s.ranks := rfl
@[simp] theorem send_routes (p : Packet) : (s.send p).routes = s.routes := rfl
@[simp] theorem send_rankWr (p : Packet) : (s.send p).rankWr = s.rankWr := rfl
@[simp] theorem send_routeWr (p : Packet) : (s.send p).routeWr = s.routeWr := rfl
@[simp] theorem send_badEnt (p : Packet) : (s.send p).badEnt = s.badEnt := rfl
@[simp] theorem send_rankBusy (p : Packet) : (s.send p).rankBusy = s.rankBusy := rfl
@[simp] theorem send_tally (p : Packet) : (s.send p).tally = s.tally := rfl
@[simp] theorem send_dump (p : Packet) : (s.send p).dump = s.dump := rfl
@[simp] theorem send_forced (p : Packet) : (s.send p).forced = s.forced := rfl
@[simp] theorem send_licence (p : Packet) : (s.send p).licence = s.licence := rfl
@[simp] theorem send_windows (p : Packet) : (s.send p).windows = s.windows := rfl
@[simp] theorem send_hostMem (p : Packet) : (s.send p).hostMem = s.hostMem := rfl
@[simp] theorem send_bridge (p : Packet) : (s.send p).bridge = s.bridge := rfl
@[simp] theorem send_bridgeDrop (p : Packet) : (s.send p).bridgeDrop = s.bridgeDrop := rfl
@[simp] theorem send_switchEnd (p : Packet) : (s.send p).switchEnd = s.switchEnd := rfl
@[simp] theorem send_pageFaults (p : Packet) : (s.send p).pageFaults = s.pageFaults := rfl
@[simp] theorem send_pageSeq (p : Packet) : (s.send p).pageSeq = s.pageSeq := rfl
@[simp] theorem send_wafer (p : Packet) : (s.send p).wafer = s.wafer := rfl
@[simp] theorem send_jobtag (p : Packet) : (s.send p).jobtag = s.jobtag := rfl
@[simp] theorem send_jobLoaded (p : Packet) : (s.send p).jobLoaded = s.jobLoaded := rfl
@[simp] theorem send_serial (p : Packet) : (s.send p).serial = s.serial := rfl
@[simp] theorem send_steward (p : Packet) : (s.send p).steward = s.steward := rfl
@[simp] theorem send_lastSeq (p : Packet) : (s.send p).lastSeq = s.lastSeq := rfl
@[simp] theorem send_mail (p : Packet) : (s.send p).mail = s.mail := rfl
@[simp] theorem send_running (p : Packet) : (s.send p).running = s.running := rfl
@[simp] theorem send_restarting (p : Packet) : (s.send p).restarting = s.restarting := rfl
@[simp] theorem send_plan (p : Packet) : (s.send p).plan = s.plan := rfl
@[simp] theorem send_nextLoad (p : Packet) : (s.send p).nextLoad = s.nextLoad := rfl
@[simp] theorem send_boot (p : Packet) : (s.send p).boot = s.boot := rfl
@[simp] theorem send_fuseComp (p : Packet) : (s.send p).fuseComp = s.fuseComp := rfl
@[simp] theorem send_fuseRtr (p : Packet) : (s.send p).fuseRtr = s.fuseRtr := rfl
@[simp] theorem send_failComp (p : Packet) : (s.send p).failComp = s.failComp := rfl
@[simp] theorem send_failRtr (p : Packet) : (s.send p).failRtr = s.failRtr := rfl
@[simp] theorem send_failLink (p : Packet) : (s.send p).failLink = s.failLink := rfl
@[simp] theorem send_tripped (p : Packet) : (s.send p).tripped = s.tripped := rfl
@[simp] theorem send_flashMap (p : Packet) : (s.send p).flashMap = s.flashMap := rfl
@[simp] theorem send_flashEpoch (p : Packet) : (s.send p).flashEpoch = s.flashEpoch := rfl
@[simp] theorem send_dormant (p : Packet) : (s.send p).dormant = s.dormant := rfl
@[simp] theorem send_clocks (p : Packet) : (s.send p).clocks = s.clocks := rfl
@[simp] theorem send_power (p : Packet) : (s.send p).power = s.power := rfl
@[simp] theorem send_fw (p : Packet) : (s.send p).fw = s.fw := rfl
@[simp] theorem send_pins (p : Packet) : (s.send p).pins = s.pins := rfl
@[simp] theorem send_regAcc (p : Packet) : (s.send p).regAcc = s.regAcc := rfl
@[simp] theorem send_regOut (p : Packet) : (s.send p).regOut = s.regOut := rfl
@[simp] theorem send_cell (p : Packet) (j : CellId) : (s.send p).cell j = s.cell j := rfl
@[simp] theorem send_hub (p : Packet) (j : FieldNo) : (s.send p).hub j = s.hub j := rfl
@[simp] theorem send_plot (p : Packet) (j : PlotId) : (s.send p).plot j = s.plot j := rfl
@[simp] theorem send_wain (p : Packet) (j : Nat) : (s.send p).wain j = s.wain j := rfl
@[simp] theorem send_stack (p : Packet) (j : Nat) : (s.send p).stack j = s.stack j := rfl
@[simp] theorem send_port (p : Packet) (j : PortNo) : (s.send p).port j = s.port j := rfl
@[simp] theorem send_mill (p : Packet) (j : MillNo) : (s.send p).mill j = s.mill j := rfl

/-! ### Registers of a cell -/

theorem setS_s (v : Cell) (r d : SReg) (x : Word) : (v.setS r x).s d = if d = r then x else v.s d := by
  unfold Cell.setS Cell.s
  simp only [get_set]
  by_cases h : d = r
  · simp [h]
  · have : d.toNat ≠ r.toNat := fun e => h (BitVec.eq_of_toNat_eq e)
    simp [h, this]

theorem setV_v (v : Cell) (r d : VReg) (x : Vec512) : (v.setV r x).v d = if d = r then x else v.v d := by
  unfold Cell.setV Cell.v
  simp only [get_set]
  by_cases h : d = r
  · simp [h]
  · have : d.toNat ≠ r.toNat := fun e => h (BitVec.eq_of_toNat_eq e)
    simp [h, this]

theorem setLoop_loop (v : Cell) (k j : CtrNo) (x : LoopCtr) : (v.setLoop k x).loop j = if j = k then x else v.loop j := by
  unfold Cell.setLoop Cell.loop
  simp only [get_set]
  by_cases h : j = k
  · simp [h]
  · have : j.toNat ≠ k.toNat := fun e => h (BitVec.eq_of_toNat_eq e)
    simp [h, this]

theorem setTile_tile (v : Cell) (k j : AccNo) (x : Tile) : (v.setTile k x).tile j = if j = k then x else v.tile j := by
  unfold Cell.setTile Cell.tile
  simp only [get_set]
  by_cases h : j = k
  · simp [h]
  · have : j.toNat ≠ k.toNat := fun e => h (BitVec.eq_of_toNat_eq e)
    simp [h, this]

theorem setQueue_queue (v : Cell) (k j : QueueNo) (x : Queue) : (v.setQueue k x).queue j = if j = k then x else v.queue j := by
  unfold Cell.setQueue Cell.queue
  simp only [get_set]
  by_cases h : j = k
  · simp [h]
  · have : j.toNat ≠ k.toNat := fun e => h (BitVec.eq_of_toNat_eq e)
    simp [h, this]

theorem setChan_chan (v : Cell) (k j : ChanNo) (x : Chan) : (v.setChan k x).chan j = if j = k then x else v.chan j := by
  unfold Cell.setChan Cell.chan
  simp only [get_set]
  by_cases h : j = k
  · simp [h]
  · have : j.toNat ≠ k.toNat := fun e => h (BitVec.eq_of_toNat_eq e)
    simp [h, this]

end Sys2Proof.Laws
end

