-- ==== Sys2Proof/Laws/Mail.lean ====
section
/-! SUPPORT. What the ward does with a message: acceptance changes only the mail and the slots, and a command that
passes its checks is answered, waits, is answered later or is held. -/

namespace Sys2Proof.Machine

theorem State.complete_frame (s : State) (p : PortNo) (n : SlotNo) (w : Word) (live : Bool) (a : Answer) :
    ∃ ps, s.complete p n w live false a = { s with ports := ps } := by
  unfold State.complete
  cases live
  · exact ⟨s.ports, by simp⟩
  · exact ⟨_, by simp only [State.modPort, State.setPort, if_true]; rfl⟩

theorem State.acceptFold_frame (l : List (PortNo × SlotNo)) : ∀ s : State, ∃ m ps,
    l.foldl (fun (s : State) (x : PortNo × SlotNo) =>
      let w := (s.port x.1).opword x.2
      if (opInfo (opcodeOf w)).isNone then
        { s with mail := s.mail.erase x }.complete x.1 x.2 w true false (refuse stOpcode 0)
      else s.modPort x.1 fun q => q.setSlotState x.2 2) s = { s with mail := m, ports := ps } := by
  induction l with
  | nil => exact fun s => ⟨s.mail, s.ports, rfl⟩
  | cons x l ih =>
    intro s
    simp only [List.foldl_cons]
    split
    · obtain ⟨ps, h⟩ := State.complete_frame { s with mail := s.mail.erase x } x.1 x.2 ((s.port x.1).opword x.2) true
        (refuse stOpcode 0)
      rw [h]
      exact ih _
    · exact ih (s.modPort x.1 fun q => q.setSlotState x.2 2)

/-- Accepting the posted slots changes only the mail and the ports. -/
theorem State.acceptAll_frame (s : State) : ∃ m ps, s.acceptAll = { s with mail := m, ports := ps } :=
  State.acceptFold_frame s.mail s

/-- Starting a message changes only the mail and the ports. -/
theorem State.mailStarted_frame (s : State) (p : PortNo) (n : SlotNo) :
    ∃ m ps, s.mailStarted p n = { s with mail := m, ports := ps } := by
  obtain ⟨m, ps, h⟩ := s.acceptAll_frame
  exact ⟨m.erase (p, n), ps, by simp [State.mailStarted, h]⟩

variable {s t : State} {p : PortNo} {n : SlotNo} {o : OpInfo} {row : List Byte → Bool}
  {f : State → List Byte → State × Carried} {a : Answer} {code : Nat}

/-- The command carried out, by what its meaning comes to. -/
theorem State.carry_eq (h : s.ComesToMail p n o) (hc : o.code = code)
    (hr : row ((s.port p).payload n) = true) :
    s.carry p n code row f =
      match s.acceptAll.generalCheck o p ((s.port p).reqLen n) ((s.port p).payload n) with
      | some a => (s.mailStarted p n).mailAnswer s p n o a
      | none =>
        match f (s.mailStarted p n) ((s.port p).payload n) with
        | (t, .done a) => t.mailAnswer s p n o a
        | (t, .wait k) =>
          { t with running := some ⟨p, n, (s.port p).opword n, (s.port p).payload n, true, k⟩ }
        | (t, .later) => t
        | (_, .hold) => s.acceptAll := by
  subst hc
  have ho : (o.mutating && (s.running.isSome || s.firstMutating != some (p, n))) = false := by
    cases hm : o.mutating
    · rfl
    · simp [h.order hm]
  have h5 : (!s.mail.contains (p, n) || opcodeOf ((s.port p).opword n) != o.code || !row ((s.port p).payload n) ||
      !s.wardServes o.code || (o.mutating && (s.running.isSome || s.firstMutating != some (p, n)))) = false := by
    rw [ho, h.waits, h.opcode, h.serves, hr]
    simp
  unfold State.carry
  split
  · next h1 => rw [h.row] at h1; cases h1
  · next o' h1 =>
    rw [h.row] at h1
    cases h1
    rw [if_neg (by rw [h5]; exact Bool.false_ne_true)]
    rfl

theorem State.carry_refused (h : s.ComesToMail p n o) (hc : o.code = code) (hr : row ((s.port p).payload n) = true)
    (hg : s.acceptAll.generalCheck o p ((s.port p).reqLen n) ((s.port p).payload n) = some a) :
    s.carry p n code row f = (s.mailStarted p n).mailAnswer s p n o a := by
  rw [State.carry_eq h hc hr, hg]

theorem State.carry_passes (h : s.ComesToMail p n o) (hp : s.MailPasses p n o) (hc : o.code = code)
    (hr : row ((s.port p).payload n) = true) :
    s.carry p n code row f =
      match f (s.mailStarted p n) ((s.port p).payload n) with
        | (t, .done a) => t.mailAnswer s p n o a
        | (t, .wait k) =>
          { t with running := some ⟨p, n, (s.port p).opword n, (s.port p).payload n, true, k⟩ }
        | (t, .later) => t
        | (_, .hold) => s.acceptAll := by
  rw [State.carry_eq h hc hr]
  unfold State.MailPasses at hp
  rw [hp]

/-- A message that is not in the mail is not carried out. -/
theorem State.carry_absent (h : s.mail.contains (p, n) = false) : s.carry p n code row f = s := by
  unfold State.carry
  split
  · rfl
  · have h' : (p, n) ∉ s.mail := by simpa using h
    simp [h']

/-! ### What starting a message leaves alone -/

@[simp] theorem State.mailStarted_pending (s : State) (p : PortNo) (n : SlotNo) : (s.mailStarted p n).pending = s.pending := by
  obtain ⟨m, ps, h⟩ := s.mailStarted_frame p n
  rw [h]
@[simp] theorem State.mailStarted_tick (s : State) (p : PortNo) (n : SlotNo) : (s.mailStarted p n).tick = s.tick := by
  obtain ⟨m, ps, h⟩ := s.mailStarted_frame p n
  rw [h]
@[simp] theorem State.mailStarted_drawn (s : State) (p : PortNo) (n : SlotNo) : (s.mailStarted p n).drawn = s.drawn := by
  obtain ⟨m, ps, h⟩ := s.mailStarted_frame p n
  rw [h]
@[simp] theorem State.mailStarted_tickHold (s : State) (p : PortNo) (n : SlotNo) : (s.mailStarted p n).tickHold = s.tickHold := by
  obtain ⟨m, ps, h⟩ := s.mailStarted_frame p n
  rw [h]
@[simp] theorem State.mailStarted_net (s : State) (p : PortNo) (n : SlotNo) : (s.mailStarted p n).net = s.net := by
  obtain ⟨m, ps, h⟩ := s.mailStarted_frame p n
  rw [h]
@[simp] theorem State.mailStarted_cells (s : State) (p : PortNo) (n : SlotNo) : (s.mailStarted p n).cells = s.cells := by
  obtain ⟨m, ps, h⟩ := s.mailStarted_frame p n
  rw [h]
@[simp] theorem State.mailStarted_pmem (s : State) (p : PortNo) (n : SlotNo) : (s.mailStarted p n).pmem = s.pmem := by
  obtain ⟨m, ps, h⟩ := s.mailStarted_frame p n
  rw [h]
@[simp] theorem State.mailStarted_pmemAll (s : State) (p : PortNo) (n : SlotNo) : (s.mailStarted p n).pmemAll = s.pmemAll := by
  obtain ⟨m, ps, h⟩ := s.mailStarted_frame p n
  rw [h]
@[simp] theorem State.mailStarted_library (s : State) (p : PortNo) (n : SlotNo) : (s.mailStarted p n).library = s.library := by
  obtain ⟨m, ps, h⟩ := s.mailStarted_frame p n
  rw [h]
@[simp] theorem State.mailStarted_loft (s : State) (p : PortNo) (n : SlotNo) : (s.mailStarted p n).loft = s.loft := by
  obtain ⟨m, ps, h⟩ := s.mailStarted_frame p n
  rw [h]
@[simp] theorem State.mailStarted_loftErr (s : State) (p : PortNo) (n : SlotNo) : (s.mailStarted p n).loftErr = s.loftErr := by
  obtain ⟨m, ps, h⟩ := s.mailStarted_frame p n
  rw [h]
@[simp] theorem State.mailStarted_scrubs (s : State) (p : PortNo) (n : SlotNo) : (s.mailStarted p n).scrubs = s.scrubs := by
  obtain ⟨m, ps, h⟩ := s.mailStarted_frame p n
  rw [h]
@[simp] theorem State.mailStarted_links (s : State) (p : PortNo) (n : SlotNo) : (s.mailStarted p n).links = s.links := by
  obtain ⟨m, ps, h⟩ := s.mailStarted_frame p n
  rw [h]
@[simp] theorem State.mailStarted_linkAll (s : State) (p : PortNo) (n : SlotNo) : (s.mailStarted p n).linkAll = s.linkAll := by
  obtain ⟨m, ps, h⟩ := s.mailStarted_frame p n
  rw [h]
@[simp] theorem State.mailStarted_linksOut (s : State) (p : PortNo) (n : SlotNo) : (s.mailStarted p n).linksOut = s.linksOut := by
  obtain ⟨m, ps, h⟩ := s.mailStarted_frame p n
  rw [h]
@[simp] theorem State.mailStarted_ni (s : State) (p : PortNo) (n : SlotNo) : (s.mailStarted p n).ni = s.ni := by
  obtain ⟨m, ps, h⟩ := s.mailStarted_frame p n
  rw [h]
@[simp] theorem State.mailStarted_niCell (s : State) (p : PortNo) (n : SlotNo) : (s.mailStarted p n).niCell = s.niCell := by
  obtain ⟨m, ps, h⟩ := s.mailStarted_frame p n
  rw [h]
@[simp] theorem State.mailStarted_hubs (s : State) (p : PortNo) (n : SlotNo) : (s.mailStarted p n).hubs = s.hubs := by
  obtain ⟨m, ps, h⟩ := s.mailStarted_frame p n
  rw [h]
@[simp] theorem State.mailStarted_niHub (s : State) (p : PortNo) (n : SlotNo) : (s.mailStarted p n).niHub = s.niHub := by
  obtain ⟨m, ps, h⟩ := s.mailStarted_frame p n
  rw [h]
@[simp] theorem State.mailStarted_wains (s : State) (p : PortNo) (n : SlotNo) : (s.mailStarted p n).wains = s.wains := by
  obtain ⟨m, ps, h⟩ := s.mailStarted_frame p n
  rw [h]
@[simp] theorem State.mailStarted_gstacks (s : State) (p : PortNo) (n : SlotNo) : (s.mailStarted p n).gstacks = s.gstacks := by
  obtain ⟨m, ps, h⟩ := s.mailStarted_frame p n
  rw [h]
@[simp] theorem State.mailStarted_granary (s : State) (p : PortNo) (n : SlotNo) : (s.mailStarted p n).granary = s.granary := by
  obtain ⟨m, ps, h⟩ := s.mailStarted_frame p n
  rw [h]
@[simp] theorem State.mailStarted_granErr (s : State) (p : PortNo) (n : SlotNo) : (s.mailStarted p n).granErr = s.granErr := by
  obtain ⟨m, ps, h⟩ := s.mailStarted_frame p n
  rw [h]
@[simp] theorem State.mailStarted_gmap (s : State) (p : PortNo) (n : SlotNo) : (s.mailStarted p n).gmap = s.gmap := by
  obtain ⟨m, ps, h⟩ := s.mailStarted_frame p n
  rw [h]
@[simp] theorem State.mailStarted_plots (s : State) (p : PortNo) (n : SlotNo) : (s.mailStarted p n).plots = s.plots := by
  obtain ⟨m, ps, h⟩ := s.mailStarted_frame p n
  rw [h]
@[simp] theorem State.mailStarted_map (s : State) (p : PortNo) (n : SlotNo) : (s.mailStarted p n).map = s.map := by
  obtain ⟨m, ps, h⟩ := s.mailStarted_frame p n
  rw [h]
@[simp] theorem State.mailStarted_epoch (s : State) (p : PortNo) (n : SlotNo) : (s.mailStarted p n).epoch = s.epoch := by
  obtain ⟨m, ps, h⟩ := s.mailStarted_frame p n
  rw [h]
@[simp] theorem State.mailStarted_ledger (s : State) (p : PortNo) (n : SlotNo) : (s.mailStarted p n).ledger = s.ledger := by
  obtain ⟨m, ps, h⟩ := s.mailStarted_frame p n
  rw [h]
@[simp] theorem State.mailStarted_ledgerLost (s : State) (p : PortNo) (n : SlotNo) : (s.mailStarted p n).ledgerLost = s.ledgerLost := by
  obtain ⟨m, ps, h⟩ := s.mailStarted_frame p n
  rw [h]
@[simp] theorem State.mailStarted_faultSeq (s : State) (p : PortNo) (n : SlotNo) : (s.mailStarted p n).faultSeq = s.faultSeq := by
  obtain ⟨m, ps, h⟩ := s.mailStarted_frame p n
  rw [h]
@[simp] theorem State.mailStarted_millsOut (s : State) (p : PortNo) (n : SlotNo) : (s.mailStarted p n).millsOut = s.millsOut := by
  obtain ⟨m, ps, h⟩ := s.mailStarted_frame p n
  rw [h]
@[simp] theorem State.mailStarted_darkOrder (s : State) (p : PortNo) (n : SlotNo) : (s.mailStarted p n).darkOrder = s.darkOrder := by
  obtain ⟨m, ps, h⟩ := s.mailStarted_frame p n
  rw [h]
@[simp] theorem State.mailStarted_darkSeen (s : State) (p : PortNo) (n : SlotNo) : (s.mailStarted p n).darkSeen = s.darkSeen := by
  obtain ⟨m, ps, h⟩ := s.mailStarted_frame p n
  rw [h]
@[simp] theorem State.mailStarted_residents (s : State) (p : PortNo) (n : SlotNo) : (s.mailStarted p n).residents = s.residents := by
  obtain ⟨m, ps, h⟩ := s.mailStarted_frame p n
  rw [h]
@[simp] theorem State.mailStarted_libver (s : State) (p : PortNo) (n : SlotNo) : (s.mailStarted p n).libver = s.libver := by
  obtain ⟨m, ps, h⟩ := s.mailStarted_frame p n
  rw [h]
@[simp] theorem State.mailStarted_mills (s : State) (p : PortNo) (n : SlotNo) : (s.mailStarted p n).mills = s.mills := by
  obtain ⟨m, ps, h⟩ := s.mailStarted_frame p n
  rw [h]
@[simp] theorem State.mailStarted_ranks (s : State) (p : PortNo) (n : SlotNo) : (s.mailStarted p n).ranks = s.ranks := by
  obtain ⟨m, ps, h⟩ := s.mailStarted_frame p n
  rw [h]
@[simp] theorem State.mailStarted_routes (s : State) (p : PortNo) (n : SlotNo) : (s.mailStarted p n).routes = s.routes := by
  obtain ⟨m, ps, h⟩ := s.mailStarted_frame p n
  rw [h]
@[simp] theorem State.mailStarted_rankWr (s : State) (p : PortNo) (n : SlotNo) : (s.mailStarted p n).rankWr = s.rankWr := by
  obtain ⟨m, ps, h⟩ := s.mailStarted_frame p n
  rw [h]
@[simp] theorem State.mailStarted_routeWr (s : State) (p : PortNo) (n : SlotNo) : (s.mailStarted p n).routeWr = s.routeWr := by
  obtain ⟨m, ps, h⟩ := s.mailStarted_frame p n
  rw [h]
@[simp] theorem State.mailStarted_badEnt (s : State) (p : PortNo) (n : SlotNo) : (s.mailStarted p n).badEnt = s.badEnt := by
  obtain ⟨m, ps, h⟩ := s.mailStarted_frame p n
  rw [h]
@[simp] theorem State.mailStarted_rankBusy (s : State) (p : PortNo) (n : SlotNo) : (s.mailStarted p n).rankBusy = s.rankBusy := by
  obtain ⟨m, ps, h⟩ := s.mailStarted_frame p n
  rw [h]
@[simp] theorem State.mailStarted_tally (s : State) (p : PortNo) (n : SlotNo) : (s.mailStarted p n).tally = s.tally := by
  obtain ⟨m, ps, h⟩ := s.mailStarted_frame p n
  rw [h]
@[simp] theorem State.mailStarted_dump (s : State) (p : PortNo) (n : SlotNo) : (s.mailStarted p n).dump = s.dump := by
  obtain ⟨m, ps, h⟩ := s.mailStarted_frame p n
  rw [h]
@[simp] theorem State.mailStarted_forced (s : State) (p : PortNo) (n : SlotNo) : (s.mailStarted p n).forced = s.forced := by
  obtain ⟨m, ps, h⟩ := s.mailStarted_frame p n
  rw [h]
@[simp] theorem State.mailStarted_licence (s : State) (p : PortNo) (n : SlotNo) : (s.mailStarted p n).licence = s.licence := by
  obtain ⟨m, ps, h⟩ := s.mailStarted_frame p n
  rw [h]
@[simp] theorem State.mailStarted_windows (s : State) (p : PortNo) (n : SlotNo) : (s.mailStarted p n).windows = s.windows := by
  obtain ⟨m, ps, h⟩ := s.mailStarted_frame p n
  rw [h]
@[simp] theorem State.mailStarted_hostMem (s : State) (p : PortNo) (n : SlotNo) : (s.mailStarted p n).hostMem = s.hostMem := by
  obtain ⟨m, ps, h⟩ := s.mailStarted_frame p n
  rw [h]
@[simp] theorem State.mailStarted_bridge (s : State) (p : PortNo) (n : SlotNo) : (s.mailStarted p n).bridge = s.bridge := by
  obtain ⟨m, ps, h⟩ := s.mailStarted_frame p n
  rw [h]
@[simp] theorem State.mailStarted_bridgeDrop (s : State) (p : PortNo) (n : SlotNo) : (s.mailStarted p n).bridgeDrop = s.bridgeDrop := by
  obtain ⟨m, ps, h⟩ := s.mailStarted_frame p n
  rw [h]
@[simp] theorem State.mailStarted_pageFaults (s : State) (p : PortNo) (n : SlotNo) : (s.mailStarted p n).pageFaults = s.pageFaults := by
  obtain ⟨m, ps, h⟩ := s.mailStarted_frame p n
  rw [h]
@[simp] theorem State.mailStarted_pageSeq (s : State) (p : PortNo) (n : SlotNo) : (s.mailStarted p n).pageSeq = s.pageSeq := by
  obtain ⟨m, ps, h⟩ := s.mailStarted_frame p n
  rw [h]
@[simp] theorem State.mailStarted_wafer (s : State) (p : PortNo) (n : SlotNo) : (s.mailStarted p n).wafer = s.wafer := by
  obtain ⟨m, ps, h⟩ := s.mailStarted_frame p n
  rw [h]
@[simp] theorem State.mailStarted_jobtag (s : State) (p : PortNo) (n : SlotNo) : (s.mailStarted p n).jobtag = s.jobtag := by
  obtain ⟨m, ps, h⟩ := s.mailStarted_frame p n
  rw [h]
@[simp] theorem State.mailStarted_jobLoaded (s : State) (p : PortNo) (n : SlotNo) : (s.mailStarted p n).jobLoaded = s.jobLoaded := by
  obtain ⟨m, ps, h⟩ := s.mailStarted_frame p n
  rw [h]
@[simp] theorem State.mailStarted_serial (s : State) (p : PortNo) (n : SlotNo) : (s.mailStarted p n).serial = s.serial := by
  obtain ⟨m, ps, h⟩ := s.mailStarted_frame p n
  rw [h]
@[simp] theorem State.mailStarted_steward (s : State) (p : PortNo) (n : SlotNo) : (s.mailStarted p n).steward = s.steward := by
  obtain ⟨m, ps, h⟩ := s.mailStarted_frame p n
  rw [h]
@[simp] theorem State.mailStarted_lastSeq (s : State) (p : PortNo) (n : SlotNo) : (s.mailStarted p n).lastSeq = s.lastSeq := by
  obtain ⟨m, ps, h⟩ := s.mailStarted_frame p n
  rw [h]
@[simp] theorem State.mailStarted_running (s : State) (p : PortNo) (n : SlotNo) : (s.mailStarted p n).running = s.running := by
  obtain ⟨m, ps, h⟩ := s.mailStarted_frame p n
  rw [h]
@[simp] theorem State.mailStarted_restarting (s : State) (p : PortNo) (n : SlotNo) : (s.mailStarted p n).restarting = s.restarting := by
  obtain ⟨m, ps, h⟩ := s.mailStarted_frame p n
  rw [h]
@[simp] theorem State.mailStarted_plan (s : State) (p : PortNo) (n : SlotNo) : (s.mailStarted p n).plan = s.plan := by
  obtain ⟨m, ps, h⟩ := s.mailStarted_frame p n
  rw [h]
@[simp] theorem State.mailStarted_nextLoad (s : State) (p : PortNo) (n : SlotNo) : (s.mailStarted p n).nextLoad = s.nextLoad := by
  obtain ⟨m, ps, h⟩ := s.mailStarted_frame p n
  rw [h]
@[simp] theorem State.mailStarted_boot (s : State) (p : PortNo) (n : SlotNo) : (s.mailStarted p n).boot = s.boot := by
  obtain ⟨m, ps, h⟩ := s.mailStarted_frame p n
  rw [h]
@[simp] theorem State.mailStarted_fuseComp (s : State) (p : PortNo) (n : SlotNo) : (s.mailStarted p n).fuseComp = s.fuseComp := by
  obtain ⟨m, ps, h⟩ := s.mailStarted_frame p n
  rw [h]
@[simp] theorem State.mailStarted_fuseRtr (s : State) (p : PortNo) (n : SlotNo) : (s.mailStarted p n).fuseRtr = s.fuseRtr := by
  obtain ⟨m, ps, h⟩ := s.mailStarted_frame p n
  rw [h]
@[simp] theorem State.mailStarted_failComp (s : State) (p : PortNo) (n : SlotNo) : (s.mailStarted p n).failComp = s.failComp := by
  obtain ⟨m, ps, h⟩ := s.mailStarted_frame p n
  rw [h]
@[simp] theorem State.mailStarted_failRtr (s : State) (p : PortNo) (n : SlotNo) : (s.mailStarted p n).failRtr = s.failRtr := by
  obtain ⟨m, ps, h⟩ := s.mailStarted_frame p n
  rw [h]
@[simp] theorem State.mailStarted_failLink (s : State) (p : PortNo) (n : SlotNo) : (s.mailStarted p n).failLink = s.failLink := by
  obtain ⟨m, ps, h⟩ := s.mailStarted_frame p n
  rw [h]
@[simp] theorem State.mailStarted_tripped (s : State) (p : PortNo) (n : SlotNo) : (s.mailStarted p n).tripped = s.tripped := by
  obtain ⟨m, ps, h⟩ := s.mailStarted_frame p n
  rw [h]
@[simp] theorem State.mailStarted_flashMap (s : State) (p : PortNo) (n : SlotNo) : (s.mailStarted p n).flashMap = s.flashMap := by
  obtain ⟨m, ps, h⟩ := s.mailStarted_frame p n
  rw [h]
@[simp] theorem State.mailStarted_flashEpoch (s : State) (p : PortNo) (n : SlotNo) : (s.mailStarted p n).flashEpoch = s.flashEpoch := by
  obtain ⟨m, ps, h⟩ := s.mailStarted_frame p n
  rw [h]
@[simp] theorem State.mailStarted_dormant (s : State) (p : PortNo) (n : SlotNo) : (s.mailStarted p n).dormant = s.dormant := by
  obtain ⟨m, ps, h⟩ := s.mailStarted_frame p n
  rw [h]
@[simp] theorem State.mailStarted_clocks (s : State) (p : PortNo) (n : SlotNo) : (s.mailStarted p n).clocks = s.clocks := by
  obtain ⟨m, ps, h⟩ := s.mailStarted_frame p n
  rw [h]
@[simp] theorem State.mailStarted_power (s : State) (p : PortNo) (n : SlotNo) : (s.mailStarted p n).power = s.power := by
  obtain ⟨m, ps, h⟩ := s.mailStarted_frame p n
  rw [h]
@[simp] theorem State.mailStarted_fw (s : State) (p : PortNo) (n : SlotNo) : (s.mailStarted p n).fw = s.fw := by
  obtain ⟨m, ps, h⟩ := s.mailStarted_frame p n
  rw [h]
@[simp] theorem State.mailStarted_pins (s : State) (p : PortNo) (n : SlotNo) : (s.mailStarted p n).pins = s.pins := by
  obtain ⟨m, ps, h⟩ := s.mailStarted_frame p n
  rw [h]
@[simp] theorem State.mailStarted_regAcc (s : State) (p : PortNo) (n : SlotNo) : (s.mailStarted p n).regAcc = s.regAcc := by
  obtain ⟨m, ps, h⟩ := s.mailStarted_frame p n
  rw [h]
@[simp] theorem State.mailStarted_regOut (s : State) (p : PortNo) (n : SlotNo) : (s.mailStarted p n).regOut = s.regOut := by
  obtain ⟨m, ps, h⟩ := s.mailStarted_frame p n
  rw [h]
@[simp] theorem State.mailStarted_cell (s : State) (p : PortNo) (n : SlotNo) (c) : (s.mailStarted p n).cell c = s.cell c := by
  simp [State.cell]
@[simp] theorem State.mailStarted_hub (s : State) (p : PortNo) (n : SlotNo) (c) : (s.mailStarted p n).hub c = s.hub c := by
  simp [State.hub]
@[simp] theorem State.mailStarted_plot (s : State) (p : PortNo) (n : SlotNo) (c) : (s.mailStarted p n).plot c = s.plot c := by
  simp [State.plot]
@[simp] theorem State.mailStarted_wain (s : State) (p : PortNo) (n : SlotNo) (c) : (s.mailStarted p n).wain c = s.wain c := by
  simp [State.wain]
@[simp] theorem State.mailStarted_stack (s : State) (p : PortNo) (n : SlotNo) (c) : (s.mailStarted p n).stack c = s.stack c := by
  simp [State.stack]
@[simp] theorem State.mailStarted_mill (s : State) (p : PortNo) (n : SlotNo) (c) : (s.mailStarted p n).mill c = s.mill c := by
  simp [State.mill]

end Sys2Proof.Machine
end

