-- ==== Sys2Proof/Tests/Slice0.lean ====
section
/-! SUPPORT. The author's tests: well-formedness refuses an ill-formed term for each of its checks, words of the spec
decode to their instructions, single steps give the values of the spec's tables and examples, and each statement with
hypotheses has a state that meets them. -/

namespace Sys2Proof.Tests
open Sys2Proof.Machine

-- one theorem after the other: each kernel evaluation has a large stack of its own
set_option Elab.async false

/-! ### Helpers -/

/-- The state after a command. -/
def after (i : Instr) (s : State) : State :=
  match exec i s with
  | .next t => t
  | _ => s

/-- A cell of field 0. -/
def c0 : CellId := mkCell 3 3
/-- Its neighbour to the east. -/
def c1 : CellId := mkCell 4 3

/-- Words held from address 0x20 on. -/
def heldWords (l : List Word14) : List HeldWord :=
  (List.range l.length).map fun k => ⟨BitVec.ofNat 13 (0x20 + k), l.getD k 0, true⟩

/-- A cell that runs with these words at its head. -/
def runs (l : List Word14) (v : Cell) : Cell := { v with run := .running, pc := 0x20, held := heldWords l }

/-- The state after reset with the instruction at the head of cell `c0`. -/
def ready (i : Instr) (v : Cell) : State := State.reset.setCell c0 (runs (encodeWords i) v)

/-- Registers s0 to s15 and v0 to v7 from lists. -/
def sregs (l : List Word) : Store Word := (List.range l.length).foldl (fun m k => Store.set 0 m k (l.getD k 0)) []
def vregs (l : List Vec512) : Store Vec512 := (List.range l.length).foldl (fun m k => Store.set 0 m k (l.getD k 0)) []

/-- The scalar register after an instruction's issue and its unit's completion. -/
def scalar (i : Instr) (v : Cell) (d : SReg) : Word := ((after (.unitCompletion c0 .scalar) (after i (ready i v))).cell c0).s d
def vector (i : Instr) (v : Cell) (d : VReg) : Vec512 := ((after (.unitCompletion c0 .vector) (after i (ready i v))).cell c0).v d

/-- A frame that decodes, and its control field. -/
def goodRx : RxQuality := ⟨true, false, true, true⟩
def ctl0 : FrameCtl := { spareValid := false, spareLane := 0, groups := 15, cr1 := 0, cr0 := 0, pace := false, nak := false, ack := 2, seq := 0 }

/-! ### Well-formedness refuses (R4, 03) -/

theorem test_wf_ids :
    (Instr.nop (mkCell 624 0)).wf = false ∧ (Instr.nop (mkCell 0 384)).wf = false ∧ (Instr.nop (mkCell 623 383)).wf = true ∧
    (Instr.latchOpSet 0x18000 (.cell 0)).wf = false ∧ (Instr.complete 0xC00 0).wf = false ∧ (Instr.dryEnd 96).wf = false ∧
    (Instr.fieldTrip 48 0 0).wf = false ∧ (Instr.fieldTrip 47 0 0).wf = true ∧ (Instr.descriptorFetch (.hub 48 0)).wf = false ∧
    (Instr.writeAck (.hub 0 0 78) 0).wf = false ∧ (Instr.writeAck (.cell (mkCell 624 0)) 0).wf = false ∧
    (Instr.registerRead (.cell (mkCell 624 0)) 0 false).wf = false ∧ (Instr.registerRead (.hub 48) 0 false).wf = false ∧
    (Instr.latchOpSet 0 (.hub 48 0)).wf = false ∧ (Instr.latchOpSet 0 (.cell (mkCell 624 0))).wf = false ∧
    (Instr.arrive 0 (.gate 0xC00) 0).wf = false ∧ (Instr.arrive 0 (.mill 0 0xC00) 0).wf = false ∧
    (Instr.fenceNotice (.cell 0) (.cell (mkCell 624 0))).wf = false ∧
    (Instr.fenceNotice (.cell 0) (.link (mkCell 624 0) 0)).wf = false ∧ (Instr.loopLockLoss 63).wf = false := by decide +kernel

theorem test_wf_scalar_operands :
    (Instr.add 0 1 2 (.imm 5)).wf = false ∧ (Instr.add 0 1 1 (.imm 2097152)).wf = false ∧
    (Instr.add 0 1 1 (.imm 2097151)).wf = true ∧ (Instr.mov 0 1 (.imm 0xFFDFFFFF)).wf = false ∧
    (Instr.cmp 0 1 (.imm 0x400000)).wf = false ∧ (Instr.maxu 0 1 2 (.imm 0)).wf = false ∧
    (Instr.lw 0 0 0 524288).wf = false ∧ (Instr.sh 0 0 0 (-524289)).wf = false ∧ (Instr.vld 0 0 0 524288).wf = false ∧
    (Instr.loop 0 0 0 (.imm 1)).wf = false ∧ (Instr.loop 0 0 1025 (.imm 1)).wf = false ∧
    (Instr.csrr 0 0 2).wf = false ∧ (Instr.csrw 0 0 0x31).wf = false ∧ (Instr.tpush 0 0 1 1).wf = false := by decide +kernel

theorem test_wf_vector_operands :
    (Instr.pop 0 true 8 0).wf = false ∧ (Instr.peek 0 true 9 0).wf = false ∧ (Instr.push 0 true 15 0).wf = false ∧
    (Instr.pop 0 false 8 0).wf = true ∧ (Instr.vadd 0 .int32 0 0 0).wf = false ∧ (Instr.vcle 0 .ch4 0 0 0).wf = false ∧
    (Instr.twosum 0 1 0 0).wf = false ∧ (Instr.twoprod 0 3 0 0).wf = false ∧ (Instr.vcvt 0 0 .ch16 .ch16 0 0).wf = false ∧
    (Instr.vcvt 0 7 .binary32 .ch16 0 0).wf = false ∧ (Instr.vbenc 0 .b32 .ch16 0 0 0 0).wf = false ∧
    (Instr.vbdec 0 .b64 .ch8e 0 0 0 6).wf = false ∧ (Instr.mldw 0 0 .binary32).wf = false ∧
    (Instr.mms 0 0 false 0 .ch8e false .s16x3 0).wf = false ∧ (Instr.mmt 0 0 0 .ch16 .ch8e false .real 0 0).wf = false ∧
    (Instr.mwb 0 0 0 .ch16 true false 0).wf = false ∧ (Instr.mwb 0 0 0 .ch6 false false 0).wf = false := by decide +kernel

theorem test_wf_lengths :
    (Instr.stream 0 0 0 0 0 0 (List.replicate 9 ⟨0, 0, 0⟩)).wf = false ∧ (Instr.readReq (.cell 0) (.cell 0x7FFFF) 0 0 0).wf = false ∧
    (Instr.writeReq (.cell 0) (.cell 1) 0 0 false []).wf = false ∧
    (Instr.writeReq (.cell 0) (.cell 1) 0 0 false (List.replicate 257 0)).wf = false ∧
    (Instr.readResp (.cell 0) 0 (List.replicate 257 0)).wf = false ∧
    (Instr.tableWrite (.cell 0) 0 0 (List.replicate 257 0)).wf = false ∧
    (Instr.pmem (.cell 0) 0 none 0 (List.replicate 129 0)).wf = false ∧
    (Instr.nitab (.cell 0) 0 none 0 (List.replicate 257 0)).wf = false ∧
    (Instr.hubRegisterWrite (.cell 0) 0 0 (List.replicate 257 0)).wf = false ∧
    (Instr.train 0 0 ctl0 goodRx ⟨false, 0, List.replicate 19 0⟩).wf = false ∧
    (Instr.scrub (.cell 0) 0 (some ⟨2, 1, 0, 0⟩)).wf = false ∧ (Instr.vecdef (.cell 0) 0 (some ⟨0, 0, 1, 0⟩)).wf = false ∧
    (Instr.tempSensorRead 0 (List.replicate 7 0)).wf = false ∧ (Instr.estimatorInterval [⟨0, List.replicate 13 0⟩]).wf = false ∧
    (Instr.estimatorInterval [⟨48, []⟩]).wf = false ∧ (Instr.supplyAlert (some 48)).wf = false ∧
    (Instr.selfTest [⟨0, 0, 80, true, true⟩] [] []).wf = false ∧ (Instr.selfTest [] [48] []).wf = false ∧
    (Instr.linkTraining [(mkCell 624 0, 0)] []).wf = false ∧ (Instr.cellProbe 0 [mkCell 624 0] []).wf = false := by decide +kernel

/-! ### Words of the spec (03, Worked example: an encoded dot-product loop; 02, Worked example: emulating a reserved vector
instruction) -/

theorem test_decode_dot_product :
    let c := c0
    decodeWords c [0x0110] = some (1, .instr (.b c 0x10)) ∧
    decodeWords c [0x2804, 0x2880, 0x0840] = some (3, .instr (.mov c 1 (.imm 0x4000))) ∧
    decodeWords c [0x1B00] = some (1, .instr (.vxor c 0 0 0)) ∧
    decodeWords c [0x2806, 0x0318] = some (2, .instr (.loop c 0 7 (.imm 24))) ∧
    decodeWords c [0x1C21] = some (1, .instr (.vld c 1 1 0)) ∧
    decodeWords c [0x2801, 0x1C41] = some (2, .instr (.vld c 2 1 1)) ∧
    decodeWords c [0x2802, 0x18C1] = some (2, .instr (.vfma c .binary32 0 1 2)) ∧
    decodeWords c [0x2802, 0x0840] = some (2, .instr (.add c 1 1 (.imm 128))) ∧
    decodeWords c [0x1D01] = some (1, .instr (.vst c 0 1 0)) ∧
    decodeWords c [0x3240] = some (1, .instr (.halt c)) := by
  decide +kernel

/-- The stub of cause 2 lies at 0x1FE4: 0x2BF8 followed by 0x011C, a displacement of −996 (02, R37). -/
theorem test_decode_stub : decodeWords c0 [0x2BF8, 0x011C] = some (2, .instr (.b c0 (BitVec.ofInt 13 (-996)))) := by decide +kernel


/-! ### Issue and completion -/

/-- The premises of `ComesToIssue` for the instruction at the head of `c0`. -/
def comes (i : Instr) (s : State) : Bool :=
  s.canRun c0 && !(s.cell c0).arithDue && (s.cell c0).held.head?.map HeldWord.addr == some 0x20 &&
    (s.cell c0).head c0 == some ((encodeWords i).length, .instr i) && !(s.cell c0).headBreaks (encodeWords i).length &&
    (s.cell c0).sourcesReady (regUse i) && (s.cell c0).destsFree (regUse i)

theorem comes_to {i : Instr} {s : State} (h : comes i s = true) : s.ComesToIssue c0 i 0x20 (encodeWords i).length := by
  simp only [comes, Bool.and_eq_true, Bool.not_eq_true', beq_iff_eq] at h
  obtain ⟨⟨⟨⟨⟨⟨h1, h2⟩, h3⟩, h4⟩, h5⟩, h6⟩, h7⟩ := h
  exact ⟨h1, h2, h3, h4, h5, h6, h7⟩

/-- Scalar registers of the tests: s1 = 5, s2 = −7, s3 = 0x80000000. -/
def vs : Cell := { sregs := sregs [0, 5, 0xFFFFFFF9, 0x80000000, 0xFFFFFFFF] }

/-- Scalar instructions that come to issue (witness of ScalarAlu, ConditionBits and UnitCompletions). -/
theorem witness_scalar : ∀ i ∈ ([.add c0 5 1 (.reg 2), .addi c0 1 0x3F, .sub c0 5 1 2, .mov c0 5 (.imm 0x3FFFF), .movh c0 1 0x1234,
      .cmp c0 1 (.reg 2), .and c0 5 1 (.reg 2), .or c0 5 1 (.reg 2), .xor c0 1 1 (.imm 0xFFFFFFFF), .shl c0 5 1 (.reg 2), .shr c0 5 3 (.reg 1),
      .sra c0 5 3 (.reg 1), .mul c0 5 1 (.reg 2), .mulh c0 5 1 2, .min c0 5 1 (.reg 2), .max c0 5 1 (.reg 2), .minu c0 5 1 (.reg 2),
      .maxu c0 5 1 (.reg 2), .crd c0 2 5] : List Instr),
    (ready i vs).ComesToIssue c0 i 0x20 (encodeWords i).length ∧ (aluResult ((ready i vs).cell c0) 0x20 i).isSome = true ∧
      ∀ x ∈ ((ready i vs).cell c0).results, x.unit ≠ .scalar := by
  have h : ∀ i ∈ ([.add c0 5 1 (.reg 2), .addi c0 1 0x3F, .sub c0 5 1 2, .mov c0 5 (.imm 0x3FFFF), .movh c0 1 0x1234,
      .cmp c0 1 (.reg 2), .and c0 5 1 (.reg 2), .or c0 5 1 (.reg 2), .xor c0 1 1 (.imm 0xFFFFFFFF), .shl c0 5 1 (.reg 2), .shr c0 5 3 (.reg 1),
      .sra c0 5 3 (.reg 1), .mul c0 5 1 (.reg 2), .mulh c0 5 1 2, .min c0 5 1 (.reg 2), .max c0 5 1 (.reg 2), .minu c0 5 1 (.reg 2),
      .maxu c0 5 1 (.reg 2), .crd c0 2 5] : List Instr),
      comes i (ready i vs) = true ∧ (aluResult ((ready i vs).cell c0) 0x20 i).isSome = true ∧
        ∀ x ∈ ((ready i vs).cell c0).results, x.unit ≠ .scalar := by decide +kernel
  exact fun i hi => ⟨comes_to (h i hi).1, (h i hi).2⟩

/-- Scalar results (R79). -/
theorem test_scalar_values :
    scalar (.add c0 5 1 (.reg 2)) vs 5 = 0xFFFFFFFE ∧ scalar (.addi c0 1 0x3F) vs 1 = 4 ∧ scalar (.sub c0 5 1 2) vs 5 = 12 ∧
    scalar (.mov c0 5 (.imm 0x3FFFF)) vs 5 = 0x3FFFF ∧ scalar (.movh c0 1 0x1234) vs 1 = 0x12340005 ∧
    scalar (.xor c0 1 1 (.imm 0xFFFFFFFF)) vs 1 = 0xFFFFFFFA ∧ scalar (.and c0 5 1 (.reg 2)) vs 5 = 1 ∧
    scalar (.or c0 5 1 (.reg 2)) vs 5 = 0xFFFFFFFD ∧ scalar (.shl c0 5 1 (.reg 1)) vs 5 = 0xA0 ∧
    scalar (.shr c0 5 3 (.reg 2)) vs 5 = 0x40 ∧ scalar (.sra c0 5 3 (.reg 1)) vs 5 = 0xFC000000 := by decide +kernel
theorem test_scalar_products :
    scalar (.mul c0 5 1 (.reg 2)) vs 5 = 0xFFFFFFDD ∧ scalar (.mulh c0 5 1 2) vs 5 = 0xFFFFFFFF ∧
    scalar (.mulh c0 5 3 3) vs 5 = 0x40000000 ∧ scalar (.min c0 5 1 (.reg 2)) vs 5 = 0xFFFFFFF9 ∧
    scalar (.max c0 5 1 (.reg 2)) vs 5 = 5 ∧ scalar (.minu c0 5 1 (.reg 2)) vs 5 = 5 ∧
    scalar (.maxu c0 5 1 (.reg 2)) vs 5 = 0xFFFFFFF9 := by decide +kernel

/-- Condition bits at the edges (R80). -/
theorem test_cond_bits :
    CondBits.ofAdd 0x7FFFFFFF 1 = ⟨false, true, false, true⟩ ∧ CondBits.ofAdd 0xFFFFFFFF 1 = ⟨true, false, true, false⟩ ∧
    CondBits.ofSub 0x80000000 1 = ⟨false, false, true, true⟩ ∧ CondBits.ofSub 0 1 = ⟨false, true, false, false⟩ ∧
    CondBits.ofSub 7 7 = ⟨true, false, true, false⟩ := by decide +kernel
theorem test_cond_kept :
    ((after (.unitCompletion c0 .scalar) (after (.and c0 5 1 (.reg 2)) (ready (.and c0 5 1 (.reg 2))
      { vs with cond := ⟨true, true, true, true⟩ }))).cell c0).cond = ⟨false, false, true, true⟩ := by decide +kernel

/-! ### Control flow (02) -/

/-- A cell with a full return stack, with loop c0 active to 0x20, and with s1 = 0x1FFF. -/
def vc : Cell := { sregs := sregs [0, 0x1FFF, 0], rstack := [0x300] }
def vcFull : Cell := { vc with rstack := List.replicate 8 0x300 }

theorem witness_control : ∀ i ∈ ([.nop c0, .ret c0, .jr c0 1, .callr c0 1, .call c0 0x10, .b c0 0x1FF0, .bcc c0 .ne 4,
      .loop c0 1 1 (.imm 0), .loop c0 1 1024 (.reg 1), .lexit c0 0, .cwr c0 3 1] : List Instr),
    (ready i vc).ComesToIssue c0 i 0x20 (encodeWords i).length := by
  have h : ∀ i ∈ ([.nop c0, .ret c0, .jr c0 1, .callr c0 1, .call c0 0x10, .b c0 0x1FF0, .bcc c0 .ne 4,
      .loop c0 1 1 (.imm 0), .loop c0 1 1024 (.reg 1), .lexit c0 0, .cwr c0 3 1] : List Instr), comes i (ready i vc) = true := by
    decide +kernel
  exact fun i hi => comes_to (h i hi)

theorem test_control_targets :
    ((after (.b c0 0x1FF0) (ready (.b c0 0x1FF0) vc)).cell c0).pc = 0x10 ∧
    ((after (.ret c0) (ready (.ret c0) vc)).cell c0).pc = 0x300 ∧
    ((after (.jr c0 1) (ready (.jr c0 1) vc)).cell c0).pc = 0x1FFF ∧
    ((after (.call c0 0x10) (ready (.call c0 0x10) vc)).cell c0).rstack = [0x22, 0x300] ∧
    ((after (.bcc c0 .ne 4) (ready (.bcc c0 .ne 4) vc)).cell c0).pc = 0x24 ∧
    ((after (.bcc c0 .eq 4) (ready (.bcc c0 .eq 4) vc)).cell c0).pc = 0x22 := by decide +kernel

/-- STACK_OVF at 8 entries and STACK_UNF at none; the stack stays (R39). -/
theorem test_return_stack :
    let t := after (.call c0 0x10) (ready (.call c0 0x10) vcFull)
    let u := after (.ret c0) (ready (.ret c0) { vc with rstack := [] })
    (t.cell c0).cause = 3 ∧ (t.cell c0).rstack = List.replicate 8 0x300 ∧ (t.cell c0).pc = 3 ∧ (t.cell c0).epc = 0x20 ∧
    (u.cell c0).cause = 4 ∧ (u.cell c0).rstack = [] := by decide +kernel

/-- The end test of R40 at the last word of a body, with counts of 24, 1 and 0. -/
theorem test_loop_end :
    let v (n : BitVec 24) : Cell := (({ loopOrder := [0] } : Cell).setLoop 0 ⟨n, 0x16, 0x20, true⟩)
    ((v 24).leaveWord 0x20).2 = 0x16 ∧ (((v 24).leaveWord 0x20).1.loop 0).count = 23 ∧
    ((v 1).leaveWord 0x20).2 = 0x21 ∧ (((v 1).leaveWord 0x20).1.loop 0).active = false ∧
    ((v 0).leaveWord 0x20).2 = 0x21 ∧ (((v 0).leaveWord 0x20).1.loop 0).count = 0 ∧
    ({ v 24 with intrap := true }.leaveWord 0x20).2 = 0x21 := by decide +kernel

/-- LOOP c0, 24 with a body of 7 words: the loop runs from 0x22 to 0x28. -/
theorem test_loop_setup :
    ((after (.loop c0 0 7 (.imm 24)) (State.reset.setCell c0 (runs [0x2806, 0x0318] {}))).cell c0).loop 0 = ⟨24, 0x22, 0x28, true⟩ := by decide +kernel
theorem test_loop_zero_trips :
    ((after (.loop c0 0 7 (.imm 0)) (State.reset.setCell c0 (runs [0x2806, 0x0300] {}))).cell c0).pc = 0x29 := by decide +kernel

/-! ### Traps (02) -/

/-- CL_TRAP_RAW of the words 0x2A13, 0x1BC5 (02, Worked example: emulating a reserved vector instruction). -/
theorem test_trap_raw : rawOf [0x2A13, 0x1BC5] = 0x80006F16A13#64 := by decide +kernel

/-- A reserved word at the head traps of itself once its words are held: RSV_SUB at its first address. -/
theorem test_reserved_traps :
    let s := State.reset.setCell c0 { run := .running, pc := 0x245, held := [⟨0x245, 0x2A13, true⟩] }
    let t := after (.fetch c0) { s with pmemAll := [(0x246, 0x1BC5)] }
    (t.cell c0).cause = 2 ∧ (t.cell c0).epc = 0x245 ∧ (t.cell c0).raw = 0x80006F16A13#64 ∧ (t.cell c0).intrap = true ∧
      (t.cell c0).pc = 2 := by decide +kernel

theorem witness_traps : ∀ i ∈ ([.trap c0 5, .tret c0, .tretSkip c0, .halt c0] : List Instr),
    (ready i { epc := 0x245, raw := 0x80006F16A13#64 }).ComesToIssue c0 i 0x20 (encodeWords i).length ∧
    (ready i { intrap := true, epc := 0x245 }).ComesToIssue c0 i 0x20 (encodeWords i).length := by
  have h : ∀ i ∈ ([.trap c0 5, .tret c0, .tretSkip c0, .halt c0] : List Instr),
      comes i (ready i { epc := 0x245, raw := 0x80006F16A13#64 }) = true ∧
        comes i (ready i { intrap := true, epc := 0x245 }) = true := by decide +kernel
  exact fun i hi => ⟨comes_to (h i hi).1, comes_to (h i hi).2⟩

theorem test_trap_return :
    let v : Cell := { intrap := true, epc := 0x245, raw := 0x80006F16A13#64 }
    ((after (.tret c0) (ready (.tret c0) v)).cell c0).pc = 0x245 ∧
    ((after (.tretSkip c0) (ready (.tretSkip c0) v)).cell c0).pc = 0x247 ∧
    ((after (.tretSkip c0) (ready (.tretSkip c0) { v with intrap := false })).cell c0).cause = 2 ∧
    ((after (.trap c0 5) (ready (.trap c0 5) {})).cell c0).info = 5 := by decide +kernel

/-- A double trap stops the cell in FAULTED and keeps the first trap's record (R55). -/
theorem test_double_trap :
    let t := after (.trap c0 5) (ready (.trap c0 5) { intrap := true, epc := 0x245, cause := 2 })
    (t.cell c0).run = .faulted ∧ (t.cell c0).cause = 2 ∧ (t.cell c0).epc = 0x245 ∧ t.faultSeq = 1 := by decide +kernel

/-- The arithmetic trap (R51): EPC is the next instruction, INFO the one that set the flag. -/
theorem test_arith_trap :
    let s := State.reset.setCell c0 { run := .running, pc := 0x21, arith := some 0x20 }
    (s.canRun c0 = true ∧ (s.cell c0).intrap = false) ∧ ((after (.arithTrap c0) s).cell c0).epc = 0x21 ∧
      ((after (.arithTrap c0) s).cell c0).info = 0x20 ∧ ((after (.arithTrap c0) s).cell c0).pc = 11 := by decide +kernel

/-- A word with a wrong parity bit traps with PMEM_PARITY, and the hub counts it (R38); a breakpoint comes before it (R52). -/
theorem test_head_settles :
    let v : Cell := { run := .running, pc := 0x20, held := [⟨0x20, 0, false⟩] }
    let s := State.reset.setCell c0 v
    let b := State.reset.setCell c0 { v with bkptEn := true, bkptAddr := 0x20 }
    ((s.settle c0).cell c0).cause = 12 ∧ ((s.settle c0).hub 0).pmemErrs = 1 ∧ ((b.settle c0).cell c0).cause = 14 := by
  decide +kernel

theorem test_halt :
    ((after (.halt c0) (ready (.halt c0) {})).cell c0).run = .halted := by decide +kernel

/-! ### CSRs and wains (02, 10) -/

theorem witness_csr : ∀ i ∈ ([.csrr c0 1 0x48, .csrr c0 1 0x7C, .csrw c0 1 0x48, .csrw c0 1 0x7C] : List Instr),
    (ready i vs).ComesToIssue c0 i 0x20 (encodeWords i).length := by
  have h : ∀ i ∈ ([.csrr c0 1 0x48, .csrr c0 1 0x7C, .csrw c0 1 0x48, .csrw c0 1 0x7C] : List Instr),
      comes i (ready i vs) = true := by decide +kernel
  exact fun i hi => comes_to (h i hi)

theorem test_csr :
    scalar (.csrr c0 1 0x48) vs 1 = 0xFFFF ∧ ((after (.csrw c0 1 0x48) (ready (.csrw c0 1 0x48) vs)).cell c0).vmask = 5 ∧
    ((after (.csrr c0 1 0x7C) (ready (.csrr c0 1 0x7C) vs)).cell c0).cause = 10 ∧
    ((after (.csrw c0 1 0x30) (ready (.csrw c0 1 0x30) { vs with aflags := 0x3F })).cell c0).aflags = 0x3A := by decide +kernel

/-- A cell of plot 2 whose hub wain 3 is the plot's. -/
def wainState (i : Instr) (a : Word) : State :=
  (ready i { sregs := sregs [0, a], owner := 2 }).setWain 3 { owner := 2 }

theorem witness_wgo : (wainState (.wgo c0 3 1) 0x1FFFC0).ComesToIssue c0 (.wgo c0 3 1) 0x20 1 :=
  comes_to (i := .wgo c0 3 1) (by decide +kernel)
theorem test_wgo :
    ((after (.wgo c0 3 1) (wainState (.wgo c0 3 1) 0x1FFFC0)).wain 3).state = .running ∧
    ((after (.wgo c0 3 1) (wainState (.wgo c0 3 1) 0x200000)).cell c0).cause = 5 ∧
    ((after (.wgo c0 3 1) (wainState (.wgo c0 3 1) 0x20)).cell c0).cause = 6 ∧
    ((after (.wgo c0 4 1) (wainState (.wgo c0 4 1) 0)).cell c0).cause = 9 ∧
    (((after (.unitCompletion c0 .scalar) (after (.wstat c0 3 1) (wainState (.wstat c0 3 1) 0)))).cell c0).s 1 = 0 := by
  decide +kernel


/-! ### Loft access (03, 06) -/

/-- Registers for loads and stores: s1 = 0x40, s2 = 0x12345678, s3 = 0x1FFFFC. -/
def vm : Cell := { sregs := sregs [0, 0x40, 0x12345678, 0x1FFFFC], vregs := vregs [0, BitVec.ofNat 512 (2 ^ 512 - 1)], vmask := 0x0003 }
/-- The cell in a bay-mode plot of 4 × 6 cells at its bay's corner. -/
def bayState (i : Instr) : State :=
  (ready i { vm with owner := 1 }).setPlot 1 { state := .running, bay := true, width := 4, height := 6, lx := 3, ly := 3 }

theorem witness_loft : ∀ i ∈ ([.lw c0 5 1 1, .lh c0 5 1 (-1), .vld c0 2 1 1, .sw c0 2 1 1, .sh c0 2 1 1, .vst c0 1 1 0, .lw c0 5 3 1,
      .sw c0 5 1 (-17), .lw c0 5 2 0] : List Instr),
    (ready i vm).ComesToIssue c0 i 0x20 (encodeWords i).length ∧ (bayState i).ComesToIssue c0 i 0x20 (encodeWords i).length := by
  have h : ∀ i ∈ ([.lw c0 5 1 1, .lh c0 5 1 (-1), .vld c0 2 1 1, .sw c0 2 1 1, .sh c0 2 1 1, .vst c0 1 1 0, .lw c0 5 3 1,
      .sw c0 5 1 (-17), .lw c0 5 2 0] : List Instr), comes i (ready i vm) = true ∧ comes i (bayState i) = true := by decide +kernel
  exact fun i hi => ⟨comes_to (h i hi).1, comes_to (h i hi).2⟩

/-- Places at the limits (R81, R186, R187). -/
theorem test_loft_places :
    (ready (.nop c0) vm).loftPlace c0 0x1FFFFC 0 4 = .at_ c0 0x1FFFFC ∧
    (ready (.nop c0) vm).loftPlace c0 0x1FFFFC 1 4 = .trap 5 0x200000 ∧
    (ready (.nop c0) vm).loftPlace c0 0 (-1) 4 = .trap 5 0xFFFFFFFC ∧ (ready (.nop c0) vm).loftPlace c0 2 0 4 = .trap 6 2 ∧
    (bayState (.nop c0)).loftPlace c0 64 0 4 = .at_ c1 0 ∧ (bayState (.nop c0)).loftPlace c0 (64 * 24) 0 4 = .at_ c0 64 ∧
    (bayState (.nop c0)).loftPlace c0 0x1FFFC0 0 4 = .at_ c0 0x1FFFC0 ∧
    (bayState (.nop c0)).loftPlace c0 0x3000000 0 4 = .trap 5 0x3000000 := by decide +kernel

theorem test_loft_store_load :
    let t := after (.sw c0 2 1 1) (ready (.sw c0 2 1 1) vm)
    t.loft = [(loftKey c0 0x44, 0x78), (loftKey c0 0x45, 0x56), (loftKey c0 0x46, 0x34), (loftKey c0 0x47, 0x12)] ∧
    (after (.sh c0 2 1 1) (ready (.sh c0 2 1 1) vm)).loft = [(loftKey c0 0x42, 0x78), (loftKey c0 0x43, 0x56)] ∧
    (after (.vst c0 1 1 0) (ready (.vst c0 1 1 0) vm)).loft = (List.range 8).map (fun k => (loftKey c0 (0x40 + k), 0xFF)) ∧
    scalar (.lw c0 5 1 1) vm 5 = 0 ∧
    ((after (.unitCompletion c0 .scalar) (after (.lh c0 5 1 1)
      { ready (.lh c0 5 1 1) vm with loft := [(loftKey c0 0x42, 0x78), (loftKey c0 0x43, 0x96)] })).cell c0).s 5 = 0x9678 := by
  decide +kernel

/-- A masked lane of VLD keeps its value (R87). -/
theorem test_vld_mask :
    vector (.vld c0 1 1 0) vm 1 = BitVec.ofNat 512 ((2 ^ 512 - 1) / 2 ^ 64 * 2 ^ 64) := by decide +kernel

/-- An uncorrectable word raises LOFT_ECC for a load; an unclaimed window refuses a store and counts it (R167, R181). -/
theorem test_loft_refusals :
    let s := { ready (.lw c0 5 1 0) vm with loftErr := [(wordKey c0 0x40, 2)] }
    let u := { ready (.sw c0 2 1 0) vm with
      residents := [{ key := 0, lx := 3, ly := 3, width := 1, height := 1, start := 0, len := 0x42, claimed := false, damaged := false }] }
    ((after (.lw c0 5 1 0) s).cell c0).cause = 7 ∧ ((after (.lw c0 5 1 0) s).hub 0).uecnt = 1 ∧ u.refusedRange c0 0x40 4 = true ∧
      (after (.sw c0 2 1 0) u).loft = [(loftKey c0 0x42, 0x34), (loftKey c0 0x43, 0x12)] ∧
      ((after (.sw c0 2 1 0) u).hub 0).resviol = 1 := by decide +kernel

/-- In a bay, a load and a store of another cell travel as requests (R188). -/
theorem test_bay_requests :
    let t := after (.lw c0 5 1 0) (bayState (.lw c0 5 1 0))
    (t.cell c0).bayLoads.length = 1 ∧ t.net.length = 1 ∧
    ((after (.sw c0 2 1 0) (bayState (.sw c0 2 1 0))).cell c0).bayStores.length = 1 := by decide +kernel

/-! ### Vectors (03, 04) -/

/-- 16 binary32 elements from a list, the rest +0. -/
def lanes (l : List Nat) : Vec512 := BitVec.ofNat 512 (((List.range 16).map fun k => l.getD k 0 * 2 ^ (32 * k)).sum)
/-- v1 = 1.0, 2.0, −3.5 and v2 = 0.5, +Inf, 2^-20; the whole mask. -/
def vv : Cell := { vregs := vregs [0, lanes [0x3F800000, 0x40000000, 0xC0600000], lanes [0x3F000000, 0x7F800000, 0x35800000]] }

theorem witness_vector : ∀ i ∈ ([.vadd c0 .binary32 3 1 2, .vsub c0 .ch16 3 1 2, .vmul c0 .ch8e 3 1 2, .vfma c0 .ch8m 3 1 2,
      .vfnma c0 .binary32 3 1 2, .vmin c0 .binary32 3 1 2, .vmax c0 .ch16 3 1 2, .vceq c0 .binary32 3 1 2, .vclt c0 .binary32 3 1 2,
      .vcle c0 .ch8e 3 1 2, .vand c0 3 1 2, .vor c0 3 1 2, .vxor c0 3 1 2, .twosum c0 4 1 2, .twoprod c0 6 1 2,
      .vcvt c0 0 .binary32 .ch16 3 1, .vbenc c0 .b16 .ch8m 2 2 4 1, .vbdec c0 .b64 .ch4 2 1 4 0] : List Instr),
    (ready i vv).ComesToIssue c0 i 0x20 (encodeWords i).length := by
  have h : ∀ i ∈ ([.vadd c0 .binary32 3 1 2, .vsub c0 .ch16 3 1 2, .vmul c0 .ch8e 3 1 2, .vfma c0 .ch8m 3 1 2,
      .vfnma c0 .binary32 3 1 2, .vmin c0 .binary32 3 1 2, .vmax c0 .ch16 3 1 2, .vceq c0 .binary32 3 1 2, .vclt c0 .binary32 3 1 2,
      .vcle c0 .ch8e 3 1 2, .vand c0 3 1 2, .vor c0 3 1 2, .vxor c0 3 1 2, .twosum c0 4 1 2, .twoprod c0 6 1 2,
      .vcvt c0 0 .binary32 .ch16 3 1, .vbenc c0 .b16 .ch8m 2 2 4 1, .vbdec c0 .b64 .ch4 2 1 4 0] : List Instr),
      comes i (ready i vv) = true := by decide +kernel
  exact fun i hi => comes_to (h i hi)

theorem test_vector_values :
    vector (.vadd c0 .binary32 3 1 2) vv 3 = lanes [0x3FC00000, 0x7F800000, 0xC05FFFFC] ∧
    vector (.vmul c0 .binary32 3 1 2) vv 3 = lanes [0x3F000000, 0x7F800000, 0xB6600000] ∧
    vector (.vmin c0 .binary32 3 1 2) vv 3 = lanes [0x3F000000, 0x40000000, 0xC0600000] ∧
    vector (.vxor c0 3 1 1) vv 3 = 0 := by decide +kernel
/-- TWOSUM of 1.0 and 2^-30: the sum is 1.0 and the error 2^-30 (R115). -/
theorem test_twosum :
    let v : Cell := { vregs := vregs [0, lanes [0x3F800000], lanes [0x30800000]] }
    vector (.twosum c0 4 1 2) v 4 = lanes [0x3F800000] ∧ vector (.twosum c0 4 1 2) v 5 = lanes [0x30800000] := by decide +kernel

/-- 04, Worked example: one huge element. -/
theorem test_block_encode :
    let v : Cell := { vregs := vregs [0, lanes [0x4A371B00, 0x3F800000, 0xBF400000, 0x469C4000, 0xC7435000, 0x42C80000, 0x40800000,
      0x7F800000]] }
    let t := after (.unitCompletion c0 .vector) (after (.vbenc c0 .b16 .ch8m 2 0 4 1) (ready (.vbenc c0 .b16 .ch8m 2 0 4 1) v))
    bits ((t.cell c0).v 4) 127 0 = 0x780003C43A800073 ∧ (t.cell c0).s 2 = 0x8D ∧ (t.cell c0).blcount = 3 := by decide +kernel

/-- 04, Worked example: an all-zero block. -/
theorem test_block_zero :
    let v : Cell := { vregs := vregs [0, lanes [0, 0, 0, 0x80000000, 0, 1, 0, 0, 0, 0x80000000, 0, 0, 0x80000003]] }
    let t := after (.unitCompletion c0 .vector) (after (.vbenc c0 .b16 .ch8m 2 0 4 1) (ready (.vbenc c0 .b16 .ch8m 2 0 4 1) v))
    bits ((t.cell c0).v 4) 127 0 = 0x80000080000000000080000000 ∧ (t.cell c0).s 2 = 0 ∧ (t.cell c0).blcount = 0 := by decide +kernel


/-! ### The matrix array (05) -/

/-- Shape register for M = 1, N = 1, K = 1 in s2, operand address 0 in s1. -/
def va : Cell := { sregs := sregs [0, 0, 0x4201, 0x80] }
/-- CH16 weight tiles with W[0][0] in the working and the shadow tile. -/
def vmat (w u : Nat) : Cell :=
  { va with working := { type := .ch16, rows := BitVec.ofNat 2048 w }, shadow := { type := .ch16, rows := BitVec.ofNat 2048 u } }
/-- Loft bytes of `c0` at an address. -/
def loftAt (l : List (Nat × Nat)) : Memory := l.foldl (fun m e => m.writeBytes (loftKey c0 e.1) (leBytes 4 e.2)) []

theorem witness_matrix : ∀ i ∈ ([.mldw c0 1 .ch8e, .mswap c0, .mms c0 0 false 1 .ch16 false .real 2, .mms c0 3 true 1 .ch16 true .cx4 2,
      .mmt c0 0 1 .ch16 .ch16 false .real 3 2, .mwb c0 0 1 .binary32 true false 2, .mclr c0 1] : List Instr),
    (ready i (vmat 0 0)).ComesToIssue c0 i 0x20 (encodeWords i).length := by
  have h : ∀ i ∈ ([.mldw c0 1 .ch8e, .mswap c0, .mms c0 0 false 1 .ch16 false .real 2, .mms c0 3 true 1 .ch16 true .cx4 2,
      .mmt c0 0 1 .ch16 .ch16 false .real 3 2, .mwb c0 0 1 .binary32 true false 2, .mclr c0 1] : List Instr),
      comes i (ready i (vmat 0 0)) = true := by decide +kernel
  exact fun i hi => comes_to (h i hi)

/-- 05, Worked example: split-16x3: the element holds 1 − 2^-20, written back as 0x3F7FFFF0. -/
theorem test_split :
    let i : Instr := .mms c0 0 false 1 .ch16 false .s16x3 2
    let t := after (.productComplete c0) (after (.lastInputRowTaken c0) (after i
      { ready i (vmat 0x4080 0) with loft := loftAt [(0, 0x3EAAAAAB)] }))
    let j : Instr := .mwb c0 0 1 .binary32 false true 2
    let u := after (.mwbComplete c0) (after j (t.setCell c0 (runs (encodeWords j) { t.cell c0 with board := [] })))
    u.loft.readBytes (loftKey c0 0) 4 = [0xF0, 0xFF, 0x7F, 0x3F] := by decide +kernel

/-- 05, Worked example: a complex product: CX4 gives 2^40 and +0, CX3 2^40 and −9 (A40 codes). -/
theorem test_complex :
    let run (pm : PassMode) : Cell :=
      let i : Instr := .mms c0 3 false 1 .ch16 false pm 2
      (after (.productComplete c0) (after (.lastInputRowTaken c0) (after i
        { ready i (vmat 0x5300 0xC080) with loft := loftAt [(0, 0x5300), (64, 0x4080)] }))).cell c0
    Store.get 0 ((run .cx4).tile 3).elems 0 = 0x44E0000000#40 ∧ Store.get 0 ((run .cx4).tile 0).elems 0 = 0 ∧
    Store.get 0 ((run .cx3).tile 3).elems 0 = 0x44E0000000#40 ∧ Store.get 0 ((run .cx3).tile 0).elems 0 = 0xC044000000#40 := by
  decide +kernel

/-- Completions of the array (R138, R150, R158). -/
theorem test_matrix_events :
    let s := State.reset.setCell c0 { filling := some { type := .ch4 }, board := [⟨0, 192, false, .load⟩] }
    ((after (.shadowFull c0) s).cell c0).shadow.type = .ch4 ∧ ((after (.shadowFull c0) s).cell c0).board = [] ∧
    ((after (.mldw c0 1 .ch8e) (ready (.mldw c0 1 .ch8e) va)).cell c0).board = [⟨0, 192, false, .load⟩] ∧
    ((after (.stagingComplete c0) (after (.mmt c0 0 1 .ch16 .ch16 false .real 3 2)
      (ready (.mmt c0 0 1 .ch16 .ch16 false .real 3 2) (vmat 0 0)))).cell c0).products.length = 1 := by decide +kernel

/-! ### Queues and channels (07) -/

/-- Queue 1 is scalar and holds a token of kind 2 behind a data flit; channel 0 feeds queue 1 of cell (1, 0) of its plot. -/
def vq : Cell :=
  { owner := 1
    queues := [(1, { cfg := 0x8000000000000000#64, buf := [⟨0, 0, 0x99⟩, ⟨3, 0, 2⟩] }), (2, { cfg := 0x8000000000000000#64 }),
      (3, { cfg := 0xC000000000000000#64, buf := [⟨1, 0, 1⟩] }), (4, { cfg := 0x8000000000000000#64, buf := [⟨3, 0, 2⟩] })]
    chans := [(0, { cfg := BitVec.ofNat 128 (1 + 1 * 2 ^ 16 + 1 * 2 ^ 32), credits := 1 }), (1, { cfg := 1, stopped := true, credits := 9 })] }
/-- The cell in a plot of two cells, the second fed by it. -/
def qState (i : Instr) : State :=
  ({ ready i vq with ni := { origins := [(1, c0)] } }.setPlot 1
    { state := .running, width := 2, height := 1, lx := 3, ly := 3 }).setCell c1
      { owner := 1, queues := [(1, { cfg := 0x8000000000000000#64 })] }

theorem witness_queue : ∀ i ∈ ([.pop c0 false 5 1, .pop c0 false 5 2, .pop c0 true 5 3, .pop c0 false 5 7, .peek c0 false 5 1, .peek c0 true 5 1,
      .drop c0 1, .drop c0 7, .ttest c0 5 4, .ttest c0 5 2, .push c0 false 5 0, .push c0 true 5 0, .push c0 false 5 1, .tpush c0 0 3 9,
      .tpush c0 2 1 0] : List Instr), (qState i).ComesToIssue c0 i 0x20 (encodeWords i).length := by
  have h : ∀ i ∈ ([.pop c0 false 5 1, .pop c0 false 5 2, .pop c0 true 5 3, .pop c0 false 5 7, .peek c0 false 5 1, .peek c0 true 5 1,
      .drop c0 1, .drop c0 7, .ttest c0 5 4, .ttest c0 5 2, .push c0 false 5 0, .push c0 true 5 0, .push c0 false 5 1, .tpush c0 0 3 9,
      .tpush c0 2 1 0] : List Instr), comes i (qState i) = true := by decide +kernel
  exact fun i hi => comes_to (h i hi)

theorem test_queue_reads :
    let q (i : Instr) := after i (qState i)
    let w (i : Instr) := ((after (.unitCompletion c0 .scalar) (q i)).cell c0).s 5
    w (.pop c0 false 5 1) = 0x99 ∧ (((q (.pop c0 false 5 1)).cell c0).queue 1).freed = 1 ∧ w (.peek c0 false 5 4) = 0x80000003 ∧
    (q (.pop c0 false 5 2)) = qState (.pop c0 false 5 2) ∧ (q (.pop c0 true 5 3)) = qState (.pop c0 true 5 3) ∧
    ((q (.pop c0 false 5 7)).cell c0).cause = 8 ∧ ((q (.peek c0 true 5 1)).cell c0).cause = 8 ∧
    (((q (.drop c0 1)).cell c0).queue 1).buf.length = 1 := by decide +kernel

theorem test_queue_writes :
    let q (i : Instr) := after i (qState i)
    (q (.push c0 false 5 0)).net.length = 1 ∧ (((q (.push c0 false 5 0)).cell c0).chan 0).credits = 0 ∧
    ((q (.push c0 true 5 0)).cell c0).cause = 8 ∧ q (.push c0 false 5 1) = qState (.push c0 false 5 1) ∧
    ((q (.tpush c0 2 1 0)).cell c0).cause = 8 ∧ (((q (.tpush c0 0 3 9)).cell c0).chan 0).credits = 0 := by decide +kernel

/-- A pushed flit arrives, a stale one does not; the freed slot returns to its producer as a credit. -/
theorem test_stream_and_credit :
    let s := { after (.push c0 false 5 0) (qState (.push c0 false 5 0)) with net := [] }
    let t := after (.stream c1 c0 1 1 0 1 [⟨0, 0, 0⟩]) s
    let u := after (.stream c1 c0 1 1 0 1 [⟨0, 5, 0⟩]) s
    ((t.cell c1).queue 1).buf = [⟨0, 0, 0⟩] ∧ ((u.cell c1).queue 1).buf = [] ∧ (u.plot 1).stale = 1 ∧
    s.upstream c1 1 = some (c0, c0, 0, false, true) ∧
    (((after (.credit c0 3 0 0 false 1 c1 1) s).cell c0).chan 0).credits = 3 ∧
    (((after (.credit c0 3 7 0 false 1 c1 1) s).cell c0).chan 0).credits = 0 := by decide +kernel
/-- A locked-out cell drops a flit and returns its credit (R260). -/
theorem test_stream_locked_out :
    let s := (qState (.nop c0)).modCell c1 fun v => { v with lockedOut := true }
    let t := after (.stream c1 c0 1 1 0 1 [⟨0, 5, 0⟩]) s
    t.net.map (·.body) = [.credit 1 5 0 false 1] ∧ (t.plot 1).fenceDrop = 1 := by decide +kernel
theorem test_credit_return :
    let s := (qState (.nop c0)).modCell c1 fun v => v.setQueue 1 { v.queue 1 with freed := 4 }
    let t := after (.creditReturn c1 1) s
    ((t.cell c1).queue 1).freed = 0 ∧ t.net.map (·.body) = [.credit 4 0 0 false 1] := by decide +kernel
/-- A span of two: the far queue returns its slots to the near one, whose pairs reach the channel; a far cell that is locked
out returns the credits of dropped flits, and of the flits that its queue holds (R207, R260). -/
theorem test_span_credits :
    let chan : Chan := { cfg := BitVec.ofNat 128 (1 + 2 * 4 + 1 * 2 ^ 16 + 1 * 2 ^ 32) }
    let s := ((qState (.nop c0)).modCell c0 fun v => (v.setChan 0 chan).setQueue 1 { v.queue 1 with freed := 3 }).modCell c1 fun v =>
      v.setQueue 1 { v.queue 1 with freed := 2, buf := [⟨0, 0, 0⟩] }
    let lost := s.modCell c1 fun v => { v with lockedOut := true }
    let t := after (.creditReturn c1 1) s
    let u := after (.credit c0 2 0 0 false 1 c1 1) { t with net := [] }
    s.upstream c1 1 = some (c0, c0, 0, true, true) ∧ s.upstream c0 1 = some (c0, c0, 0, true, false) ∧
    t.net.map (·.body) = [.credit 2 0 0 false 1] ∧ u.net = [] ∧ ((u.cell c0).queue 1).freed = 1 ∧
    ((u.cell c0).chan 0).credits = 2 ∧
    (after (.creditReturn c1 1) lost).net.map (·.body) = [.credit 3 0 0 false 1] ∧
    (after (.stream c1 c0 1 1 0 1 [⟨0, 0, 0⟩]) lost).net.map (·.body) = [.credit 1 0 0 false 1] := by decide +kernel
/-- A full queue holds a packet back; a ring of one group refills the buffer (R177, R178). -/
theorem test_spill :
    let full : Queue := { cfg := 0x8000000000000000#64, buf := List.replicate 16 ⟨0, 0, 0⟩ }
    let s := State.reset.setCell c1 { queues := [(1, full)] }
    let ring : Queue := { cfg := 0x8080000000000000#64, ringLen := 1 }
    let t := { State.reset.setCell c1 { queues := [(1, ring)] } with loft := Memory.writeBytes [] (loftKey c1 224) [0x35] }
    after (.stream c1 c0 1 1 0 1 [⟨0, 0, 0⟩]) s = s ∧ ring.spill = 1 ∧
    (((after (.spillRefill c1 1) t).cell c1).queue 1).buf = [⟨3, 5, 0⟩] ∧
    (((after (.spillRefill c1 1) t).cell c1).queue 1).ringLen = 0 := by decide +kernel


/-! ### Sleeping, waking and signalling (02, 09) -/

/-- s1 = the ID of latch 0x805 (field 1, index 5), s2 = a bad latch ID, s4 and s5 = a deadline at tick 9, s6 = cell (1, 0) of a plot. -/
def vw : Cell := { sregs := sregs [0, 0x805, 0x18000, 0, 9, 0, 1, 0x80000], owner := 1, plot := BitVec.ofNat 32 (2 * 2 ^ 9 + 1 * 2 ^ 19) }
def wState (i : Instr) (v : Cell) : State :=
  { ready i v with ni := { origins := [(1, c0)] } }.setPlot 1 { state := .running, width := 2, height := 1, lx := 3, ly := 3 }

theorem witness_sleep : ∀ i ∈ ([.waiteFlag c0 3, .waiteDFlag c0 3 2 8, .waiteLatch c0 1, .waiteLatch c0 2, .waiteDLatch c0 1 2 8,
      .waiteDLatch c0 2 2 8, .waitt c0 2, .waitt c0 4, .setl c0 1, .setl c0 2, .clrl c0 1, .claim c0 8 1, .sende c0 6 4, .sende c0 7 4] : List Instr),
    (wState i vw).ComesToIssue c0 i 0x20 (encodeWords i).length := by
  have h : ∀ i ∈ ([.waiteFlag c0 3, .waiteDFlag c0 3 2 8, .waiteLatch c0 1, .waiteLatch c0 2, .waiteDLatch c0 1 2 8,
      .waiteDLatch c0 2 2 8, .waitt c0 2, .waitt c0 4, .setl c0 1, .setl c0 2, .clrl c0 1, .claim c0 8 1, .sende c0 6 4, .sende c0 7 4] : List Instr),
      comes i (wState i vw) = true := by decide +kernel
  exact fun i hi => comes_to (h i hi)

theorem test_sleep :
    let q (i : Instr) (v : Cell) := (after i (wState i v)).cell c0
    (q (.waiteFlag c0 3) vw).run = .sleeping ∧ (q (.waiteFlag c0 3) { vw with evflags := 8 }).evflags = 0 ∧
    (q (.waiteDFlag c0 3 2 8) { vw with evflags := 8 }).s 8 = 1 ∧ (q (.waiteDFlag c0 3 2 8) vw).wait = some { on := .flag 3, deadline := some 9, result := some 8 } ∧
    (q (.waiteLatch c0 1) vw).wait = some { on := .latch 0x805 } ∧ (q (.waiteLatch c0 2) vw).cause = 9 ∧
    (q (.waitt c0 2) vw).run = .sleeping ∧ (q (.waitt c0 4) vw).run = .running := by decide +kernel

theorem test_signals :
    let q (i : Instr) := after i (wState i vw)
    (q (.setl c0 1)).net.map (·.body) = [.latchOp .set 0x805 false false none 0] ∧ ((q (.setl c0 2)).cell c0).cause = 9 ∧
    ((q (.claim c0 8 1)).cell c0).claims = [(0, 8)] ∧ (q (.sende c0 6 4)).net.map (·.dest) = [.unicast (.cell c1)] ∧
    ((q (.sende c0 7 4)).cell c0).cause = 9 ∧ (latchReg 0x17FFF = some 0x17FFF ∧ latchReg 0x18000 = none) := by decide +kernel

/-- A sleeping cell: each of its wakes (R44 to R48), at the deadline's tick and one before. -/
def sleeper (w : Wait) (tick : Nat) : State := { State.reset.setCell c0 { run := .sleeping, wait := some w } with tick := tick }
theorem test_wakes :
    let f : Wait := { on := .flag 3, deadline := some 9, result := some 8 }
    let l : Wait := { on := .latch 0x805, deadline := some 9, result := some 8 }
    let x (i : Instr) (w : Wait) (n : Nat) := (after i (sleeper w n)).cell c0
    (x (.waiteDDeadline c0) f 9).run = .running ∧ (x (.waiteDDeadline c0) f 9).s 8 = 0 ∧ (x (.waiteDDeadline c0) f 8).run = .sleeping ∧
    (x (.waittDeadline c0) { on := .tick, deadline := some 9 } 9).run = .running ∧ (x (.waittDeadline c0) { on := .tick, deadline := some 9 } 8).run = .sleeping ∧
    (x (.event c0 3) f 0).s 8 = 1 ∧ (x (.event c0 2) f 0).evflags = 4 ∧ (x (.wake c0 0x805) l 0).s 8 = 1 ∧
    (x (.wake c0 0x806) l 0).run = .sleeping ∧
    (after (.waiteDDeadline c0) (sleeper l 9)).net.map (·.body) = [.latchOp .waitdereg 0x805 false false none 0] ∧
    (x (.waitfull c0 0x805) l 4).wait = some { l with refused := some 4 } ∧
    (x (.waitregRetry c0) { l with refused := some 4 } 5).wait = some l ∧ (x (.waitregRetry c0) { l with refused := some 4 } 4).wait = some { l with refused := some 4 } := by decide +kernel
/-- An event of a flag that is set counts in CL_EVLOST, which saturates (R48). -/
theorem test_event_lost :
    ((after (.event c0 3) (State.reset.setCell c0 { evflags := 8, evlost := 0xFFFF })).cell c0).evlost = 0xFFFF ∧
    ((after (.event c0 3) (State.reset.setCell c0 { evflags := 8 })).cell c0).evlost = 1 := by decide +kernel
theorem test_claim_answer :
    ((after (.claimresp c0 2 true) (State.reset.setCell c0 { claims := [(2, 5)] })).cell c0).s 5 = 1 ∧
    ((after (.claimresp c0 2 true) (State.reset.setCell c0 { claims := [(2, 5)] })).cell c0).claims = [] := by decide +kernel

/-! ### Latches and gates (09) -/

/-- 02, Worked example: one signal, two waiters: latch 0x805 is set once; the first CLAIM takes 1, the second 0. -/
theorem test_two_waiters :
    let s := after (.waitreg 0x805 c1 false) (after (.waitreg 0x805 c0 false) State.reset)
    let t := after (.latchOpSet 0x805 (.cell 0)) s
    let u := after (.latchOpClaim 0x805 c0 0) t
    (s.hub 1).waiters.length = 2 ∧ (t.hub 1).waiters = [] ∧ (t.net.map (·.dest)) = [.unicast (.cell c0), .unicast (.cell c1)] ∧
    (u.net.drop 2).map (·.body) = [.latchOp .claimresp 0x805 true false none 0] ∧ ((u.hub 1).latch 5).val = false ∧
    (((after (.latchOpClaim 0x805 c1 1) u).net.drop 3).map (·.body)) = [.latchOp .claimresp 0x805 false false none 1] := by
  decide +kernel
theorem test_latch_edges :
    ((after (.waitdereg 0x805 c0) (after (.waitreg 0x805 c0 false) State.reset)).hub 1).waiters = [] ∧
    ((after (.latchOpClr 0x805 (.cell 0)) (after (.latchOpSet 0x805 (.cell 0)) State.reset)).hub 1).latches = [] ∧
    (after (.waitreg 0x805 c0 false) (after (.latchOpSet 0x805 (.cell 0)) State.reset)).net.map (·.body) =
      [.latchOp .wake 0x805 false false none 0] ∧ State.reset.hubServes 1 = true := by decide +kernel

/-- Gate 64 (field 1, gate 0) with slots 0 and 1 bound to gates 65 and 66, OPEN in round 0. -/
def gate1 : Gate :=
  { ctrl := 0x83F80000, latch := 0x00100000, state := .opened, mask := 3, slots := [(0, BitVec.ofNat 32 (2 * 2 ^ 30 + 65)), (1, BitVec.ofNat 32 (2 * 2 ^ 30 + 66))] }
def gateState (g : Gate) : State := State.reset.setGate 64 g

theorem test_gate_slots :
    gate1.enabledSlots = [0, 1] ∧ gate1.enabledSlots.find? (fun j => bindKind (gate1.slot j) == 2 && bindGate (gate1.slot j) == 65) = some 0 := by
  decide +kernel
theorem test_gate_arrivals :
    let x (g : Gate) (r : BitVec 2) := (after (.arrive 64 (.gate 65) r) (gateState g)).gate 64
    (x gate1 0).arr = 1 ∧ (x { gate1 with arr := 1 } 0).nxt = 1 ∧ (x { gate1 with arr := 1, nxt := 1 } 0).cause = 2 ∧
    (x gate1 1).cause = 3 ∧ (x { gate1 with state := .faulted } 0).late = 1 ∧
    ((after (.arrive 64 (.gate 65) 0) (gateState { gate1 with state := .disabled, ctrl := 0x03F80000 })).hub 1).stranger = 1 := by
  decide +kernel
theorem test_gate_rounds :
    let up : Gate := { gate1 with state := .up, cur := 3, arr := 3, nxt := 1 }
    let t := (after (.complete 64 3) (gateState up)).gate 64
    t.cur = 0 ∧ t.arr = 1 ∧ t.nxt = 0 ∧ t.state = .opened ∧ ((after (.complete 64 2) (gateState up)).gate 64).cause = 3 ∧
    ((after (.gateTimeout 64) { gateState { gate1 with timeout := 0x80002710, since := some 0 } with tick := 1000000 }).gate 64).cause = 4 ∧
    ((after (.gateTimeout 64) { gateState { gate1 with timeout := 0x80002710, since := some 0 } with tick := 999999 }).gate 64).state = .opened ∧
    ((after (.gateDisable 64) (gateState gate1)).gate 64).state = .disabled := by decide +kernel
theorem test_gate_enable :
    let g : Gate := { gate1 with ctrl := 0x03F80000, state := .disabled }
    ((after (.gateEnable 64) (gateState { g with mask := 0 })).gate 64).cause = 1 ∧
    ((after (.gateEnable 64) (gateState g)).gate 64).state = .opened ∧
    (((after (.gateEnable 64) (gateState g)).hub 1).latch 16).entry = some 0 := by decide +kernel


/-! ### Mailboxes, plans and plots (13 to 16) -/

/-- A port whose slot 0 is POSTED with an opcode, sequence number 7 and a payload. -/
def mailbox (code : Nat) (l : List Byte) : Port :=
  ((((({} : Port).putSlot 0 0 (leBytes 4 1)).putSlot 0 4 (leBytes 4 (code + 7 * 65536))).putSlot 0 8 (leBytes 4 l.length)).putSlot 0 0x40 l)
/-- A state at stage 9 whose steward's port, 0, has posted the message. -/
def mailState (code : Nat) (l : List Byte) : State :=
  { State.reset.setPort 0 (mailbox code l) with mail := [(0, 0)], boot := { stage := 9, done := 9 }, steward := ⟨1, 0, 1, 1000, 0⟩ }

/-- The premises of `ComesToMail` and `MailPasses` for slot 0 of port 0. -/
def mailed (s : State) (code : Nat) : Bool :=
  match opInfo code with
  | none => false
  | some o => o.code == code && s.mail.contains (0, 0) && opcodeOf ((s.port 0).opword 0) == code && s.wardServes code &&
      (!o.mutating || (s.running == none && s.firstMutating == some (0, 0))) &&
      s.acceptAll.generalCheck o 0 ((s.port 0).reqLen 0) ((s.port 0).payload 0) == none

theorem mailed_to {s : State} {code : Nat} (h : mailed s code = true) :
    ∃ o, o.code = code ∧ s.ComesToMail 0 0 o ∧ s.MailPasses 0 0 o := by
  unfold mailed at h
  split at h
  · cases h
  · next o ho =>
    simp only [Bool.and_eq_true, beq_iff_eq, Bool.or_eq_true, Bool.not_eq_true'] at h
    obtain ⟨⟨⟨⟨⟨h1, h2⟩, h3⟩, h4⟩, h5⟩, h6⟩ := h
    subst h1
    refine ⟨o, rfl, ⟨ho, h2, h3, h4, fun hm => ?_⟩, h6⟩
    rcases h5 with h5 | h5
    · rw [h5] at hm; cases hm
    · exact h5

/-- A payload for each command (R409), each of which the ward comes to with its checks passed: the witness of every statement
about mailbox commands. -/
def payloads : List (Nat × List Byte) :=
  [(0x01, []), (0x02, leBytes 8 (3071 + 62 * 2 ^ 32)), (0x03, []), (0x10, padBytes (leBytes 8 4096) 16), (0x11, []), (0x12, [95, 0, 1]),
   (0x13, [1, 1]), (0x13, [1, 0]), (0x14, padBytes [1] 16), (0x15, padBytes [1] 16), (0x16, [1, 0, 3, 0, 3, 0]), (0x17, [1])] ++
  [(0x20, padBytes [63, 1] 16 ++ leBytes 8 4096), (0x21, [63]), (0x22, padBytes [15, 1] 16), (0x23, leBytes 4 0 ++ leBytes 4 1 ++ leBytes 8 0),
   (0x24, leBytes 5 0), (0x30, leBytes 4 0x17FFF ++ [1]), (0x31, leBytes 8 0), (0x32, leBytes 11 0), (0x33, leBytes 8 1000)] ++
  [(0x40, leBytes 4 33000 ++ leBytes 4 40000 ++ leBytes 4 500), (0x41, leBytes 16 0), (0x42, []), (0x43, []), (0x50, leBytes 12 0),
   (0x51, [1, 0, 0, 0]), (0x52, []), (0x53, List.replicate 448 0), (0x54, List.replicate 32 0)] ++
  [(0x60, leBytes 4 0 ++ leBytes 4 c0.toNat), (0x61, leBytes 4 2 ++ leBytes 4 31), (0x62, leBytes 4 0), (0x63, [0, 0, 0]), (0x70, leBytes 4 60000),
   (0x71, []), (0x72, []), (0x78, leBytes 4 1 ++ [1] ++ leBytes 3 0 ++ leBytes 8 0x0001000100000000 ++ leBytes 4 0 ++ leBytes 4 4096),
   (0x79, leBytes 4 1), (0x7E, []), (0x7F, [])]

theorem witness_mail : ∀ e ∈ payloads, mailed (mailState e.1 e.2) e.1 = true := by decide +kernel

/-- Status and detail of the answer in slot 0 of port 0. -/
def answerOf (s : State) : Nat × Nat × Nat :=
  ((s.port 0).slotState 0, leNat ((s.port 0).slotBytes 0 0x0C 2), leNat ((s.port 0).slotBytes 0 0x0E 2))

theorem test_slots :
    let s := { mailState 0x01 [] with mail := [] }
    let t := s.setPort 0 ((s.port 0).setSlotState 0 0)
    ((after (.slotPost 0 0) t).port 0).slotState 0 = 1 ∧ (after (.slotPost 0 0) t).mail = [(0, 0)] ∧
    ((after (.slotPost 0 0) s).port 0).mbSlot = 1 ∧ ((after (.slotFree 0 0) s).port 0).mbSlot = 1 ∧
    ((after (.slotFree 0 0) (s.setPort 0 ((s.port 0).setSlotState 0 3))).port 0).slotState 0 = 0 := by decide +kernel

/-- The checks before a command (R406, R408, R412): length, steward, state, reserved bytes. -/
theorem test_checks :
    answerOf (after (.identify 0 0) (mailState 0x01 [0])) = (3, 2, 0) ∧
    answerOf (after (.fence 0 0) { mailState 0x60 (leBytes 8 0) with steward := ⟨1, 1, 1, 1000, 0⟩ }) = (3, 4, 1) ∧
    answerOf (after (.plotReset 0 0) { mailState 0x17 [0] with boot := { done := 8 } }) = (3, 5, 0xFFFF) ∧
    answerOf (after (.fence 0 0) (mailState 0x60 [0, 0, 1, 0, 0, 0, 0, 0])) = (3, badField 2 |>.status, 2) := by decide +kernel
theorem test_queries :
    answerOf (after (.mapQuery 0 0) (mailState 0x02 (leBytes 8 (3072 + 2 ^ 32)))) = (3, (badField 0).status, 0) ∧
    leNat (((after (.mapQuery 0 0) (mailState 0x02 (leBytes 8 (3071 + 62 * 2 ^ 32)))).port 0).slotBytes 0 0x10 4) = 8 + 64 ∧
    leNat (((after (.identify 0 0) (mailState 0x01 [])).port 0).slotBytes 0 0x40 2) = 0x1FB3 := by decide +kernel

/-- A claim at both ends of its timeout range, a release, a heartbeat and a lapse (R417 to R419). -/
theorem test_stewardship :
    let free (l : List Byte) : State := { mailState 0x70 l with steward := {} }
    (after (.stewardClaim 0 0) (free (leBytes 4 60000))).steward = ⟨1, 0, 1, 60000, 0⟩ ∧
    answerOf (after (.stewardClaim 0 0) (free (leBytes 4 99))) = (3, 3, 0) ∧ answerOf (after (.stewardClaim 0 0) (free (leBytes 4 60001))) = (3, 3, 0) ∧
    answerOf (after (.stewardClaim 0 0) { mailState 0x70 (leBytes 4 100) with steward := ⟨1, 1, 1, 1000, 0⟩ }) = (3, 4, 1) ∧
    (after (.stewardRelease 0 0) (mailState 0x71 [])).steward.state = 0 ∧
    (after (.heartbeat 0 0) { mailState 0x72 [] with tick := 77 }).steward.since = 77 ∧
    (after .stewardLapse { mailState 0x72 [] with tick := 100000000 }).steward.state = 2 ∧
    (after .stewardLapse { mailState 0x72 [] with tick := 99999999 }).steward.state = 1 := by decide +kernel

theorem test_settings :
    (after (.powerLimitSet 0 0) (mailState 0x40 (leBytes 4 4000 ++ leBytes 4 40000 ++ leBytes 4 10000))).power.sustained = 4000 ∧
    answerOf (after (.powerLimitSet 0 0) (mailState 0x40 (leBytes 4 3999 ++ leBytes 4 40000 ++ leBytes 4 10000))) = (3, 3, 0) ∧
    answerOf (after (.powerLimitSet 0 0) (mailState 0x40 (leBytes 4 4000 ++ leBytes 4 40000 ++ leBytes 4 501))) = (3, 3, 8) ∧
    (after (.tallyConfig 0 0) (mailState 0x33 (leBytes 8 999))).tally.cfg = 1000 ∧
    (after (.hostWindowAdd 0 0) (mailState 0x20 (padBytes [63, 1] 16 ++ leBytes 8 4096))).windows.length = 1 ∧
    answerOf (after (.hostWindowDel 0 0) (mailState 0x21 [63])) = (3, 17, 0) ∧
    ((after (.viewportSet 0 0) (mailState 0x22 (padBytes [15, 1] 16))).port 0).views.length = 1 ∧
    ((after (.latchSet 0 0) (mailState 0x30 (leBytes 5 0x17FFF))).hub 47).latches.length = 1 ∧
    answerOf (after (.latchSet 0 0) (mailState 0x30 (leBytes 5 0x18000))) = (3, 3, 0) ∧
    answerOf (after (.faultResume 0 0) (mailState 0x24 (leBytes 5 0))) = (3, 17, 0) := by decide +kernel
theorem test_granary_map :
    (after (.granaryMap 0 0) (mailState 0x23 (leBytes 4 0x1FFFFF ++ leBytes 4 1 ++ leBytes 8 0))).gmap = [] ∧
    answerOf (after (.granaryMap 0 0) (mailState 0x23 (leBytes 4 0x1FFFFF ++ leBytes 4 2 ++ leBytes 16 0))) = (3, 3, 0) := by decide +kernel

/-- Plan and plot commands without a plan answer PLAN; with one, each meets a plot in a state that allows it or not. -/
def planState (code : Nat) (l : List Byte) (q : Plot) : State := { mailState code l with plan := some ⟨0, [], 1, []⟩ }.setPlot 1 q
def plotOn : Plot := { state := .running, width := 1, height := 1, lx := 3, ly := 3, configs := 1 }
theorem test_plan_refusals :
    answerOf (after (.planUnload 0 0) (mailState 0x11 [])) = (3, 14, 0) ∧ answerOf (after (.plotStart 0 0) (mailState 0x12 [1, 0, 0])) = (3, 14, 0) ∧
    answerOf (after (.plotReset 0 0) (planState 0x17 [96] {})) = (3, 3, 0) ∧ answerOf (after (.plotReset 0 0) (planState 0x17 [1] {})) = (3, 5, 1) ∧
    answerOf (after (.mapRebuild 0 0) (planState 0x03 [] {})) = (3, 14, 0) ∧
    (after (.planUnload 0 0) (planState 0x11 [] plotOn)).plan = none := by decide +kernel
theorem test_plot_stop :
    let s := (planState 0x13 [1, 0] plotOn).setCell c0 { owner := 1, run := .running }
    let t := after (.plotStopHalt 0 0) s
    (t.plot 1).state = .stopped ∧ answerOf t = (3, 0, 0) ∧
    ((after (.plotStopDry 0 0) (planState 0x13 [1, 1] plotOn)).plot 1).dryStart = some 0 ∧
    answerOf (after (.plotStopHalt 0 0) (planState 0x13 [1, 0] { plotOn with state := .dry })) = (3, 5, 1) ∧
    answerOf (after (.plotScanIn 0 0) (planState 0x15 (padBytes [1] 16) plotOn)) = (3, 5, 1) := by decide +kernel
/-- A run-dry ends with its quiet window, and one tick before it does not (R230). -/
theorem test_dry_end :
    let r : Running := ⟨0, 0, 0x70013, [1, 1], true, .dry 1⟩
    let b : State := planState 0x13 [1, 1] { plotOn with dryStart := some 0 }
    let s (n : Nat) : State := { b with tick := n, mail := [], running := some r }
    ((after (.dryEnd 1) (s 10000)).plot 1).state = .dry ∧ ((after (.dryEnd 1) (s 9999)).plot 1).state = .running := by decide +kernel
/-- A scan-out that may capture, one whose marker is out, and one that has lost a cell. -/
def scanState (c : CellId) (x : Cell) : State :=
  { (planState 0x14 (padBytes [1] 16) { plotOn with state := .stopped, scanArea := some 0 }).setCell c x with
    running := some ⟨0, 0, 0x70014, padBytes [1] 16, true, .scan 1⟩, mail := [] }
theorem witness_scan :
    (scanState c0 { owner := 1 }).lostCell 1 = false ∧ (scanState c0 { owner := 1 }).scanReady 1 = true ∧
    (scanState c0 { owner := 1, chans := [(0, { cfg := 1, markers := 1, stopped := true })] }).lostCell 1 = false ∧
    (scanState c0 { owner := 1, lockedOut := true }).lostCell 1 = true := by decide +kernel

/-- FENCE and REJOIN of a cell, and a fence of a unit that is out (R452 to R455). -/
theorem test_fences :
    let s := mailState 0x60 (leBytes 4 0 ++ leBytes 4 c0.toNat)
    let t := after (.fence 0 0) s
    (t.cell c0).lockedOut = true ∧ answerOf t = (3, 0, 0) ∧
    answerOf (after (.fence 0 0) (s.setCell c0 { lockedOut := true })) = (3, 5, 0xFFFF) ∧
    answerOf (after (.rejoin 0 0) (mailState 0x61 (leBytes 4 0 ++ leBytes 4 c0.toNat))) = (3, 5, c0.toNat) ∧
    ((after (.rejoin 0 0) ((mailState 0x61 (leBytes 4 0 ++ leBytes 4 c0.toNat)).setCell c0 { lockedOut := true })).cell c0).lockedOut = false ∧
    ((after (.fenceNotice (.hub 0 20 0) (.cell c0)) State.reset).cell c0).lockedOut = true := by decide +kernel

/-- Firmware, licence, resident and resident-less answers of the ward, at their limits. -/
theorem test_ward_answers :
    answerOf (after (.residentDeclare 0 0) (mailState 0x78 (padBytes [] 24))) = (3, 14, 0) ∧
    answerOf (after (.residentRelease 0 0) (mailState 0x79 (leBytes 4 1))) = (3, 17, 0) ∧
    answerOf (after (.ledgerRevive 0 0) (mailState 0x63 [0, 0, 0])) = (3, 17, 0) ∧
    answerOf (after (.dormantExit 0 0) (mailState 0x43 [])) = (3, 5, 0xFFFF) := by decide +kernel


/-! ### The mesh, requests and answers (08, 10) -/

/-- A READ_REQ of cell `c0` for `c1` that stands at a router. -/
def readPacket (pos : CellId) (w : Option CellId) : Packet :=
  ⟨.cell c0, .unicast (.cell c1), w, 1, 0, .readReq 0 7 5, pos, .local, false, true, false⟩
/-- Every link UP, with one packet. -/
def netState (p : Packet) : State := { State.reset with linkAll := .up, net := [p] }

/-- Routing at the edges: east, west, south, north, ejection, a link not UP, a waypoint (R250 to R252, R255). -/
theorem test_hops :
    let h (x y : Nat) := (netState (readPacket (mkCell x y) none)).hop (readPacket (mkCell x y) none)
    h 3 3 = .move 2 ∧ h 5 9 = .move 3 ∧ h 4 2 = .move 1 ∧ h 4 4 = .move 0 ∧ h 4 3 = .eject ∧
    State.reset.hop (readPacket c0 none) = .drop 0 2 ∧
    (netState (readPacket c0 none)).hop (readPacket c0 (some (mkCell 2 3))) = .move 3 ∧
    (netState (readPacket c0 none)).hop { readPacket c0 none with parityOk := false } = .drop 1 4 ∧
    pktMalformed (readPacket c0 none) = false ∧ pktMalformed { readPacket c0 none with vc := 0 } = true := by decide +kernel

theorem test_forward :
    let p := readPacket c0 none
    let s := netState p
    let d : State := { State.reset with net := [p] }
    s.chosen c0 .local = some (p, .move 2) ∧ s.routerOk c0 = true ∧ s.chosen c0 .east = none ∧
    (after (.packetForward c0 ⟨.local, false⟩) s).net = [{ p with pos := c1, inPort := .west }] ∧
    d.chosen c0 .local = some (p, .drop 0 2) ∧
    ((after (.packetForward c0 ⟨.local, false⟩) d).hub 0).dropcnt = 1 ∧
    ((after (.packetForward c0 ⟨.local, false⟩) d).hub 0).droplog.msb = true ∧
    (after (.packetForward c0 ⟨.local, false⟩) d).net.map (·.body) = [.errorResp 5 1 false] ∧
    (let e := readPacket c1 none
     (netState e).chosen c1 .local = some (e, .eject) ∧
      (after (.packetForward c1 ⟨.local, false⟩) (netState e)).net = [{ e with ejected := true }]) := by decide +kernel

theorem test_links :
    let s : State := { State.reset with linkAll := .init }
    s.linkIn c0 2 = .init ∧ s.endsOk c0 2 = true ∧ (after (.linkInitComplete c0 2) s).linkIn c0 2 = .up ∧
    isStitch (mkCell 77 3) 2 = true ∧ neighbour (mkCell 77 3) 2 = some (mkCell 78 3) ∧
    ((after (.stitchLockError (mkCell 77 3) 2) s).hub 0).stitcherr = 1 ∧
    (after (.stitchLockError (mkCell 77 3) 2) s).linkIn (mkCell 78 3) 3 = .down ∧
    (after (.stitchLockError (mkCell 76 3) 2) s) = s := by decide +kernel

/-- Requests at a cell: the last byte of the loft, one past it, a locked-out cell, an open window (R181, R240, R260). -/
theorem test_cell_requests :
    let r (v : Cell) (a : Nat) (n : Nat) := (after (.readReq (.cell c0) (.cell c1) 5 (BitVec.ofNat 54 a) (BitVec.ofNat 8 n))
      { State.reset.setCell c1 v with loft := Memory.writeBytes [] (loftKey c1 0x1FFFFF) [0xAB] }).net.map (·.body)
    r {} 0x1FFFFF 0 = [.readResp 5 [0xAB]] ∧ r {} 0x1FFFFF 1 = [.errorResp 5 4 false] ∧
    r { lockedOut := true } 0 0 = [.errorResp 5 2 false] ∧
    (let t := after (.writeReq (.cell c0) (.cell c1) 5 0x1FFFFE false [1, 2]) State.reset
     t.loft.readBytes (loftKey c1 0x1FFFFD) 3 = [0, 1, 2] ∧ t.net.map (·.body) = [.writeAck 5]) ∧
    (after (.writeReq (.cell c0) (.cell c1) 5 0x1FFFFE true [1, 2]) State.reset).net = [] := by decide +kernel

/-- Stack 0 ACTIVE, at its unit. -/
def stackState : State := { State.reset with gstacks := [(0, { state := .active })] }
theorem test_stack_requests :
    let f := stackField 0
    let q (s : State) (a : Nat) := (after (.readReq (.cell c0) (.hub f 12 0) 5 (BitVec.ofNat 54 a) 3) s).net.map (·.body)
    (State.reset.hub f).dark = false ∧ stackOf f 12 = some 0 ∧ physStack 0 = 0 ∧ backed 0 = true ∧ backed 3 = true ∧ physStack 0x4000000000 ≠ 0 ∧
    q State.reset 0 = [.errorResp 5 3 false] ∧ q stackState 0x4000000000 = [.errorResp 5 4 false] ∧
    q stackState 0 = [.readResp 5 [0, 0, 0, 0]] ∧
    (after (.writeReq (.cell c0) (.hub f 12 0) 5 0 false [9]) stackState).granary.read 0 = 9 ∧
    (after (.writeReq (.cell c0) (.hub f 12 0) 5 0 false [9]) stackState).net.map (·.body) = [.writeAck 5] := by decide +kernel

/-- A scalar and a vector load, and a store, of cell `c0` in flight. -/
def bayCell : Cell :=
  { bayLoads := [⟨5, 0x30, 1, 0x1234, 2, .inl 6, 2, 0⟩, ⟨6, 0x31, 1, 0, 2, .inr 1, 64, 1⟩], bayStores := [9] }
theorem test_answers :
    let s := State.reset.setCell c0 bayCell
    let x (i : Instr) := (after i s).cell c0
    (x (.readResp (.cell c0) 5 [0x34, 0x12])).s 6 = 0x1234 ∧ (x (.readResp (.cell c0) 5 [0x34, 0x12])).bayLoads.length = 1 ∧
    (x (.readResp (.cell c0) 6 (List.replicate 64 1))).v 1 = 0x01010101 ∧ (x (.writeAck (.cell c0) 9)).bayStores = [] ∧
    (x (.errorResp (.cell c0) 5 4 true)).cause = 7 ∧ (x (.errorResp (.cell c0) 5 4 true)).epc = 0x30 ∧
    (x (.errorResp (.cell c0) 5 4 true)).raw = 0x1234 ∧ (x (.errorResp (.cell c0) 9 2 false)).bayStores = [] ∧
    wainAt 0 0 = some 0 := by decide +kernel


/-! ### Broadcasts, resets, bring-up and clocks (15, 17) -/

/-- PMEM to one cell, from the ward and from another unit, and TABLE_WRITE (R33, R420, R436). -/
theorem test_broadcasts :
    let w : Endpoint := .hub 0 20 0
    let r : Option Rect := some ⟨3, 3, 3, 3⟩
    let t := after (.pmem w 0 r 0x1FFE [0x0123, 0x3FFF, 0x1111]) { State.reset with linkAll := .up }
    State.reset.hubServes 0 = true ∧ wardSrc w = true ∧ wardSrc (.cell 0) = false ∧ ({ State.reset with linkAll := .up } : State).reached 0 r = [c0] ∧ State.reset.reached 0 r = [] ∧
    Store.find? t.pmem (c0.toNat * 8192 + 0x1FFE) = some (withParity 0x0123) ∧
    Store.find? t.pmem (c0.toNat * 8192 + 0x1FFF) = some (withParity 0x3FFF) ∧ t.pmem.length = 2 ∧
    ((after (.pmem (.cell 0) 0 r 0 [1]) State.reset).hub 0).dropcnt = 1 ∧
    State.reset.reachable c0 = true ∧ State.reset.reachable (mkCell 624 0) = false ∧
    ((after (.tableWrite (.cell 0) c0 0 []) State.reset).hub 0).dropcnt = 1 := by decide +kernel
theorem test_vecdef_scrub :
    let w : Endpoint := .hub 0 20 0
    let r : Option Rect := some ⟨3, 3, 3, 3⟩
    Store.find? (after (.vecdef w 0 r) { State.reset with linkAll := .up }).pmem (c0.toNat * 8192 + 2) = some (withParity 0x0162) ∧
    (let t := after (.scrub w 0 r) { State.reset with linkAll := .up, loft := [(loftKey c0 0, 1), (loftKey c1 0, 2)] }
     (t.cell c0).scrubbing = true ∧ t.loft = [(loftKey c1 0, 2)] ∧ (t.cell c1) = State.reset.cell c1 ∧
     ((after (.scrubComplete c0) t).cell c0).scrubbing = false) := by decide +kernel

/-- Warm and compute resets and the dormant state (R437 to R443); WARM# takes effect on its falling edge once (R527). -/
theorem test_resets :
    let s := { mailState 0x7E [] with windows := State.reset.windows, granary := [(7, 9)], loft := [(7, 9)] }
    let t := after (.warmReset 0 0) s
    s.warmReady = true ∧ t.running.map Running.what = some .warm ∧ t.loft = [] ∧ t.granary = [(7, 9)] ∧ t.boot.fast = true ∧
    t.boot.doing = 3 ∧ t.boot.stage = 4 ∧ t.steward.state = 0 ∧
    (let h := after (.warmReset 0 0) { s with boot := { s.boot with done := 8 } }
     h.boot.held = some 3 ∧ h.loft = [(7, 9)] ∧ (after .ready h).loft = [] ∧ (after .ready h).boot.doing = 3) ∧
    (let c := after (.computeReset 0 0) { s with ports := (mailState 0x7F []).ports }
     c.boot.kind = 4 ∧ c.granary = [(7, 9)] ∧ answerOf c = (3, 0, 0)) ∧
    (after .warmAssert { s with running := none }).boot.doing = 2 ∧
    (after .warmAssert { s with pins := { s.pins with armed := false } }).loft = [(7, 9)] ∧
    (after .warmDeassert { s with pins := { s.pins with armed := false } }).pins.armed = true := by decide +kernel
theorem test_dormant :
    let t := after (.dormantEnter 0 0) (mailState 0x42 [])
    t.dormant = true ∧ answerOf t = (3, 0, 0) ∧ (t.stack 3).state ≠ .active ∧
    (mailState 0x42 []).awake = false ∧ ((mailState 0x42 []).setPlot 1 { state := .running }).awake = true ∧
    answerOf (after (.dormantExit 0 0) (mailState 0x43 [])) = (3, 5, 0xFFFF) ∧
    answerOf (after (.dormantExit 0 0) { mailState 0x43 [] with dormant := true }) = (3, 0, 0) ∧
    (after (.dormantExit 0 0) { mailState 0x43 [] with dormant := true }).dormant = false := by decide +kernel

/-- Bring-up up to stage 5 (R421). -/
def atStage (k : Nat) (b : Boot := {}) : State := { State.reset with boot := { b with done := k, stage := BitVec.ofNat 4 (k + 1) } }
theorem test_stages :
    let c := after .coldBringup State.reset
    c.boot.done = 1 ∧ c.boot.stage = 2 ∧ after .coldBringup c = c ∧
    (after (.fieldPowerUp 0 0 0) (atStage 3)).boot.nextField = 1 ∧
    ((after (.fieldPowerUp 0 0 0) (atStage 3)).hub 0).powered = true ∧
    (after (.fieldPowerUp 47 0 0) (atStage 3 { nextField := 47 })).boot.done = 4 ∧
    after (.fieldPowerUp 2 0 0) (atStage 3) = atStage 3 ∧
    ((atStage 3).hub 0).power.tripped 0 0 = 0 ∧ (atStage 3).staysDark 0 = false := by decide +kernel
theorem test_training :
    let t := after (.linkTraining [] [1]) (atStage 4)
    t.boot.done = 5 ∧ t.boot.stage = 6 ∧ (t.stack 0).state = .active ∧ (t.stack 1).state = .failed ∧
    (after (.linkTraining [] []) (atStage 4 { fast := true })).boot.stage = 7 ∧
    after (.linkTraining [] []) (atStage 3) = atStage 3 := by decide +kernel
theorem test_self_test_to_ready :
    let t := after (.selfTest [⟨0, 0, 3, true, false⟩] [] []) (atStage 5)
    t.boot.done = 6 ∧ t.compBad 0 0 3 = true ∧ (atStage 5).tested ⟨0, 0, 3, true, false⟩ = true ∧
    (after .mapBuild t).boot.done = 7 ∧ (after .mapBuild t).epoch = t.flashEpoch + 1 ∧ (after .mapBuild t).map = t.builtMap ∧
    (after .mapBuild (atStage 5 { fast := true })).boot.stage = 8 ∧
    (atStage 7).unreachable = false ∧ (after .hubTableBroadcast (atStage 7)).boot.done = 8 ∧
    (after .hubTableBroadcast ((atStage 7).setHub 0 { dark := true } |>.setHub 8 { dark := true })).boot.err = 4 ∧
    (after .ready (atStage 8)).boot.done = 9 ∧ after .ready (atStage 7) = atStage 7 := by decide +kernel

/-- Crystals: counts at their limits, the selection, holdover and its end (R470 to R473). -/
def clocked (k : Nat) (c : Clocks) : State := { atStage k with clocks := c }
theorem test_crystals :
    let w (n : Nat) := (after (.stabilityWindow (BitVec.ofNat 18 n) 97000 100000) (clocked 2 { passA := 2, passB := 1 })).clocks
    (w 97000).xa = 1 ∧ (w 96999).xa = 0 ∧ (w 103000).xa = 1 ∧ (w 103001).passA = 0 ∧ (w 97000).passB = 2 ∧
    (after (.stabilityWindow 0 0 0) (clocked 2 { windows := 39 })).clocks.xa = 2 ∧
    (let t := after (.stabilityWindow 96999 0 0) (clocked 9 {}); t.clocks.sel = 2 ∧ t.clocks.xa = 2 ∧ t.clocks.since = some 0) ∧
    (after (.stabilityWindow 97000 0 0) (clocked 9 {})).clocks.sel = 0 ∧
    (after .crystalCheck (clocked 2 { xa := 1, xb := 2 })).clocks.sel = 0 ∧
    (after .crystalCheck (clocked 2 { xa := 1, xb := 2 })).boot.done = 3 ∧
    (after .crystalCheck (clocked 2 { xa := 2, xb := 1 })).boot.xb = true ∧
    (after .crystalCheck (clocked 2 { xa := 1, xb := 1, agree3 := some false })).clocks.xa = 3 ∧
    (after .crystalCheck (clocked 2 { xa := 2, xb := 2 })).boot.err = 2 := by decide +kernel
theorem test_holdover :
    let h := { clocked 9 { sel := 2, xa := 2, since := some 0, relocking := true, lock := 3 } with tick := 1000000 }
    (after .crystalFail (clocked 9 { passB := 3, agree := true })).clocks.relocking = true ∧
    (after .crystalFail (clocked 9 { passB := 2, agree := true })).clocks.relocking = false ∧
    (after .rootLoopRelock h).clocks.sel = 1 ∧ (after .holdoverTimeout h).clocks.sel = 3 ∧ (after .holdoverTimeout h).boot.done = 2 ∧
    (after .holdoverTimeout { h with tick := 999999 }) = { h with tick := 999999 } ∧
    (after .sscPeriodStart { h with clocks := { h.clocks with ssc := (3, 5) } }).clocks.depth = 3 ∧
    (after (.loopLockLoss 50) { h with clocks := { h.clocks with lock := BitVec.ofNat 63 (2 ^ 50) } }).clocks.relock = 1 := by decide +kernel
theorem test_field_loop :
    let s : State := { clocked 9 { lock := 1 } with linkAll := .up }
    s.clocks.lock.getLsbD 0 = true ∧ (mkCell 77 0, 2) ∈ fieldCrossings 0 ∧
    (s.stitchLost (mkCell 77 0) 2).linkState (mkCell 77 0) 2 = .down ∧ ((s.stitchLost (mkCell 77 0) 2).hub 1).stitcherr = 1 ∧
    ((s.fieldLocks 2).hub 2).powered = true ∧ (s.fieldLocks 2).clocks.lock = 5 := by decide +kernel


/-! ### Power, ports, registers, firmware and tallies (14, 16, 18 to 20) -/

/-- Field 0 powered. -/
def litState : State := (atStage 9).setHub 0 { powered := true }

/-- The estimator at its tick and one before; the hold falls by one and the ballast follows (R480, R490, R491). -/
theorem test_estimator :
    let s : State := { litState with tick := 200 }
    let t := after (.estimatorInterval [⟨0, [16000000]⟩]) { (s.setHub 0 { powered := true, power := { weights := [(0, 16)] } }).setCell c0
      { run := .running } with tick := 200 }
    s.litFields = [0] ∧ after (.estimatorInterval []) { s with tick := 199 } = { s with tick := 199 } ∧
    (after (.estimatorInterval []) s).power.lastAt = 200 ∧ ((after (.estimatorInterval []) s).hub 0).hold = 59 ∧
    (t.hub 0).power.dyn = 256000000 ∧ bits (t.hub 0).power.est 15 0 = 8 ∧ t.power.hist.length = 1 := by decide +kernel
theorem test_alerts :
    let a := after (.supplyAlert (some 0)) litState
    let c := after (.supplyAlertClear none) a
    litState.alertFields (some 0) = [0] ∧ litState.alertFields (some 1) = [] ∧ (a.hub 0).hold = 60 ∧ (a.hub 0).power.charge = 6 ∧
    (c.hub 0).power.clearAt = some 1000 ∧ (c.hub 0).power.hs = true ∧
    ((after (.supplyAlertClear none) { c with tick := 1000 }).hub 0).power.hs = false ∧
    ((after (.supplyAlertClear none) { c with tick := 999 }).hub 0).power.hs = true := by decide +kernel
/-- T_f at the limits of R488 and R492: 95 °C is 1520, 93 °C is 1488 and 105 °C is 1680. -/
theorem test_heat :
    let r (t : Nat) (ht : Nat) := after (.tempSensorRead 0 (BitVec.ofNat 16 t :: List.replicate 7 0))
      (litState.setHub 0 { powered := true, power := { ht := ht } })
    ((r 1520 60).hub 0).power.ht = 60 ∧ ((r 1519 5).hub 0).power.ht = 5 ∧ ((r 1488 5).hub 0).power.ht = 5 ∧
    ((r 1487 5).hub 0).power.ht = 4 ∧ ((r 1520 5).hub 0).power.ht = 7 ∧ (r 1679 0).power.stopped = false ∧
    (r 1680 0).power.stopped = true ∧ (r 1680 0).power.cause = 2 ∧ (r 1680 0).litFields = [] := by decide +kernel
theorem test_stops :
    (after .coolantStop litState).power.cause = 1 ∧ (after .coolantStop (atStage 3)).boot.coolWait = true ∧
    (after .coolantStop (atStage 2)).boot = (atStage 2).boot ∧
    (after .coolOkRise (atStage 3 { coolWait := true, err := 3 })).boot.err = 0 ∧ (after .coolOkRise (atStage 3)).pins.coolOk = true ∧
    after .powerLoss State.reset = State.reset ∧
    (after .powerLoss { atStage 9 with pins := { input := true }, loft := [(7, 9)] }).loft = [] := by decide +kernel
theorem test_pins :
    let s := { atStage 1 with serial := 0x1122334455667788 }
    (after (.i3cRead 0 3) s).pins.i3cOut = [0x88, 0x77, 0x66] ∧ (after (.i3cRead 27 2) s).pins.i3cOut = [0, 0] ∧
    after (.i3cRead 0 3) State.reset = State.reset ∧ (after (.dynamicAddressAssignment 9) s).pins.i3cAddr = some 9 ∧
    (after .extest s).pins.jtag = .bypass ∧ (after .extest { s with pins := { s.pins with warmHigh := false } }).pins.extest = true ∧
    (after .idcode s).pins.jtag = .idcode ∧ (after .bypass s).pins.jtag = .bypass ∧
    (after .samplePreload s).pins.jtag = .sample ∧ (s.refreshAlert.pins.alertLow = (s.alertBits != 0)) := by decide +kernel

/-- Resets and links of a port (R415, R417, R525). -/
theorem test_ports :
    let s := after (.perstDeassert 0) (mailState 0x01 [])
    (after (.portReset 0) s).mail = [] ∧ ((after (.portReset 0) s).port 0).slotState 0 = 0 ∧ (after (.portReset 0) s).steward = s.steward ∧
    ((after (.perstAssert 0) s).port 0).perst = true ∧ ((after (.perstDeassert 0) (after (.perstAssert 0) s)).port 0).perst = false ∧
    ((after (.pcieLinkUp 0 8 6) s).port 0).linkUp = true ∧ after (.pcieLinkUp 0 3 6) s = s ∧ after (.pcieLinkUp 0 4 7) s = s ∧
    ((after (.pcieLinkDown 0) (after (.pcieLinkUp 0 8 6) s)).port 0).linkUp = false ∧
    (after (.pcieLinkUp 0 8 6) (after (.perstAssert 0) s)) = after (.perstAssert 0) s := by decide +kernel

/-- Viewport 0 shows the loft of cell `c0` (R398 to R401). -/
def viewState (v : View) : State := (mailState 0x01 []).setPort 0 { mailbox 0x01 [] with views := [(0, v)] }
/-- BAR2 without a viewport aborts; a port that is not the steward writes nothing. -/
theorem test_bar2 :
    let s := mailState 0x01 []
    ((after (.bar2Read 0 0 4) s).port 0).vpAbort = 1 ∧ ((after (.bar2Read 0 0 4) s).port 0).lastRead = none ∧
    ((after (.bar2Write 1 0 [1]) s).port 1).vpRo = 1 ∧ s.isSteward 0 = true ∧ s.isSteward 1 = false ∧
    ((after (.bar2Write 0 0 [1]) s).port 0).vpDrop = 1 := by decide +kernel

/-- Register accesses: 64-bit halves, an RC field, an offset without a register, a dark field (R6, R10, R396, R397). -/
theorem test_registers :
    let s := (mailState 0x01 []).setHub 0 { dropcnt := 7 }
    let r (r : Requester) (off : Nat) (s : State) := after (.registerRead r (BitVec.ofNat 26 off) false) s
    regionOf (.port 0) 0x1000D00 = .regs (.hub 0) 0xD00 ∧ regionOf (.port 0) 0x130614 = .regs .hinge 0x30614 ∧
    s.hubGone (.regs (.hub 0) 0xD00) = false ∧
    (r (.port 0) 0x1000D00 s).regOut = some 7 ∧ ((r (.port 0) 0x1000D00 s).hub 0).dropcnt = 0 ∧
    ((r (.port 1) 0x1000D00 s).hub 0).dropcnt = 7 ∧ (r (.port 0) 0x1000E00 s).regOut = some 0 ∧
    (r (.port 0) 0x130100 s).regOut = some 0x186A0 ∧
    (let t := after (.registerWrite (.port 0) 0x130100 (.low 2000)) s
     let u := after (.registerWrite (.port 0) 0x130104 (.low 0x80000000)) t
     t.tally.cfg = 0x186A0 ∧ bits u.tally.cfg 31 0 = 2000 ∧ bits u.tally.cfg 63 62 = 2) ∧
    ((after (.registerWrite (.port 1) 0x130614 (.low 0)) s).port 1).mbRo = 1 ∧
    (after (.registerWrite (.port 0) 0x130614 (.low 0x1432)) s).clocks.ssc = (20, 50) ∧
    ((r (.port 0) 0x1000D00 (s.setHub 0 { dark := true })).port 0).vpAbort = 1 ∧
    (r (.port 0) 0x1000D00 (s.setHub 0 { dark := true })).regOut = none := by decide +kernel

/-- Registers with commands of their own, at the limits of their fields (R337, R338, R413, R477, R479). -/
theorem test_named_registers :
    let s := mailState 0x01 []
    ((after (.noticeConsWrite 0 1) s).port 0).mbSlot = 1 ∧ ((after (.noticeConsWrite 0 0) s).port 0).mbSlot = 0 ∧
    (after (.ckSscWrite 0 0x147D) s).clocks.ssc = (20, 125) ∧ (after (.ckSscWrite 0 0x1532) s).clocks.ssc = s.clocks.ssc ∧
    (after (.ckSscWrite 0 0x0431) s).clocks.ssc = s.clocks.ssc ∧ (after (.ckClkmonWrite 0 0x44000002) s).clocks.monSel = 68 ∧
    (after (.ckClkmonWrite 0 0x45000002) s).clocks.monSel = 0x7F ∧ ((after (.ckSscWrite 1 0x1432) s).port 1).mbRo = 1 ∧
    (after (.hgRankWr 0 (.full (BitVec.ofNat 64 (5 * 2 ^ 32 + 1)))) s).rankBusy = rankOk 1 ∧
    (after .rankBroadcastDone { s with rankBusy := true }).rankBusy = false ∧
    (after (.hgRouteWr 0 (.full 0xFFFFFFFF)) s).badEnt = false ∧ (after (.hgRouteWr 0 (.full 0xFFFFFFFF)) s).routes ≠ [] ∧
    (after (.hgRouteWr 0 (.full 0xFFFFFFFF)) (s.setMill 31 { licensed := false })).badEnt = true ∧
    (after (.hubRegisterWrite (.cell 0) 0 0xC00 [2, 0, 0, 0]) s).hub 0 = { s.hub 0 with dropcnt := 1 } ∧
    ((after (.hubRegisterWrite (.hub 0 20 0) 0 0xC00 [2, 0, 0, 0]) s).hub 0).loftCtrl = 2 := by decide +kernel

/-- Slots and the ward's starts (R416, R505 to R508). -/
theorem test_firmware :
    let st (k : Nat) (l : List Byte) (a b : BitVec 3) := { mailState k l with fw := { a := ⟨a, []⟩, b := ⟨b, []⟩ } }
    answerOf (after (.fwActivate 0 0) (st 0x51 [2, 0, 0, 0] 5 2)) = (3, 3, 0) ∧
    answerOf (after (.fwActivate 0 0) (st 0x51 [0, 0, 0, 0] 5 0)) = (3, 5, 0xFFFF) ∧
    (after (.fwActivate 0 0) (st 0x51 [0, 0, 0, 0] 5 2)).fw.activate = some 1000000 ∧
    (after (.fwActivate 0 0) (st 0x51 [1, 0, 0, 0] 5 2)).fw.b.state = 3 ∧
    answerOf (after (.fwConfirm 0 0) (st 0x52 [] 5 0)) = (3, 5, 0xFFFF) ∧ (after (.fwConfirm 0 0) (st 0x52 [] 4 2)).fw.a.state = 5 ∧
    answerOf (after (.fwStage 0 0) (st 0x50 (leBytes 12 0) 4 0)) = (3, 5, 0xFFFF) := by decide +kernel
theorem test_ward_starts :
    let s := { mailState 0x01 [] with fw := { activate := some 9 }, tick := 9 }
    s.boot.done = 9 ∧ s.fw.activate = some 9 ∧ after .wardRestart (atStage 1) = atStage 1 ∧ after .wardFirmwareStart (atStage 2) = atStage 2 ∧
    after .activateRestart { s with tick := 8 } = { s with tick := 8 } := by
  decide +kernel

/-- Boundaries of mode PERIOD and their captures (R463); a dump waits for its tick (R282). -/
theorem test_tallies :
    let c : DWord := BitVec.ofNat 64 (2 * 2 ^ 62 + 100)
    let s (n : Nat) : State := { litState with tally := { cfg := c, counts := [(8, 5)] }, tick := n }
    (after .tallyPeriod (s 100)).tally.due = some 200 ∧ after .tallyPeriod (s 99) = s 99 ∧
    (after .tallyPeriod { s 100 with tally := { (s 100).tally with due := some 7 } }).tally.skip = 1 ∧
    (let t := after .tallyCapture { s 200 with tally := { (s 200).tally with due := some 200 } }
     t.tally.last = 200 ∧ t.tally.counts = [] ∧ t.tally.seq = 1) ∧
    after .tallyCapture { s 199 with tally := { (s 199).tally with due := some 200 } } =
      { s 199 with tally := { (s 199).tally with due := some 200 } } ∧
    (let d : State := { s 9 with dump := some ⟨0x1000000000000000, 10, 0, 0, true⟩ }; after .syncDumpCapture d = d) := by decide +kernel
theorem test_records :
    answerOf (after (.syncDump 0 0) (mailState 0x31 (leBytes 8 1))) = (3, 3, 0) ∧
    answerOf (after (.tallyRead 0 0) (mailState 0x32 (leBytes 11 0))) = (3, 3, 0) ∧
    answerOf (after (.throttleLogRead 0 0) (mailState 0x41 (leBytes 16 (2 ^ 60)))) = (3, 3, 12) ∧
    answerOf (after (.throttleLogRead 0 0) (mailState 0x41 (leBytes 8 (2 ^ 60) ++ leBytes 8 (8193 * 2 ^ 32)))) = (3, 3, 12) := by
  decide +kernel


/-! ### Chonel links and remote traffic (11) -/

/-- Mill 5 in the given condition. -/
def millState (v : Mill) : State := State.reset.setMill 5 v
/-- An UP link with one frame unacknowledged. -/
def upMill : Mill :=
  { link := 7, groups := 0xF, locked := 0x3FFFF, aligned := 0x3FFFF, seq := 3, unacked := [(2, [])], credits := [9, 9, 9, 9] }

/-- Exits of a link at the limits of its timers (R314, R324, R326, R344). -/
theorem test_link_timers :
    let at_ (n : Nat) (v : Mill) : State := { millState v with tick := n }
    let x (i : Instr) (n : Nat) (v : Mill) := (after i (at_ n v)).mill 5
    (x (.linkLoss 5) 1600 upMill).link = 1 ∧ (x (.linkLoss 5) 1600 upMill).downcnt = 1 ∧ (x (.linkLoss 5) 1600 upMill).reason = 1 ∧
    (x (.linkLoss 5) 1599 upMill).link = 7 ∧ (x (.linkStepTimeout 5) 2000000 { link := 2 }).reason = 8 ∧
    (x (.linkStepTimeout 5) 1999999 { link := 2 }).link = 2 ∧ (x (.linkStepTimeout 5) 10000 { link := 6 }).link = 1 ∧
    (x (.linkStepTimeout 5) 5000 { upMill with regroup := 1 }).link = 1 ∧
    (x (.linkRetry 5) 10000000 { link := 1, reason := 8 }).link = 2 ∧ (x (.linkRetry 5) 9999999 { link := 1, reason := 8 }).link = 1 ∧
    (x (.probeMode 5) 100000 { link := 1 }).probe = true ∧ (x (.probeBurst 5) 50000000 { probe := true }).lastBurst = 50000000 ∧
    (x (.lightReturn 5) 9 { link := 1, probe := true }).probe = false ∧
    (x (.timeExchange 5) 10000 upMill).timeDue = true ∧ (x (.timeExchange 5) 9999 upMill).timeDue = false ∧
    (x (.ackTimerReplay 5) 200 upMill).resend = [(2, [])] ∧ (x (.ackTimerReplay 5) 199 upMill).resend = [] ∧
    (x (.ackTimerReplay 5) 200 { upMill with replays := some (2, 8) }).reason = 2 ∧ (at_ 0 { link := 1 }).millEnabled 5 = true := by
  decide +kernel
/-- Lanes (R326, R328, R329): lane 0 moves to spare 16, then lane 1 to spare 17; a third loss drops a group. -/
theorem test_lanes :
    let x (i : Instr) (v : Mill) := (after i (millState v)).mill 5
    let a := x (.laneFailure 5 0) upMill
    let b := x (.laneFailure 5 1) a
    let c := x (.laneFailure 5 2) b
    a.sp0 = some 0 ∧ a.regroup = 1 ∧ a.groups = 0xE ∧ b.sp1 = some 1 ∧ c.groups = 0xE ∧ c.failed = 7 ∧
    (x (.laneFailure 5 2) { b with cfg := 0x2000 }).link = 7 ∧
    (x (.laneFailure 5 4) { c with cfg := 0x2000 }).reason = 3 ∧ (x (.laneFailure 5 18) upMill).failed = 0 ∧
    (x (.laneLock 5 17) { link := 2, locked := 0x1FFFF }).link = 3 ∧ (x (.laneLock 5 17) { link := 2 }).link = 2 ∧
    (x (.alignmentBlock 5 17 17 0) { link := 3, aligned := 0x1FFFF, laneMap := [0] }).link = 4 ∧
    (x (.alignmentBlock 5 4 4 0) { link := 3 }).aligned = 0 ∧ (x (.alignmentBlock 5 4 4 1) { link := 3 }).aligned = 16 := by
  decide +kernel
/-- Frames that arrive (R317, R323 to R326, R330 to R333). -/
theorem test_frames_in :
    let x (i : Instr) (v : Mill) := (after i (millState v)).mill 5
    let slot : Slot := ⟨0, true, 0⟩
    let id : IdentRec := ⟨0, 0, 0, 1, 1, true, false, true, 0, true, 0, [1, 2, 3, 4]⟩
    (x (.data 5 0 ctl0 ⟨false, false, false, true⟩ []) upMill).ue = 1 ∧ (x (.data 5 0 ctl0 ⟨false, false, false, true⟩ []) upMill).nak = true ∧
    (x (.idle 5 0 ctl0 ⟨true, true, false, true⟩) upMill).nak = true ∧ (x (.data 5 0 ctl0 goodRx [slot]) upMill).inq = [slot] ∧
    (x (.data 5 0 ctl0 goodRx [slot]) upMill).expect = 1 ∧ (x (.data 5 0 ctl0 goodRx [slot]) upMill).unacked = [] ∧
    (x (.data 5 0 { ctl0 with seq := 1 } goodRx [slot]) upMill).nak = true ∧
    (x (.idle 5 0 { ctl0 with ack := 0xFFFF } goodRx) { link := 6, idleSent := 64, idleGot := 63, partner := some id }).credits = [1, 2, 3, 4] ∧
    (x (.idle 5 0 { ctl0 with ack := 0xFFFF } goodRx) { link := 6, idleSent := 63, idleGot := 63, partner := some id }).link = 6 ∧
    (x (.train 5 0 ctl0 goodRx ⟨true, 1, []⟩) upMill).reason = 7 ∧ (x (.train 5 0 ctl0 goodRx ⟨false, 1, [3]⟩) upMill).laneMap = [3] ∧
    (x (.train 5 0 ctl0 goodRx ⟨false, 1, [3]⟩) { link := 3, aligned := 0x3FFFF }).link = 4 ∧
    (x (.ident 5 ⟨0, ctl0, goodRx, id⟩) { link := 4 }).link = 5 ∧ (x (.ident 5 ⟨0, ctl0, goodRx, id⟩) { link := 4, cfg := 0x84000001 }).link = 5 ∧
    (x (.ident 5 ⟨0, ctl0, goodRx, id⟩) { link := 4, cfg := 0x88000001 }).reason = 4 ∧ (x (.ident 5 ⟨0, ctl0, goodRx, id⟩) { upMill with cfg := 0x88000001 }).link = 4 ∧
    (x (.time 5 0 ctl0 goodRx ⟨.reply 0 64 128, 192⟩) { link := 5, times := 15 }).link = 6 ∧ (x (.time 5 0 ctl0 goodRx ⟨.reply 0 64 128, 192⟩) { link := 5 }).rtt = 128 ∧
    (x (.time 5 0 ctl0 goodRx ⟨.reply 0 264 300, 364⟩) { upMill with role := 2, partner := some id }).offset = 100 := by decide +kernel
theorem test_tick_follows :
    let id : IdentRec := ⟨0, 0, 0, 1, 1, true, false, true, 0, true, 0, []⟩
    let s := millState { upMill with role := 2, partner := some id }
    s.follows = some 5 ∧ (after (.time 5 0 ctl0 goodRx ⟨.reply 0 128002 0, 0⟩) s).tick = 1000 ∧ (after (.time 5 0 ctl0 goodRx ⟨.reply 0 128000 0, 0⟩) s).tick = 0 ∧
    (after (.time 5 0 ctl0 goodRx ⟨.reply 0 0 0, 128002⟩) s).tickHold = 1000 ∧ (after (.time 5 0 ctl0 goodRx ⟨.reply 0 128002 0, 0⟩) (s.setPlot 1 { state := .running })).tick = 0 := by
  decide +kernel
/-- Frames that leave (R318, R324, R326, R330, R332). -/
theorem test_frames_out :
    let x (v : Mill) := (after (.frameSend 5 0) (millState v)).mill 5
    let ty (v : Mill) := (x v).sent.map TxFrame.type
    let slot : Slot := ⟨0, true, 0⟩
    ty { link := 1 } = none ∧ ty { link := 1, downUntil := some 5 } = some .train ∧ ty { link := 2 } = some .train ∧
    ty { link := 4 } = some .ident ∧ ty { link := 5 } = some .time ∧ ty { link := 6 } = some .idle ∧
    (x { link := 6 }).idleSent = 1 ∧ ty upMill = some .idle ∧ ty { upMill with seq := 4, outq := [slot] } = some .data ∧
    (x { upMill with seq := 4, outq := [slot] }).unacked = [(2, []), (4, [slot])] ∧
    (x { upMill with resend := [(4, [slot])] }).resend = [] ∧ ty { upMill with timeDue := true } = some .time ∧
    ty { upMill with identDue := true } = some .ident := by decide +kernel

/-- A rank entry for cell `c0` of wafer `w`, and a route to wafer 9 over mill 5. -/
def remoteState (w : Nat) (v : Mill) : State :=
  { millState v with ranks := [(rankKey 5 4, BitVec.ofNat 32 (2 ^ 30 + w * 2 ^ 18 + 3 * 624 + 3))], routes := [(routeKey 5 9, BitVec.ofNat 32 (2 ^ 31 + 5))] }
def request (a : Nat) (l : Option LatchId) (n : Nat) : RemoteReq := ⟨.cell c1, 7, BitVec.ofNat 42 a, 4, l, List.replicate n 1⟩
/-- Remote requests at their limits (R337, R339 to R341). -/
theorem test_remote_requests :
    let q (s : State) (r : RemoteReq) := after (.remoteRequest 5 r) s
    let b (s : State) (r : RemoteReq) := (q s r).net.map (·.body)
    let far := remoteState 9 upMill
    far.routeMill 5 9 (sourceKey (.cell c1)) = some 5 ∧ far.routeMill 4 9 0 = none ∧ b far (request 0 none 0) = [.errorResp 7 4 false] ∧
    b far (request 0 none 225) = [.errorResp 7 4 false] ∧ b far (request 33 none 224) = [.errorResp 7 4 false] ∧
    ((q far (request 32 none 224)).mill 5).tracks = [⟨0, 0, .cell c1, 7, 0⟩] ∧ ((q far (request 32 none 224)).mill 5).outq.length = 8 ∧
    b (remoteState 8 upMill) (request 0 none 4) = [.errorResp 7 1 false] ∧
    b (remoteState 9 { link := 6 }) (request 0 none 4) = [.errorResp 7 1 false] ∧
    b State.reset (request 0 none 4) = [.errorResp 7 4 false] ∧
    b { far with millsOut := [5] } (request 0 none 4) = [.errorResp 7 2 false] ∧
    ((q far (request 0 (some 3) 0)).mill 5).outq.length = 1 ∧
    (q { remoteState 0 {} with wafer := 0 } (request 0 none 4)).net.map (·.dest) = [.unicast (.cell c0)] ∧
    ((q { remoteState 0 {} with wafer := 0 } (request 0 (some 3) 0)).mill 5).heldOps.length = 1 := by decide +kernel

/-- The header of a WRITE for cell `c0` of this wafer. -/
def hdr : ChonelHdr :=
  { pace := false, jobtag := 0, arg := 0, target := 3, rtag := 0, src := 77, bytes := 3, addr := 64, endpoint := BitVec.ofNat 18 (3 * 624 + 3),
    kind := 1, dmill := 5, smill := 6, swafer := 9, dwafer := 0, len := 1, ctype := 0 }
theorem test_packets_in :
    let s := remoteState 9 { upMill with inq := packetSlots hdr [1, 2, 3, 4] }
    let x (i : Instr) := after i s
    (x (.write 5 hdr [1, 2, 3, 4])).net.map (·.body) = [.writeReq 64 3 false 0 [1, 2, 3, 4]] ∧
    ((x (.write 5 hdr [1, 2, 3, 4])).mill 5).inq = [] ∧ ((x (.write 5 hdr [1, 2, 3, 4])).mill 5).freed.sum = 2 ∧
    ((x (.write 5 { hdr with jobtag := 1 } [1])).mill 5).dropJob = 1 ∧
    ((x (.write 5 { hdr with dwafer := 1 } [1])).mill 5).dropBad = 1 ∧ ((x (.write 5 { hdr with dwafer := 1 } [1])).mill 5).outq.length = 1 ∧
    ((x (.write 5 { hdr with kind := 3 } [1])).mill 5).outq.length = 1 ∧
    ((x (.latch 5 { hdr with ctype := 3 })).mill 5).heldOps.map (·.unit) = [8] ∧
    ((x (.latch 5 { hdr with ctype := 3, target := 0x18000 })).mill 5).heldOps = [] ∧
    ((x (.gate 5 { hdr with ctype := 4 })).mill 5).heldOps.map (·.unit) = [9] ∧
    latchIdOk 3 = true ∧ gateIdOk 3 = true ∧ (s.mill 5).freeTag = some 0 := by decide +kernel
theorem test_remote_answers :
    let s := { remoteState 9 { upMill with tracks := [⟨1, 2, .cell c1, 7, 0⟩], rtimeout := 10 } with tick := 1000000 }
    let a : ChonelHdr := { hdr with rtag := BitVec.ofNat 20 (2 * 4096 + 1), ctype := 1, len := 0 }
    let x (i : Instr) := after i s
    (x (.rack 5 a)).net.map (·.body) = [.writeAck 7] ∧ ((x (.rack 5 a)).mill 5).tracks = [] ∧
    (x (.rnak 5 { a with arg := 4 })).net.map (·.body) = [.errorResp 7 4 false] ∧ ((x (.rnak 5 { a with arg := 4 })).mill 5).failedCnt = 1 ∧
    ((x (.rnak 5 { a with arg := 5 })).mill 5).failedCnt = 0 ∧ ((x (.rack 5 { a with rtag := 1 })).mill 5).late = 1 ∧
    (x (.rack 5 { a with dmill := 4 })).net.map (fun p => bodyType p.body) = [(.forward { a with dmill := 4 } (.hub (millField 5) (millUnit 5) 0) 0 [] : Body)].map bodyType ∧
    (x (.remoteTimeout 5 1)).net.map (·.body) = [.errorResp 7 1 false] ∧
    after (.remoteTimeout 5 1) { s with tick := 999999 } = { s with tick := 999999 } ∧ after (.remoteTimeout 5 2) s = s := by decide +kernel
theorem test_handoff :
    let o (w : List Byte) : HeldOp := ⟨9, 77, 8, 0, .latchOp .set 3 false false (some 9) 0, w, []⟩
    let s := millState { heldOps := [o [1], o []] }
    ((after (.remoteLatchHandoff 5) s).mill 5).heldOps = [o [1]] ∧ (after (.remoteLatchHandoff 5) s).net.length = 1 ∧
    after (.remoteLatchHandoff 5) (millState { heldOps := [o [1]] }) = millState { heldOps := [o [1]] } := by decide +kernel


/-! ### Threshing (12) -/

/-- A root tensor of one element with one child, and its group with the trees of this wafer. -/
def tensor : ThrTensor :=
  { id := 1, e := -20, count := 1, children := [⟨9, 5, 5⟩], cast := .ch16, block := none, root := true, parent := 0, parentMill := 0, upMill := 0,
    segs := [⟨1, 0, 0, 64, 0, 1⟩], rets := [⟨1, 0, 0, 128, 0, 1⟩], sum := 0, streams := [], prog := [], consts := [] }
def group : ThrGroup :=
  { id := 2, mode := 1, maxRerun := 1, plot := 1, stride := 1, trigger := 0, harvest := 3, ret := 4, px := 0, py := 0, addr := 256, retention := 0,
    timeout := 1, tensors := [tensor], waiting := true }
/-- Mill 5 with the group, and with its step in the given run. -/
def thrState (st : ThrState) (r : Option ThrRun) (g : ThrGroup) : State :=
  (millState { upMill with thrGroups := [g], thrState := st, run := r }).setPlot 1 plotOn
def run0 : ThrRun := { group := 2, step := 0 }
/-- The header of a packet for the step. -/
def thrHeader (attempt : Nat) : ChonelHdr :=
  { hdr with ctype := 5, swafer := 9, target := 0, addr := 0x40000000, arg := BitVec.ofNat 8 (8 * attempt + 32), rtag := BitVec.ofNat 20 492, len := 1 }

/-- Conversions at the limits of HF96, residues and sums (R350 to R354). -/
theorem test_hf96 :
    toHF96 0 0x3F800000 = (some 1, false) ∧ toHF96 0 0xBF800000 = (some (BitVec.ofInt 96 (-1)), false) ∧ toHF96 0 0x7F800000 = (none, false) ∧
    decodeF .b32 0x3F800000 = .fin false 8388608 (-23) ∧ toHF96 (-149) 0x00000001 = (some 0, false) ∧
    residue 8191 = 0 ∧ residue 8192 = 1 ∧ residue (BitVec.ofInt 96 (-1)) = 8190 ∧
    addElems true [[(3, 3)], [(BitVec.ofInt 96 (-5), 8186)]] 1 = ([BitVec.ofInt 96 (-2)], false) ∧
    addElems true [[(3, 4)], [(5, 5)]] 1 = ([], true) ∧ hfChecksum [3, BitVec.ofInt 96 (-5)] = BitVec.ofInt 64 (-2) := by decide +kernel
theorem test_step_start :
    let t := after (.threshStepStart 5) (thrState .idle none group)
    (t.mill 5).run.map (·.group) = some 2 ∧ (t.mill 5).thrState = .harvest ∧ ((t.mill 5).thrGroups.map (·.steps)) = [1] ∧
    (t.wain (wainKey (.mill 5 0))).state = .running ∧
    after (.threshStepStart 5) (thrState .idle none { group with waiting := false }) = thrState .idle none { group with waiting := false } ∧
    ((thrState .idle (some run0) group).mill 5).runGroup = some (run0, group) := by decide +kernel
/-- A RESIDUE failure at a root reruns while MAXRERUN allows it; another failure makes the step BAD (R357, R359). -/
theorem test_failures :
    let f (c : BitVec 4) : ThrFail := ⟨c, 0, 5, 0, 0⟩
    let x (c : BitVec 4) (r : ThrRun) := (((thrState .up (some r) group).thrFail 5 (f c) 0 0 true).mill 5).run
    (x 2 run0).map (·.attempt) = some 1 ∧ (x 2 { run0 with attempt := 1 }).map (·.bad) = some true ∧ (x 5 run0).map (·.bad) = some true ∧
    x 2 { run0 with bad := true } = some { run0 with bad := true } := by decide +kernel
/-- The premises of `ThreshTakes` (R359, R363). -/
theorem witness_takes : (thrState .up (some run0) group).ThreshTakes 5 (thrHeader 0) run0 group 0 tensor :=
  ⟨by decide +kernel, by decide +kernel, by decide +kernel, by decide +kernel, by decide +kernel, by decide +kernel,
    by decide +kernel, by decide +kernel⟩
theorem witness_takes_child :
    (thrState .up (some run0) { group with tensors := [{ tensor with root := false }] }).ThreshTakes 5 (thrHeader 0) run0
      { group with tensors := [{ tensor with root := false }] } 0 { tensor with root := false } :=
  ⟨by decide +kernel, by decide +kernel, by decide +kernel, by decide +kernel, by decide +kernel, by decide +kernel,
    by decide +kernel, by decide +kernel⟩
theorem test_packets_up :
    let s := thrState .up (some run0) group
    let r (i : Instr) := ((after i s).mill 5).run
    hdrAttempt (thrHeader 0) = 0 ∧ tensor.inputOf (thrHeader 0) = some 1 ∧ run0.window 1 = 0 ∧
    (r (.up 5 (thrHeader 0) [(3, 3)])).map (·.recv) = some [(1, [(3, 3)])] ∧
    (r (.up 5 (thrHeader 0) [(3, 4)])).map (·.attempt) = some 1 ∧
    (r (.up 5 { thrHeader 0 with rtag := 0 } [(3, 3)])).map (·.bad) = some true ∧
    (r (.upend 5 (thrHeader 0) 7)).map (·.checks) = some [(1, 7)] ∧ (r (.abort 5 (thrHeader 0) ⟨5, 9, 5, 1, 0⟩)).map (·.bad) = some true ∧
    after (.up 5 (thrHeader 1) [(3, 3)]) s = s ∧
    ((after (.up 5 { thrHeader 0 with jobtag := 1 } [(3, 3)]) s).mill 5).dropJob = 1 ∧
    (after (.stop 5 { thrHeader 0 with dmill := 4 } ⟨5, 9, 5, 1, 0⟩) s).net.length = 1 := by decide +kernel
theorem test_packets_down :
    let g : ThrGroup := { group with tensors := [{ tensor with root := false, children := [], rets := [] }] }
    let s := thrState .down (some run0) g
    let r (i : Instr) := ((after i s).mill 5).run
    (r (.down 5 (thrHeader 0) [1, 2])).map (·.vals) = some [(0, [1, 2])] ∧
    (r (.downend 5 (thrHeader 0) (crc32c []))).map (·.ended) = some [0] ∧
    (r (.downend 5 (thrHeader 0) 1)).bind (fun x => x.first.map (·.cause)) = some 10 ∧
    (r (.stop 5 (thrHeader 0) ⟨5, 9, 5, 1, 0⟩)).map (·.bad) = some true ∧
    ((after (.rerun 5 (thrHeader 1)) (thrState .down (some { run0 with recv := [(0, [])] }) g)).mill 5).thrRerun = 1 := by decide +kernel
/-- A CRC-32C of the Castagnoli polynomial: the check value of "123456789" (log entry 23). -/
theorem test_crc : crc32c [0x31, 0x32, 0x33, 0x34, 0x35, 0x36, 0x37, 0x38, 0x39] = 0xE3069283 := by decide +kernel

/-- A harvest takes a segment and clears it; the end of a step writes its record (R349, R365). -/
theorem test_harvest :
    let s := { thrState .harvest (some run0) group with ni := { origins := [(1, c0)] }, loft := Memory.writeBytes [] (loftKey c0 64) (leBytes 4 0x3F800000) }
    let x := State.harvestSeg 5 (-20) (s, {}) ⟨1, 0, 0, 64, 0, 1⟩
    x.2.elems = [(1048576, residue 1048576)] ∧ x.1.loft = [] ∧ x.2.err = none ∧
    (State.harvestSeg 5 (-20) (s.setCell c0 { lockedOut := true }, {}) ⟨1, 0, 0, 64, 0, 1⟩).2.err = some 7 ∧
    (s.cell c0).lockedOut = false ∧ s.isHole c0 = false ∧ s.refusedRange c0 64 4 = false ∧
    (s.plot 1).cellAt 0 0 = c0 ∧ (State.thrReturnOne 5 tensor [0x3F800000] s ⟨1, 0, 0, 128, 0, 1⟩).loft.read (loftKey c0 129) ≠ 0 := by
  decide +kernel
theorem test_step_end :
    let s := { thrState .down (some { run0 with ended := [0] }) group with tick := 100000 }
    let t := after (.threshStatusRecord 5) s
    (t.mill 5).run = none ∧ (t.mill 5).thrState = .idle ∧ ((t.hub (latchField 4)).latch (latchIndex 4)).val = true ∧
    t.loft.read (loftKey c0 (256 + 4)) = 0 ∧
    ((after (.threshStatusRecord 5) (thrState .down (some { run0 with bad := true }) group)).mill 5).thrBad = 1 ∧
    after (.threshStatusRecord 5) (thrState .down (some run0) group) = thrState .down (some run0) group ∧
    ((after (.nodeTimeout 5) s).mill 5).run.map (·.bad) = some true ∧ ((after (.nodeTimeout 5) { s with tick := 99999 }).mill 5).run = (s.mill 5).run ∧
    (State.winnowAll 5 1 [] (thrState .winnow (some run0) { group with tensors := [] })).2 = true ∧
    ((after (.winnow 5) (thrState .winnow (some run0) { group with tensors := [] })).mill 5).thrState = .down := by decide +kernel

/-! ### Wains (10) -/

/-- Wain 2 of field 0, owned by plot 1 on cell `c0`, in the given condition, and a 16-byte descriptor from one loft address to another. -/
def wid : WainId := .hub 0 2
def desc : BitVec 512 := BitVec.ofNat 512 (16 + 2 ^ 52 + 0x7F * 2 ^ (64 + 53) + 0x7F * 2 ^ (128 + 53) + 0xF8 * 2 ^ 128)
def chainState (w : Wain) : State :=
  { State.reset.setPlot 1 plotOn with ni := { origins := [(1, c0)] } }.setWain (wainKey wid) { w with owner := 1 }
def chain : Wain := { state := .running, chains := [0], descAddr := BitVec.ofNat 64 (0x7F * 2 ^ 53) }
theorem test_descriptor :
    dLen desc = 16 ∧ malformed desc 1 1 = false ∧ packetLen desc 0 256 257 0 = 8 ∧ packetLen desc 8 256 257 0 = 8 ∧
    packetLen desc 0 4 257 0 = 4 ∧ malformed (desc + 2 ^ 61 * 5) 1 1 = true := by decide +kernel
theorem test_fetch :
    let s := { chainState chain with loft := Memory.writeBytes [] (loftKey c0 0) (leBytes 64 desc.toNat) }
    let t := after (.descriptorFetch wid) s
    s.resolve (wainKey wid) chain.descAddr 0 64 false 0 = .ok (.cell c0) 0 none ∧ (t.wain (wainKey wid)).desc = some desc ∧
    ((after (.descriptorFetch wid) (chainState { chain with descAddr := 0x1000000000000000 })).wain (wainKey wid)).state = .waitmap ∧
    ((after (.descriptorFetch wid) (chainState { chain with descAddr := 0x3000000000000000 })).wain (wainKey wid)).err = 6 ∧
    ((after (.descriptorFetch wid) (chainState { chain with descAddr := 0x2000000000000000 })).wain (wainKey wid)).err = 9 ∧
    ((after (.descriptorFetch wid) (chainState { chain with stopReq := true })).wain (wainKey wid)).state = .stopped ∧
    ((chainState chain).wainError (wainKey wid) 7).faultSeq = 1 := by decide +kernel
theorem test_packets :
    let s := chainState { chain with desc := some desc }
    let t := after (.wainRangeRegister wid) s
    let u := after (.wainPacketIssue wid) t
    (t.wain (wainKey wid)).registered = true ∧ (t.cell c0).board.length = 2 ∧ (u.wain (wainKey wid)).issued = 8 ∧
    u.net.map (·.body) = [.readReq 0 7 0] ∧
    (let full := s.setCell c0 { board := List.replicate 7 ⟨0, 1, true, .load⟩ }
     (((after (.wainRangeRegister wid) full).wain (wainKey wid)).state = .waitmap)) ∧
    ((after (.wainPacketIssue wid) (chainState { chain with desc := some desc, registered := true, stopReq := true })).wain (wainKey wid)).state =
      .stopped := by decide +kernel
theorem test_misses :
    let w : Wain := { chain with state := .waitmap, miss := some (0x200000, false, false) }
    let s := { chainState w with gmap := [(1, BitVec.ofNat 64 (2 ^ 63))], gstacks := [(0, { state := .active })] }
    (s.mapRead 1 (s.copiesFor 0)).2 = some (BitVec.ofNat 64 (2 ^ 63)) ∧ s.copiesFor 0 ≠ [] ∧
    ((after (.mapEntryRead wid) s).wain (wainKey wid)).state = .running ∧
    ((after (.mapEntryRead wid) { s with gmap := [] }).wain (wainKey wid)).faulting.isSome = true ∧
    ((after (.mapEntryRead wid) { s with gstacks := [] }).wain (wainKey wid)).err = 3 ∧
    (let f := after (.wainFaulted wid) (chainState { chain with faulting := some 5 })
     (f.wain (wainKey wid)).state = .faulted ∧ f.pageSeq = 1 ∧ f.pageFaults.length = 1) := by decide +kernel
theorem test_descriptor_end :
    let w : Wain := { chain with desc := some desc, registered := true, issued := 16, progress := 16 }
    let t := after (.descriptorComplete wid) (chainState w)
    (t.wain (wainKey wid)).dcount = 1 ∧ (t.wain (wainKey wid)).state = .idle ∧ (t.wain (wainKey wid)).chains = [] ∧
    ((after (.descriptorComplete wid) (chainState { w with chains := [0, 64] })).wain (wainKey wid)).descAddr = 64 ∧
    ((after (.descriptorComplete wid) (chainState { w with chains := [0, 64], dryReq := true })).wain (wainKey wid)).state = .stopped ∧
    after (.descriptorComplete wid) (chainState { w with issued := 15 }) = chainState { w with issued := 15 } ∧
    after (.hostCompletion wid 9 true []) (chainState w) = chainState w := by decide +kernel

/-! ### Scrubs, defects, the queue and reset -/

theorem test_scrubs :
    let s : State := { State.reset with loftErr := [(c0.toNat * 2 ^ 17 + 5, 1)], scrubs := [c0.toNat * 2 ^ 17 + 5] }
    (after (.correctedWriteBack c0) s).loftErr = [] ∧ (after (.correctedWriteBack c0) s).scrubs = [] ∧
    after (.correctedWriteBack c1) s = s ∧ ((after (.loftPatrolScrub c0 5) s).hub 0).cecnt = 0 ∧ ((after (.loftPatrolScrub c0 5) { s with scrubs := [] }).hub 0).cecnt = 1 ∧
    ((after (.loftPatrolScrub c0 5) { s with loftErr := [(c0.toNat * 2 ^ 17 + 5, 2)] }).hub 0).uecnt = 1 ∧
    after (.loftPatrolScrub c0 5) (s.setHub 0 { loftCtrl := 0 }) = s.setHub 0 { loftCtrl := 0 } ∧
    (let g := { stackState with granErr := [(5, 1), (6, 2)] }
     ((after (.granaryPatrolScrub 0 5) g).stack 0).cecnt = 1 ∧ ((after (.granaryPatrolScrub 0 6) g).stack 0).uelog.msb = true ∧
     after (.granaryPatrolScrub 1 5) g = g) := by decide +kernel

/-- A plot whose only cell sleeps, with a watchdog of 10 µs; probes; a field that trips one unit above its level (R220, R457, R494). -/
theorem test_defects :
    let s (n : Nat) : State := { (State.reset.setPlot 1 { plotOn with wdog := 0x8000000A }).setCell c0
      { run := .running, owner := 1, missed := 9, held := [⟨0x20, 0x3240, true⟩], pc := 0x20 } with tick := n }
    (s 1000).isHeld c0 = false ∧ after (.cycleStall 1) (s 1000) = s 1000 ∧
    ((after (.cellProbe 0 [c0] []) (s 1000)).cell c0).dead = true ∧ after (.cellProbe 0 [c0] []) (s 999) = s 999 ∧
    ((after (.cellInternalCheck c0) (s 0)).cell c0).lockedOut = true ∧ ((after (.cellInternalCheck c0) (s 0)).plot 1).state = .faulted ∧
    (let f := (s 0).setHub 0 { powered := true, power := { trip := 0x00050007 } }
     after (.fieldTrip 0 5 7) f = f ∧ (f.hub 0).power.tripped 6 7 ≠ 0 ∧ (f.hub 0).power.tripped 5 8 ≠ 0) := by decide +kernel
theorem test_stall :
    let s (n : Nat) : State := { (State.reset.setPlot 1 { plotOn with wdog := 0x8000000A }).setCell c0
      { run := .running, owner := 1, held := heldWords (encodeWords (.pop c0 false 5 1)), pc := 0x20,
        queues := [(1, { cfg := 0x8000000000000000#64 })] } with tick := n }
    (s 1000).isHeld c0 = true ∧ ((after (.cycleStall 1) (s 1000)).plot 1).state = .faulted ∧
    ((after (.cycleStall 1) (s 1000)).cell c0).frozen = true ∧ after (.cycleStall 1) (s 999) = s 999 := by decide +kernel

/-- The queue: the front command runs, and an empty queue ticks, or lets the held counter wait (log entry 1). -/
theorem test_steps :
    (match step { State.reset with pending := [.bypass, .idcode] } with
      | .next t => t.pending
      | _ => []) = [.idcode] ∧
    State.reset.clockTick.tick = 1 ∧
    ({ State.reset with tickHold := 2 } : State).clockTick.tickHold = 1 := by decide +kernel
theorem witness_memories : State.reset.MemoriesWf := by
  constructor <;> decide +kernel
/-- Instructions that an encoding can spell (R62 to R97). -/
theorem witness_words : ∀ i ∈ ([.loop c0 1 1024 (.reg 1), .vadd c0 .ch8e 1 2 3, .mms c0 1 true 2 .ch16 false .s16x3 5, .wgo c0 7 1] : List Instr),
    i.spellable = true ∧ i.cellOf = some c0 ∧ encodeWords i ≠ [] ∧
      decodeWords c0 (encodeWords i ++ [0x3FFF]) = some ((encodeWords i).length, .instr i) := by decide +kernel

/-! ### Witnesses: issue, control, traps, CSRs and wains -/

/-- Units with a result in flight, held words that retire, and loops at the last word of their bodies. -/
theorem witness_completions :
    let r : Result := { unit := .scalar, addr := 0x20, sdst := some (5, 1), flags := 1 }
    let o : Result := { unit := .vector, addr := 0x21, vdst := [(1, 0)] }
    let v : Cell := { results := [o, r], aftrap := 1 }
    let t := State.reset.setCell c0 v
    ((t.cell c0).results = [o] ++ r :: [] ∧ r.unit = .scalar ∧ ∀ x ∈ [o], x.unit ≠ .scalar) ∧
    r.flags &&& v.aftrap ≠ 0 ∧ v.arith = none ∧ ((after (.unitCompletion c0 .scalar) t).cell c0).arith = some 0x20 := by decide +kernel
theorem witness_loops :
    let v (n : BitVec 24) : Cell := (({ loopOrder := [0, 1] } : Cell).setLoop 0 ⟨n, 0x16, 0x20, true⟩).setLoop 1 ⟨9, 0x10, 0x28, true⟩
    (∀ k ∈ [24, 1, 0], let n : BitVec 24 := BitVec.ofNat 24 k; (v n).intrap = false ∧ (v n).loopOrder = 0 :: [1] ∧ ((v n).loop 0).active = true ∧
      ((v n).loop 0).stop = 0x20 ∧ (∀ j ∈ ([1] : List CtrNo), ((v n).loop j).active = true → ((v n).loop j).stop ≠ 0x20) ∧
      (0 : CtrNo) ∉ ([1] : List CtrNo)) ∧
    1 < ((v 24).loop 0).count.toNat ∧ ((v 1).loop 0).count.toNat ≤ 1 ∧ { v 1 with intrap := true }.intrap = true := by decide +kernel
theorem witness_words_after :
    let v : Cell := runs [0x2806, 0x0318] {}
    let w (k : Nat) : HeldWord := ⟨BitVec.ofNat 13 (0x20 + k), [0x2806, 0x0318].getD k 0, true⟩
    v.held.take 2 = [w 0] ++ [w 1] ∧ [w 0].length + 1 = 2 ∧
    (∀ i < 2, (([w 0] ++ [w 1])[i]?).map HeldWord.addr = some (0x20 + BitVec.ofNat 13 i)) ∧
    (∀ x ∈ v.held.take 2, ∀ k ∈ v.loopOrder, (v.loop k).active = true → (v.loop k).stop ≠ x.addr) := by decide +kernel
theorem witness_returns :
    (ready (.ret c0) { vc with rstack := [] }).ComesToIssue c0 (.ret c0) 0x20 (encodeWords (.ret c0)).length ∧
    (ready (.ret c0) vc).ComesToIssue c0 (.ret c0) 0x20 (encodeWords (.ret c0)).length :=
  ⟨comes_to (by decide +kernel), comes_to (by decide +kernel)⟩
theorem witness_trips : vc.trips (.imm 0) = 0 ∧ vc.trips (.reg 1) ≠ 0 ∧ vc.rstack = 0x300 :: [] := by decide +kernel

/-- Cells that trap, in and out of a handler, and one that leaves a staging. -/
theorem witness_entries :
    (State.reset.cell c0).intrap = false ∧ ((State.reset.setCell c0 { intrap := true }).cell c0).intrap = true ∧
    ({ staging := true } : Cell).staging = true ∧ ({} : Cell).staging = false ∧
    (let s := State.reset.setCell c0 { run := .running, arith := some 0x20 }
     (s.cell c0).arith = some 0x20 ∧ s.canRun c0 = true ∧ (s.cell c0).intrap = false) ∧ (State.reset.cell c0).arith = none ∧
    State.reset.canRun c0 = false := by decide +kernel

/-- A HALT at an address of the library. -/
def libHalt : State :=
  (State.reset.setPlot 1 { state := .running, width := 1, height := 1, lx := 3, ly := 3 }).setCell c0
    { run := .running, owner := 1, pc := 0x1D00, held := [⟨0x1D00, 0x3240, true⟩], intrap := true, cause := 5 }
theorem witness_halts :
    libHalt.ComesToIssue c0 (.halt c0) 0x1D00 1 ∧ (libHalt.cell c0).idle = true ∧ (libHalt.cell c0).intrap = true ∧
    (ready (.halt c0) {}).ComesToIssue c0 (.halt c0) 0x20 1 ∧ ((ready (.halt c0) {}).cell c0).idle = true ∧
    ((ready (.halt c0) {}).cell c0).intrap = false :=
  ⟨⟨by decide +kernel, by decide +kernel, by decide +kernel, by decide +kernel, by decide +kernel, by decide +kernel, by decide +kernel⟩,
    by decide +kernel, by decide +kernel, comes_to (i := .halt c0) (by decide +kernel), by decide +kernel, by decide +kernel⟩
theorem witness_halts_waiting :
    let busy : Cell := { results := [{ unit := .vector, addr := 0x1F, vdst := [(1, 0)] }] }
    let p : Plot := { state := .running, width := 2, height := 1, lx := 3, ly := 3 }
    let s := (ready (.halt c0) { owner := 1 }).setPlot 1 p
    (comes (.halt c0) (ready (.halt c0) busy) = true ∧ ((ready (.halt c0) busy).cell c0).idle = false) ∧
    (comes (.halt c0) s = true ∧ (s.plot 1).state = .running ∧ ((s.plot 1).cells.all fun d => d == c0 || (s.cell d).run == .halted) = true) ∧
    (let o := s.setCell c1 { owner := 1, run := .running }
     comes (.halt c0) o = true ∧ c1 ∈ (o.plot 1).cells ∧ c1 ≠ c0 ∧ (o.cell c1).run ≠ .halted) := by decide +kernel

/-- Cells that fetch: one with room, one with a full hold, one that does not run. -/
theorem witness_fetch :
    let s (l : List Word14) : State := State.reset.setCell c0 (runs l {})
    ((s []).canRun c0 = true ∧ ((s []).cell c0).held.length < 4) ∧
    ((s [0, 0, 0, 0]).canRun c0 = true ∧ 4 ≤ ((s [0, 0, 0, 0]).cell c0).held.length) ∧ State.reset.canRun c0 = false := by decide +kernel

/-- Heads that settle: an instruction, a reserved word, an incomplete one and a broken one, with a breakpoint and without, and a broken
word at the vector entry of PMEM_PARITY. -/
theorem witness_heads :
    let s (l : List HeldWord) (b : Bool) : State := State.reset.setCell c0 { run := .running, pc := 0x20, held := l, bkptEn := b, bkptAddr := 0x20 }
    let ok (l : List HeldWord) (b : Bool) : Bool := (s l b).canRun c0 && !((s l b).cell c0).arithDue
    (∀ b, ok [⟨0x20, 0x3240, true⟩] b = true ∧ ((s [⟨0x20, 0x3240, true⟩] b).cell c0).head c0 = some (1, .instr (.halt c0))) ∧
    (∀ b, ok [⟨0x20, 0x2A13, true⟩, ⟨0x21, 0x1BC5, true⟩] b = true ∧
      ((s [⟨0x20, 0x2A13, true⟩, ⟨0x21, 0x1BC5, true⟩] b).cell c0).head c0 = some (2, .reserved 2)) ∧
    (ok [⟨0x20, 0x2806, true⟩] false = true ∧ ((s [⟨0x20, 0x2806, true⟩] false).cell c0).head c0 = none) ∧
    (∀ b, ok [⟨0x20, 0x2806, true⟩, ⟨0x21, 0x0318, false⟩] b = true ∧
      ((s [⟨0x20, 0x2806, true⟩, ⟨0x21, 0x0318, false⟩] b).cell c0).head c0 = some (2, .instr (.loop c0 0 7 (.imm 24)))) ∧
    (s [⟨12, 0, false⟩] false).canRun c0 = true := by decide +kernel

theorem witness_csrs :
    let v : Cell := { vs with csrSnap := some (0x20, 7) }
    v.csrSnap = some (0x20, 7) ∧ State.reset.csrValue v 0x24 = some 7 ∧ State.reset.csr v 0x48 ≠ none ∧ State.reset.csr v 0x7C = none ∧
    State.reset.csrValue v 0x7C = none ∧ v.rstack.length ≤ 8 := by decide +kernel

/-- Wain issues: a wain of the plot, idle, running, full and in ERROR, and a wain of another owner. -/
theorem witness_wains :
    let s (w : Wain) : State := (wainState (.wgo c0 3 1) 0x1FFFC0).setWain 3 { w with owner := 2 }
    let g (w : Wain) : Bool := comes (.wgo c0 3 1) (s w) && ((s w).wain (wainKey (.hub (fieldOf c0) 3))).owner == ((s w).cell c0).owner &&
      ((s w).cell c0).owner.toNat < 96
    g {} = true ∧ g { state := .running, chains := [0] } = true ∧ g { state := .running, chains := [0, 0, 0, 0] } = true ∧
    g { state := .error } = true ∧
    (∀ a ∈ [0x1FFFC0, 0x200000, 0x20], comes (.wgo c0 3 1) (wainState (.wgo c0 3 1) (BitVec.ofNat 32 a)) = true) ∧
    comes (.wstat c0 3 1) (wainState (.wstat c0 3 1) 0) = true ∧ comes (.wgo c0 4 1) (wainState (.wgo c0 4 1) 0) = true ∧
    ((wainState (.wgo c0 4 1) 0).wain (wainKey (.hub (fieldOf c0) 4))).owner ≠ ((wainState (.wgo c0 4 1) 0).cell c0).owner ∧
    comes (.wstat c0 4 1) (wainState (.wstat c0 4 1) 0) = true := by decide +kernel

/-! ### Witnesses: the loft, vectors and queues -/

/-- Loads that go on: readable, with a broken word, behind the scoreboard, behind a weight stream, and from another cell of a bay, with
tags free and with none. -/
theorem witness_loads :
    let i : Instr := .lw c0 5 1 1
    let s := ready i vm
    let err := { s with loftErr := [(wordKey c0 0x44, 2)] }
    let board := s.modCell c0 fun v => { v with board := [sbEntry 0x40 64 true .load] }
    let stream := s.modCell c0 fun v => { v with products := [⟨0, [], false, false, true⟩] }
    let far := bayState (.lw c0 5 1 0)
    let none_ := far.modCell c0 fun v => { v with bayStores := (List.range 256).map (BitVec.ofNat 8) }
    (comes i s = true ∧ s.loftPlace c0 ((s.cell c0).s 1) 1 4 = .at_ c0 0x44 ∧ (s.loftRead c0 0x44 4 0).2.2 = false ∧
      (s.cell c0).mayRead 0x44 4 = true ∧ (s.cell c0).streaming = false ∧ s.refusedRange c0 0x44 4 = false) ∧
    (comes i err = true ∧ (err.loftRead c0 0x44 4 0).2.2 = true ∧ ∃ w ∈ wordsOf c0 0x44 4, 2 ≤ Store.get 0 err.loftErr w) ∧
    (comes i board = true ∧ (board.cell c0).mayRead 0x44 4 = false) ∧ (comes i stream = true ∧ (stream.cell c0).streaming = true) ∧
    (comes (.lw c0 5 1 0) far = true ∧ far.loftPlace c0 ((far.cell c0).s 1) 0 4 = .at_ c1 0 ∧ c1 ≠ c0 ∧ (far.cell c0).freeTag ≠ none) ∧
    (comes (.lw c0 5 1 0) none_ = true ∧ none_.loftPlace c0 ((none_.cell c0).s 1) 0 4 = .at_ c1 0 ∧ (none_.cell c0).freeTag = none) ∧
    (s.hub (fieldOf c0)).uecnt.toNat < 2 ^ 32 - 1 ∧
    (∀ x ∈ ([.lw c0 5 1 1, .lh c0 5 1 (-1), .vld c0 2 1 1] : List Instr), (loadOf x).isSome = true) := by decide +kernel

/-- Places at both sides of each limit of a loft and of a bay's window. -/
theorem witness_places :
    let s := ready (.nop c0) vm
    let b := bayState (.nop c0)
    (s.plot (s.cell c0).owner).bay = false ∧ (b.plot (b.cell c0).owner).bay = true ∧
    s.loftPlace c0 0x1FFFFC 0 4 = .at_ c0 0x1FFFFC ∧ s.loftPlace c0 0x1FFFFC 1 4 = .trap 5 0x200000 ∧
    b.loftPlace c0 0x1FFFBC 0 4 = .at_ ((b.plot 1).cellAt ((b.cell c0).px / 4 * 4 + 2) ((b.cell c0).py / 6 * 6 + 1)) (1365 * 64 + 60) ∧
    0x1FFFBC = (1365 * 24 + 6) * 64 + 0x1FFFBC % 64 ∧ b.loftPlace c0 0x1FFFC0 0 4 = .at_ c0 0x1FFFC0 := by decide +kernel

/-- Stores that go on: writable, behind the scoreboard, to another cell of a bay with tags and with none, and over an unclaimed window. -/
theorem witness_stores :
    let i : Instr := .sw c0 2 1 1
    let s := ready i vm
    let board := s.modCell c0 fun v => { v with board := [sbEntry 0x40 64 true .load] }
    let far := bayState (.sw c0 2 1 0)
    let none_ := far.modCell c0 fun v => { v with bayStores := (List.range 256).map (BitVec.ofNat 8) }
    let r := { s with
      residents := [{ key := 0, lx := 3, ly := 3, width := 1, height := 1, start := 0, len := 0x42, claimed := false, damaged := false }] }
    (comes i s = true ∧ s.loftPlace c0 ((s.cell c0).s 1) 1 4 = .at_ c0 0x44 ∧ (s.cell c0).mayWrite 0x44 4 = true ∧
      s.refusedRange c0 0x44 4 = false ∧ (storeOf (s.cell c0) i).isSome = true) ∧
    (comes i board = true ∧ (board.cell c0).mayWrite 0x44 4 = false) ∧
    (comes (.sw c0 2 1 0) far = true ∧ far.loftPlace c0 ((far.cell c0).s 1) 0 4 = .at_ c1 0 ∧ c1 ≠ c0 ∧ (far.cell c0).freeTag ≠ none) ∧
    (comes (.sw c0 2 1 0) none_ = true ∧ (none_.cell c0).freeTag = none) ∧ r.refusedRange c0 0x40 4 = true ∧
    (storeOf vm (.vst c0 1 1 0)).any (fun e => e.1[0]? == some (some 0xFF) && e.1[8]? == some none) = true := by decide +kernel

/-- Queue reads: a queue that is not enabled or not of the width, one with no whole element, one with a data element and one with a
token, which ends a loop and sets a flag. -/
theorem witness_queue_reads :
    let s (i : Instr) := qState i
    let q (k : Nat) := ((s (.nop c0)).cell c0).queue (BitVec.ofNat 3 k)
    ((q 7).en = false ∧ ((q 1).en && (q 1).vec == true) = false ∧ ((q 1).en && (q 1).vec == false) = true) ∧
    headElem (q 2).buf = none ∧ headElem (q 3).buf = none ∧ headElem (q 1).buf = some [⟨0, 0, 0x99⟩] ∧ headElem (q 4).buf = some [⟨3, 0, 2⟩] ∧
    isToken ⟨0, 0, 0x99⟩ = false ∧ isToken ⟨3, 0, 2⟩ = true ∧ ((s (.nop c0)).cell c0).owner.toNat < 96 ∧
    ((s (.nop c0)).plot ((s (.nop c0)).cell c0).owner).state ≠ .empty ∧
    (∀ i ∈ ([.drop c0 7, .drop c0 2, .ttest c0 5 7, .ttest c0 5 2, .peek c0 false 5 2] : List Instr), comes i (s i) = true) := by
  decide +kernel
theorem witness_tokens :
    let q (x : DWord) : Queue := { cfg := x }
    ((q (BitVec.ofNat 64 0xFFFFFFFFFFFFFFFF)).tokFlag (tokKind ⟨3, 0, 2⟩)).isSome = true ∧ (q 0).tokFlag (tokKind ⟨3, 0, 2⟩) = none ∧
    ((q (BitVec.ofNat 64 0xFFFFFFFFFFFFFFFF)).tokCtr (tokKind ⟨3, 0, 2⟩)).isSome = true ∧ (q 0).tokCtr (tokKind ⟨3, 0, 2⟩) = none := by
  decide +kernel

/-- Channels: not enabled or not of the width, without credits, stopped, with credits, with a destination, without one, and with a span. -/
theorem witness_channels :
    let s := qState (.nop c0)
    let o (k : Nat) := (s.cell c0).chan (BitVec.ofNat 2 k)
    let span := s.modCell c0 fun v => v.setChan 0 { cfg := BitVec.ofNat 128 (1 + 2 * 4 + 1 * 2 ^ 16 + 1 * 2 ^ 32) }
    ((o 3).en = false ∧ ((o 0).en && (o 0).vec == true) = false ∧ ((o 0).en && (o 0).vec == false) = true) ∧
    (0 < (o 0).credits ∧ (o 0).stopped = false) ∧ (o 1).stopped = true ∧ (o 3).credits = 0 ∧
    ((o 0).destKind ≠ 2 ∧ s.feeds c0 (o 0) = [c1] ∧ (s.cell c0).lockedOut = false) ∧
    (s.feeds c0 { cfg := BitVec.ofNat 128 (1 + 1 * 2 ^ 32 + 2 ^ 52) } = [] ∨ ((o 0).destKind ≠ 2)) ∧
    ((span.cell c0).chan 0).destKind = 2 ∧ ((s.modCell c0 fun v => { v with lockedOut := true }).cell c0).lockedOut = true ∧
    (∀ i ∈ ([.push c0 false 5 0, .push c0 true 5 0, .push c0 false 5 1, .push c0 false 5 3, .tpush c0 0 3 9, .tpush c0 3 3 9, .tpush c0 1 3 9] : List Instr),
      comes i (qState i) = true) := by decide +kernel

/-- A packet that a further flit of its channel joins, with room for it and without. -/
theorem witness_gather :
    let t := after (.push c0 false 5 0) (qState (.push c0 false 5 0))
    (t.cell c0).pushed = some 0 ∧ t.net.map (openPacket c0 0) = [true] ∧ (State.reset.cell c0).pushed ≠ some 0 ∧
    t.net.map (fun p => match p.body with | .stream _ _ _ _ fl => fl.length | _ => 0) = [1] ∧
    (t.net.map fun p => openPacket c0 0 { p with body := match p.body with
      | .stream q d o sp fl => .stream q d o sp (List.replicate 7 ⟨1, 0, 0⟩ ++ fl.take 0)
      | b => b }) = [true] := by decide +kernel

/-! ### Witnesses: sleeping, signals, packets and the matrix array -/

/-- A cell with a result in flight, beside the states of the tests of sleeping. -/
theorem witness_sleep_busy :
    let busy : Cell := { vw with results := [{ unit := .vector, addr := 0x1F, vdst := [(1, 0)] }] }
    (∀ i ∈ ([.waiteFlag c0 3, .waiteDFlag c0 3 2 8, .waiteLatch c0 1, .waiteDLatch c0 1 2 8, .waitt c0 2] : List Instr),
      comes i (wState i busy) = true ∧ ((wState i busy).cell c0).idle = false ∧ ((wState i vw).cell c0).idle = true) ∧
    vw.evflags.getLsbD 3 = false ∧ (comes (.waiteFlag c0 3) (wState (.waiteFlag c0 3) { vw with evflags := 8 }) = true) ∧
    latchReg (vw.s 1) = some 0x805 ∧ latchReg (vw.s 2) = none ∧ (vw.pair 4).toNat ≤ 9 ∧ 0 < (vw.pair 2).toNat ∧
    0x805 < 48 * 2048 ∧ 48 * 2048 ≤ 0x18000 := by decide +kernel

/-- Signals: a bay cell with stores outstanding, all CLAIM tags in use, and targets inside and outside the plot. -/
theorem witness_signals :
    let held : State := (wState (.setl c0 1) { vw with bayStores := [1] }).setPlot 1 { state := .running, bay := true, width := 4, height := 6, lx := 3, ly := 3 }
    let tags : Cell := { vw with claims := (List.range 8).map fun k => (BitVec.ofNat 3 k, 5) }
    let s := wState (.sende c0 6 4) vw
    (comes (.setl c0 1) held = true ∧ held.bayHeld (held.cell c0) = true) ∧ s.bayHeld (s.cell c0) = false ∧
    (comes (.claim c0 8 1) (wState (.claim c0 8 1) tags) = true ∧ tags.freeCtag = none) ∧ vw.freeCtag ≠ none ∧
    (bits (vw.s 6) 31 19 = 0 ∧ bits (vw.s 6) 9 0 < bits vw.plot 18 9 ∧ bits (vw.s 6) 18 10 < bits vw.plot 27 19) ∧ bits (vw.s 7) 31 19 ≠ 0 ∧
    (s.placeOf c0 1 1 0 ≠ c0 ∧ s.placeOf c0 1 0 0 = c0) ∧ (s.cell c0).lockedOut = false := by decide +kernel

/-- Packets on their way, ejected, and none. -/
theorem witness_taken :
    let p : Packet := ⟨.hub 1 8 0, .unicast (.cell c0), none, 0, 0, .latchOp .wake 0x805 false false none 0, c0, .local, false, true, false⟩
    let t := latchAnswer .wake 0x805 c0
    let l : Wait := { on := .latch 0x805, deadline := some 9, result := some 8 }
    let s (e : Bool) : State := { sleeper l 0 with net := [{ p with ejected := e }] }
    (t p = true ∧ (s false).notYet t = true ∧ (s true).notYet t = false ∧ (sleeper l 0).notYet t = false) ∧
    ({ sleeper l 0 with net := [] ++ { p with ejected := true } :: [] } : State).net = (s true).net ∧
    ((s false).cell c0).run = .sleeping ∧ ((s false).cell c0).wait = some l ∧ l.on = .latch 0x805 ∧ ((s false).cell c0).lockedOut = false ∧
    (s false).isHole c0 = false := by decide +kernel
theorem witness_wakes :
    let w (on : WaitOn) (r : Option Nat) : Wait := { on := on, deadline := some 9, result := some 8, refused := r }
    (∀ on ∈ ([.tick, .flag 3, .latch 0x805] : List WaitOn), ((sleeper (w on none) 9).cell c0).run = .sleeping ∧
      ((sleeper (w on none) 9).cell c0).wait = some (w on none) ∧ (sleeper (w on none) 9).deadlineMet (w on none) = true ∧
      (sleeper (w on none) 8).deadlineMet (w on none) = false) ∧
    (w (.latch 0x805) (some 4)).refused = some 4 ∧ (State.reset.cell c0).run ≠ .sleeping := by decide +kernel
theorem witness_events :
    let t (p : Packet) : Bool := isFor p (.cell c0) && p.body == .event 3
    let p : Packet := ⟨.cell c1, .unicast (.cell c0), none, 0, 0, .event 3, c0, .local, false, true, true⟩
    let out : State := { State.reset.setCell c0 { lockedOut := true } with net := [p] }
    (State.reset.notYet t = false ∧ { State.reset with net := [{ p with ejected := false }] }.notYet t = true) ∧
    (out.notYet t = false ∧ (out.cell c0).lockedOut = true ∧ out.sourceOf t = some (.cell c1)) ∧ State.reset.sourceOf t = none ∧
    (State.reset.cell c0).lockedOut = false ∧ State.reset.isHole c0 = false ∧
    (({ claims := [(2, 5)] } : Cell).claims.find? fun x => x.1 == 2) = some (2, 5) := by decide +kernel

/-- Stream packets: for a queue with room in its buffer, behind a ring, full, and for another season; at a cell out of service; credits. -/
theorem witness_streams :
    let x (b r : Nat) (cfg : DWord) : Queue := { cfg := cfg, buf := List.replicate b ⟨0, 0, 0⟩, ringLen := r }
    let s (q : Queue) : State := (qState (.nop c0)).modCell c1 fun v => v.setQueue 1 q
    let at_ := Claims.streamAt c1 c0 (.stream 1 1 0 1 [⟨0, 0, 0⟩])
    let ok (q : Queue) : Bool := !(s q).notYet at_ && !((s q).cell c1).lockedOut && !(s q).isHole c1 && (((s q).cell c1).queue 1) == q
    (ok (x 15 0 0x8000000000000000) = true ∧ (x 15 0 0x8000000000000000).en = true) ∧
    (ok (x 16 0 0x8000000000000000) = true ∧ (x 16 0 0x8000000000000000).capacity < (x 16 0 0x8000000000000000).held + 1) ∧
    (ok (x 16 0 0x8080000000000000) = true ∧ (x 16 0 0x8080000000000000).ringLen < 112 * (x 16 0 0x8080000000000000).spill ∧
      (x 16 0 0x8080000000000000).ringHead < 112 * (x 16 0 0x8080000000000000).spill) ∧
    (ok (x 16 111 0x8080000000000000) = true ∧ (x 16 111 0x8080000000000000).held + 1 = (x 16 111 0x8080000000000000).capacity) ∧
    (ok (x 0 0 0) = true ∧ (x 0 0 0).en = false) ∧ (∀ r ∈ (s (x 0 0 0)).residents, r.claimed = true) ∧
    ((s (x 0 0 0)).cell c1).owner.toNat < 96 ∧ ((s (x 0 0 0)).plot ((s (x 0 0 0)).cell c1).owner).state ≠ .empty := by decide +kernel
theorem witness_credits :
    let s := qState (.nop c0)
    let v (f : Queue → Queue) : State := s.modCell c1 fun v => v.setQueue 1 (f { v.queue 1 with freed := 4 })
    let span : Chan := { cfg := BitVec.ofNat 128 (1 + 2 * 4 + 1 * 2 ^ 16 + 1 * 2 ^ 32) }
    let t := s.modCell c0 fun v => v.setChan 0 span
    (s.upstream c1 1 = some (c0, c0, 0, false, true) ∧ s.upstream c0 5 = none ∧ (((v id).cell c1).owing 1).freed = 4) ∧
    (((v fun q => { q with retained := true }).cell c1).owing 1).retained = true ∧
    (((v fun q => { q with dryHeld := true }).cell c1).owing 1).dryHeld = true ∧
    (t.upstream c0 1 = some (c0, c0, 0, true, false) ∧ t.producer c1 1 = some (c0, 0) ∧ ((t.cell c0).chan 0).destKind = 2) ∧
    s.producer c1 1 = some (c0, 0) := by decide +kernel
theorem witness_credits_in :
    let s := qState (.nop c0)
    ((s.cell c0).chan 0).destKind ≠ 2 ∧ (s.cell c0).season = 0 ∧ ((s.cell c0).queue 1).en = true ∧
    (s.modCell c1 fun v => { v with lockedOut := true }).isHole c1 = false ∧
    ((s.modCell c1 fun v => { v with lockedOut := true }).cell c1).lockedOut = true := by decide +kernel
theorem witness_refills :
    let s (b r : Nat) : State := State.reset.setCell c1
      { queues := [(1, { cfg := 0x8080000000000000#64, buf := List.replicate b ⟨0, 0, 0⟩, ringLen := r })] }
    (∀ b ∈ [0, 15], ∀ r ∈ [1, 112], (((s b r).cell c1).queue 1).ringLen ≠ 0) ∧ (s 0 1).loftErr = [] ∧
    (∀ r ∈ (s 0 1).residents, r.claimed = true) ∧ (((s 0 0).cell c1).queue 1).ringLen = 0 ∧ 16 ≤ (((s 16 1).cell c1).queue 1).buf.length := by
  decide +kernel

/-- Loads, swaps, readouts and products that go on, that wait, and that trap. -/
def filled (i : Instr) (f : Cell → Cell) (a sh : Word) : State :=
  ready i (f { vmat 0 0 with sregs := sregs [0, a, sh, 0x80] })
theorem witness_tiles :
    let s (i : Instr) (f : Cell → Cell) (a sh : Word) : Bool := comes i (filled i f a sh)
    let ld : Instr := .mldw c0 1 .ch8e
    let q (taken shadow : Bool) : Product := ⟨0, [(0, {})], taken, shadow, false⟩
    let wb : Instr := .mwb c0 0 1 .binary32 false true 2
    (∀ a ∈ [0, 0x1FFFC0, 0x20, 0x1FFF40], s ld id (BitVec.ofNat 32 a) 0 = true) ∧ 2 ^ 21 < (0x1FFFC0 : Word).toNat + 136 ∧
    (0x1FFF40 : Word).toNat + 136 ≤ 2 ^ 21 ∧
    (∀ i ∈ ([ld, .mswap c0] : List Instr), s i (fun v => { v with filling := some {} }) 0 0 = true ∧
      s i (fun v => { v with products := [q false true] }) 0 0 = true ∧ s i (fun v => { v with products := [q true true] }) 0 0 = true) ∧
    (s ld (fun v => { v with board := [sbEntry 0 64 true .load] }) 0 0 = true ∧
      ((filled ld (fun v => { v with board := [sbEntry 0 64 true .load] }) 0 0).cell c0).mayRead 0 136 = false) ∧
    (s (.mclr c0 0) id 0 0 = true ∧ ((filled (.mclr c0 0) id 0 0).cell c0).tileFree 0 = true ∧
      s (.mclr c0 0) (fun v => { v with products := [q false false] }) 0 0 = true ∧
      ((filled (.mclr c0 0) (fun v => { v with products := [q false false] }) 0 0).cell c0).tileFree 0 = false) ∧
    (∀ sh ∈ [0x0201, 0x0301, 0x0200, 0x0001], s wb id 0 (BitVec.ofNat 32 sh) = true) ∧
    (∀ a ∈ [0, 0x1FFFFF, 0x20], s wb id (BitVec.ofNat 32 a) 0x0201 = true) ∧
    s wb (fun v => { v with writebacks := [⟨0, 0, 0, false, 1, [], 0⟩] }) 0 0x0201 = true ∧
    s wb (fun v => { v with writebacks := [⟨0, 0, 0, true, 1, [], 0⟩] }) 0 0x0201 = true := by decide +kernel
theorem witness_products :
    let m (_ : Word) : Instr := .mmt c0 0 1 .ch16 .ch16 false .real 3 2
    let p (it : ElemType) (pm : PassMode) (tr : Bool) : Instr := .mms c0 0 tr 1 it false pm 2
    let j (sh a : Word) (f : Cell → Cell) : MatrixJudge := mmtJudge ((filled (m sh) f a sh).cell c0) 0 1 .ch16 .ch16 .real 3 2
    (∀ k ∈ [0x4201, 0x4281, 0x6201, 0x4000, 0x0201], let sh : Word := BitVec.ofNat 32 k; comes (m sh) (filled (m sh) id 0 sh) = true ∧
      ((filled (m sh) id 0 sh).cell c0).staging = false) ∧
    (j 0x4201 0 id = .ready ∧ j 0x4201 0x20 id = .trap 6 0x20 ∧ j 0x4201 0 (fun v => { v with products := [⟨0, [(0, {})], false, false, false⟩] }) = .hold) ∧
    (∀ sh ∈ [0x4201, 0x4000, 0x0201], ∀ i ∈ ([p .ch16 .real false, p .ch16 .s16x3 false, p .ch8e .real false] : List Instr),
      comes i (filled i id 0 (BitVec.ofNat 32 sh)) = true) ∧
    mmsLimits false .ch16 1 1 1 = true ∧ typeGroup .ch16 = typeGroup ((filled (.nop c0) id 0 0).cell c0).working.type ∧
    typeGroup .ch8e ≠ typeGroup ((filled (.nop c0) id 0 0).cell c0).working.type ∧ ((filled (.nop c0) id 0 0).cell c0).pathFree = true := by
  decide +kernel

/-- Completions in the array: what is there to complete, and what is not. -/
theorem witness_array :
    let st := after (.mmt c0 0 1 .ch16 .ch16 false .real 3 2) (ready (.mmt c0 0 1 .ch16 .ch16 false .real 3 2) (vmat 0 0))
    let q (taken : Bool) : Product := ⟨0, [(0, {})], taken, false, false⟩
    let s (v : Cell) : State := State.reset.setCell c0 v
    let wb := after (.mwb c0 0 1 .binary32 false true 2) (ready (.mwb c0 0 1 .binary32 false true 2) { vmat 0 0 with sregs := sregs [0, 0, 0x0201] })
    ((st.cell c0).staging = true ∧ st.canRun c0 = true ∧ (st.cell c0).arithDue = false ∧
      ((st.cell c0).head c0).map (·.2) = some (.instr (.mmt c0 0 1 .ch16 .ch16 false .real 3 2))) ∧
    ((s { products := [q true, q false] }).cell c0).products = [q true] ++ q false :: [] ∧ (q false).rowsTaken = false ∧
    (∀ x ∈ [q true], x.rowsTaken = true) ∧ ((s { filling := some {} }).cell c0).filling = some {} ∧ (State.reset.cell c0).filling = none ∧
    (wb.cell c0).writebacks.length = 1 ∧ ((wb.cell c0).writebacks.map (·.keep)) = [true] ∧ (State.reset.cell c0).staging = false := by
  decide +kernel

/-! ### Witnesses: the mesh, requests, latches and gates -/

/-- Routes on both sides of each comparison: toward a waypoint and a target, at a tap's column, at the seam, with a present and an absent unit,
and along a span. -/
theorem witness_routes :
    let hub (x y : Nat) : Packet := { readPacket (mkCell x y) none with dest := .unicast (.hub 0 8 3) }
    let span (x : Nat) (n : BitVec 10) : Packet := ⟨.cell c0, .multicast false 1 n, none, 3, 1, .stream 1 1 0 1 [⟨0, 0, 0⟩], mkCell x 3, .local, false, true, false⟩
    (∀ p ∈ [hub 2 3, hub 5 3, hub 3 3, hub 3 31, hub 3 40, hub 3 32], p.parityOk = true ∧ pktMalformed p = false ∧
      p.dest = .unicast (.hub 0 8 3) ∧ p.waypt = none) ∧
    State.reset.unitPresent 0 8 = true ∧ State.reset.unitPresent 0 63 = false ∧
    (∀ p ∈ [span 3 0, span 3 1, span 4 1], p.parityOk = true ∧ pktMalformed p = false ∧ (netState p).ifaceRoom p = true) ∧
    ([mkCell 2 3, mkCell 4 3, mkCell 3 2, mkCell 3 4].all fun w => !legHere (readPacket c0 (some w)) && !pktMalformed (readPacket c0 (some w))) = true ∧
    legHere (readPacket c0 (some c0)) = true ∧ neighbour (mkCell 0 0) 0 = none := by decide +kernel
theorem witness_choices :
    let p := readPacket c0 none
    let q : Packet := ⟨.cell c0, .unicast (.cell c1), none, 0, 0, .event 3, c0, .east, false, true, false⟩
    let s : State := { netState p with net := [p, q] }
    let r : CellId := mkCell 3 31
    let h : Packet := { readPacket r none with src := .hub 0 8 3, inPort := .hub }
    (s.winner c0 2).map (·.vc) = some 0 ∧ s.readyFor c0 2 ≠ [] ∧ (∃ x ∈ s.readyFor c0 2, x.vc = 0) ∧ s.routerOk c0 = true ∧
    (netState p).chosen c0 .local = some (p, .move 2) ∧ (State.reset.setCell c0 { routerDead := true }).routerOk c0 = false ∧ State.reset.chosen c0 .local = none ∧
    (seamIn r).isSome = true ∧ (match seamIn r with
      | some d => ((netState h).hubHead r d).isSome && (netState h).hubTurn r d
      | none => false) = true ∧ seamIn c0 = none ∧ requestTag p = some 5 ∧ requestTag q = none := by decide +kernel
theorem witness_links :
    let s : State := { State.reset with linkAll := .init }
    let x : Running := ⟨0, 0, 0x70061, [], true, .rejoin c0 2 0⟩
    (s.linkIn c0 2 = .init ∧ s.endsOk c0 2 = true ∧ s.running = none) ∧ State.reset.linkIn c0 2 ≠ .init ∧ isStitch c0 2 = false ∧
    (let t : State := { s with running := some x, links := [(linkKey c1 (facing 2), .up)] }
     t.running = some x ∧ x.what = .rejoin c0 2 0 ∧ t.linkIn c0 2 = .init ∧ t.endsOk c0 2 = true ∧
      (({ t with links := Store.insert t.links (linkKey c0 2) .up } : State).linkState c0 2 = .up)) ∧
    neighbour (mkCell 77 3) 2 = some (mkCell 78 3) ∧ isStitch (mkCell 77 3) 2 = true := by decide +kernel

/-- Requests: with space for the answer and without, in the loft, beyond it, refused, broken, and out of service. -/
theorem witness_requests :
    let dst : Endpoint := .cell c1
    let ok (s : State) : Bool := s.respRoom dst && !s.notYet fun p => sameUnit p.src (.cell c0) && isFor p dst && p.body == .readReq 0 0 5
    let w : State := { State.reset with
      residents := [{ key := 0, lx := 4, ly := 3, width := 1, height := 1, start := 0, len := 0x42, claimed := false, damaged := false }] }
    let e : State := { State.reset with loftErr := [(wordKey c1 0, 2)] }
    (ok State.reset = true ∧ State.reset.refusedRange c1 0 1 = false ∧ (State.reset.cell c1).lockedOut = false ∧ State.reset.isHole c1 = false) ∧
    (ok w = true ∧ w.refusedRange c1 0 1 = true) ∧ (ok e = true ∧ ∃ x ∈ wordsOf c1 0 1, 2 ≤ Store.get 0 e.loftErr x) ∧
    0x1FFFFF + 1 ≤ 2 ^ 21 ∧ 2 ^ 21 < 0x1FFFFF + 2 ∧ ok (State.reset.setCell c1 { lockedOut := true }) = true := by decide +kernel
theorem witness_hub_requests :
    let f := stackField 0
    let s := stackState
    let win : State := { State.reset.setPort 0 { linkUp := true, bme := true } with windows := [(0, ⟨0, 0, 4096, true, false⟩)] }
    let hinge := (State.reset.hingeField)
    (s.respRoom (.hub f 12 0) = true ∧ (s.hub f).dark = false ∧ s.unitOut f 12 = false ∧ stackOf f 12 = some 0 ∧ (s.stack 0).state = .active) ∧
    ((State.reset.stack 0).state ≠ .active) ∧ ((State.reset.setHub f { dark := true }).hub f).dark = true ∧
    ({ State.reset with millsOut := [5] }.unitOut (millField 5) (millUnit 5) = true) ∧ State.reset.isHinge hinge 20 = true ∧
    (win.windowOk 0 0 4 true).isSome = true ∧ win.windowOk 0 4096 1 false = none ∧ (win.windowOk 0 4095 1 false).isSome = true ∧
    State.reset.isHinge f 63 = false ∧ stackOf f 63 = none ∧ (millOf (millField 5) (millUnit 5)) = some 5 ∧
    (physStack 0 = 0 ∧ backed 0 = true ∧ backed 3 = true) := by decide +kernel
theorem witness_answers :
    let s := State.reset.setCell c0 bayCell
    s.notYet (answerFor (.cell c0) (.readResp 5 [0x34, 0x12])) = false ∧ (s.cell c0).bayLoads.length = 2 ∧
    ((s.cell c0).bayLoads.find? fun x => x.tag == 5).isSome = true ∧ (s.cell c0).bayLoads.find? (fun x => x.tag == 9) = none ∧
    wainAt 0 0 = some 0 ∧ wainAt 0 8 = none ∧ millOf (millField 5) (millUnit 5) = some 5 ∧ millOf 0 8 = none ∧
    wainAt (millField 5) (millUnit 5) = none ∧ s.unitOut 0 0 = false ∧
    s.notYet (answerFor (.hub 0 0 0) (.writeAck 0)) = false := by decide +kernel

/-- Latches: clear, set, a full table of waiters, and a gate's entry latch; a hub that is dark. -/
theorem witness_latches :
    let h (w : Nat) : Hub := { latches := [(5, { val := true })], waiters := List.replicate w ⟨5, c1, false⟩ }
    let s (w : Nat) : State := State.reset.setHub 1 (h w)
    let e : State := State.reset.setHub 1 { latches := [(5, { entry := some 0 })] }
    (State.reset.hubServes (latchField 0x805) = true ∧ ((State.reset.hub 1).latch (latchIndex 0x805)).entry = none ∧
      ((State.reset.hub 1).latch (latchIndex 0x805)).val = false ∧ (State.reset.hub 1).waiters.length < 8192) ∧
    (((s 1).hub 1).latch (latchIndex 0x805)).val = true ∧ ((e.hub 1).latch (latchIndex 0x805)).entry = some 0 ∧
    (State.reset.setHub 1 { dark := true }).hubServes 1 = false ∧
    State.reset.notYet (latchReq .set 0x805 (.cell c0)) = false ∧ State.reset.notYet (latchReq .claim 0x805 (.cell c0)) = false := by decide +kernel
theorem witness_full_table : (List.replicate 8192 (⟨5, c1, false⟩ : Waiter)).length = 8192 := List.length_replicate

/-- Gates in each state: arrivals of each kind, early and late ones, the last one, with a parent and without, timeouts and enabling. -/
theorem witness_gates :
    let s (g : Gate) : State := gateState g
    let up : Gate := { gate1 with state := .up, cur := 3, arr := 3, nxt := 1, parent := BitVec.ofNat 32 (2 * 2 ^ 30 + 70) }
    let t (b : Word) : Bool := bindKind b == 2 && bindGate b == 65
    ((s gate1).hubServes (gateField 64) = true ∧ (s gate1).notYet (gateReq false 64 0 (some 65)) = false ∧
      gate1.mask.getLsbD 0 = true ∧ t (gate1.slot 0) = true ∧ gate1.state = .opened ∧ gate1.arr.getLsbD 0 = false ∧
      (gate1.arr ||| 1 ≠ gate1.mask) ∧ bindKind gate1.parent = 0) ∧
    ({ gate1 with arr := 2 }.arr ||| 1 = gate1.mask) ∧ ({ gate1 with arr := 2, nxt := 3 }.nxt = gate1.mask) ∧
    (up.state = .up ∧ up.nxt ≠ up.mask ∧ bindKind up.parent ≠ 0 ∧ (s up).notYet (gateReq true 64 3 none) = false) ∧
    ({ up with nxt := 3 }.nxt = up.mask) ∧
    (gate1.slot 2 = 0 ∧ bindKind (gate1.slot 2) < 2 ∧ bindKind (BitVec.ofNat 32 (3 * 2 ^ 30)) = 3) ∧ ({ gate1 with ctrl := 0x80080000 } : Gate).owner.toNat < 96 ∧
    96 ≤ gate1.owner.toNat := by decide +kernel
theorem witness_gate_enables :
    let g : Gate := { gate1 with ctrl := 0x03F80000, state := .disabled }
    let s := gateState g
    (s.hubServes (gateField 64) = true ∧ (s.gate 64).state = .disabled ∧ g.mask ≠ 0 ∧
      (∀ k < 128, g.mask.getLsbD k = true → bindKind (g.slot k) ≠ 0) ∧ g.entry / 4 ≠ g.doneq ∧
      (∀ k ∈ g.entry :: (List.range 4).map (4 * g.doneq + ·), ((s.hub 1).latch k).entry = none ∧ ((s.hub 1).latch k).done = none)) ∧
    ({ g with mask := 0 }.mask = 0) ∧ ((State.reset.setHub 1 { dark := true }).hubServes (gateField 64) = false) ∧
    (let x : Gate := { gate1 with timeout := 0x80002710, since := some 0 }
     x.timeout.msb = true ∧ 0 + bits x.timeout 15 0 * 100 ≤ 1000000 ∧ ¬ 0 + bits x.timeout 15 0 * 100 ≤ 999999 ∧ x.since = some 0 ∧
      x.arr.getLsbD 0 = false ∧ x.mask.getLsbD 0 = true) := by decide +kernel

/-! ### Witnesses: mailboxes and settings -/

/-- Payloads at the limits of the clauses of Stewardship, Queries and Settings: each is a message that its command comes to. -/
def edges : List (Nat × List Byte) :=
  [(0x02, leBytes 8 3072), (0x02, leBytes 8 3071), (0x02, leBytes 8 (63 * 2 ^ 32)), (0x70, leBytes 4 99), (0x70, leBytes 4 100), (0x70, leBytes 4 60001),
   (0x40, leBytes 4 3999 ++ leBytes 4 40000 ++ leBytes 4 500), (0x40, leBytes 4 33001 ++ leBytes 4 40000 ++ leBytes 4 500),
   (0x40, leBytes 4 4000 ++ leBytes 4 3999 ++ leBytes 4 500), (0x40, leBytes 4 4000 ++ leBytes 4 40001 ++ leBytes 4 500),
   (0x40, leBytes 4 4000 ++ leBytes 4 4000 ++ leBytes 4 499)] ++
  [(0x33, leBytes 8 (3 * 2 ^ 62)), (0x33, leBytes 8 (3072 * 2 ^ 32)), (0x33, leBytes 8 (2 ^ 62 + 3071 * 2 ^ 32)), (0x20, padBytes [64, 0] 24),
   (0x20, padBytes [0, 2] 24), (0x20, padBytes [0, 0] 8 ++ leBytes 16 1), (0x20, padBytes [0, 0] 16 ++ leBytes 8 0),
   (0x20, padBytes [0, 0] 16 ++ leBytes 8 (2 ^ 48)), (0x20, padBytes [0, 0] 16 ++ leBytes 8 (2 ^ 48 + 4096)), (0x21, [64])] ++
  [(0x22, padBytes [16, 0] 16), (0x22, padBytes [0, 0] 16), (0x22, padBytes [0, 0, 0, 0, 0, 0, 0, 0, 0, 1] 16), (0x22, padBytes [0, 1] 8 ++ leBytes 8 1),
   (0x22, padBytes [0, 1] 8 ++ leBytes 8 (2 ^ 42)), (0x22, padBytes [0, 2] 8 ++ leBytes 8 96), (0x22, padBytes [0, 2] 8 ++ leBytes 8 256),
   (0x22, padBytes [0, 2] 8 ++ leBytes 8 (625 * 2 ^ 48)), (0x22, padBytes [0, 2] 8 ++ leBytes 8 (624 * 2 ^ 48)), (0x22, padBytes [0, 3] 16)] ++
  [(0x30, leBytes 4 0x17FFF ++ [0]), (0x30, leBytes 4 0x17FFF ++ [2]), (0x30, leBytes 5 0x18000),
   (0x23, leBytes 4 0 ++ leBytes 4 0 ++ leBytes 8 0), (0x23, leBytes 4 0 ++ leBytes 4 503 ++ leBytes 8 0), (0x23, leBytes 4 0x1FFFFF ++ leBytes 4 1 ++ leBytes 8 0),
   (0x23, leBytes 4 0x200000 ++ leBytes 4 1 ++ leBytes 8 0), (0x24, leBytes 4 0 ++ [2]), (0x24, leBytes 4 0 ++ [1]), (0x24, leBytes 4 0 ++ [0])]

theorem witness_edges : ∀ e ∈ edges, mailed (mailState e.1 e.2) e.1 = true := by decide +kernel

/-- Slots that are FREE, POSTED and DONE, mail of a known and an unknown opcode, masked and open vectors. -/
theorem witness_slots :
    let s := mailState 0x01 []
    let u := mailState 0xEE []
    (s.port 0).slotState 0 = 1 ∧ (s.port 0).slotState 1 = 0 ∧ ((s.setPort 0 ((s.port 0).setSlotState 0 3)).port 0).slotState 0 = 3 ∧
    (0, 0) ∈ s.mail ∧ (0, 1) ∉ s.mail ∧ opInfo (opcodeOf ((s.port 0).opword 0)) ≠ none ∧ opInfo (opcodeOf ((u.port 0).opword 0)) = none ∧
    s.wardServes 1 = true ∧ (okWith []).resp.length ≤ 4032 ∧ ({ mask := 0 } : Port).mask.getLsbD 0 = false ∧
    ({ mask := 1 } : Port).mask.getLsbD 0 = true ∧ seqOf ((s.port 0).opword 0) = 7 := by decide +kernel

/-- The premises of `ComesToMail`, and a check that answers: a length, another steward, a stopped wafer and a reserved byte. -/
def comesMail (s : State) (code : Nat) : Bool :=
  match opInfo code with
  | none => false
  | some o => o.code == code && s.mail.contains (0, 0) && opcodeOf ((s.port 0).opword 0) == code && s.wardServes code &&
      (!o.mutating || (s.running == none && s.firstMutating == some (0, 0))) &&
      s.acceptAll.generalCheck o 0 ((s.port 0).reqLen 0) ((s.port 0).payload 0) != none
theorem witness_checks :
    comesMail (mailState 0x01 [0]) 0x01 = true ∧
    comesMail { mailState 0x60 (leBytes 8 0) with steward := ⟨1, 1, 1, 1000, 0⟩ } 0x60 = true ∧
    comesMail { mailState 0x17 [0] with boot := { done := 8, stage := 9 } } 0x17 = true ∧
    comesMail { mailState 0x17 [0] with power := { stopped := true } } 0x17 = true ∧
    comesMail (mailState 0x60 [0, 0, 1, 0, 0, 0, 0, 0]) 0x60 = true ∧ comesMail { mailState 0x60 (leBytes 8 0) with steward := {} } 0x60 = true ∧
    (mailState 0x01 []).mail.contains (1, 0) = false ∧ (mailState 0x01 []).running = none := by decide +kernel

/-- Stewardship in each state, and a timeout at its tick and one before. -/
theorem witness_stewards :
    let s (x : Steward) (code : Nat) (l : List Byte) : State := { mailState code l with steward := x }
    (∀ x ∈ ([⟨1, 1, 1, 1000, 0⟩, ⟨1, 0, 1, 1000, 0⟩, ⟨2, 0, 1, 1000, 0⟩, ⟨2, 1, 1, 1000, 0⟩, {}] : List Steward),
      mailed (s x 0x70 (leBytes 4 100)) 0x70 = true ∧ mailed (s x 0x72 []) 0x72 = true) ∧
    (s ⟨1, 1, 1, 1000, 0⟩ 0x72 []).isSteward 0 = false ∧ (s ⟨1, 0, 1, 1000, 0⟩ 0x72 []).isSteward 0 = true ∧
    (let a : State := { mailState 0x72 [] with tick := 100000000 }
     a.steward.state = 1 ∧ a.steward.since + a.steward.timeout * 100000 ≤ a.tick ∧
      ¬ a.steward.since + a.steward.timeout * 100000 ≤ 99999999 ∧ (a.port 0).ringFull = false ∧ (a.port 0).noticesHeld = []) := by decide +kernel

/-- Ledger positions that are known and unknown, firmware slots with and without a TRIAL image. -/
theorem witness_areas :
    let f (a b : BitVec 3) : State := { State.reset with fw := { a := ⟨a, []⟩, b := ⟨b, []⟩ } }
    ((f 4 0).fw.a.state = 4 ∧ (f 0 4).fw.b.state = 4) ∧ (¬ ((f 5 0).fw.a.state = 4 ∨ (f 5 0).fw.b.state = 4) ∧ (f 5 0).fw.running = false) ∧
    ({ (f 0 5) with fw := { (f 0 5).fw with running := true } } : State).fw.running = true ∧
    (State.reset.ledger.any fun e => [e.field, e.row, e.col] == [0, 0, 0]) = false := by decide +kernel

/-- Windows: none, one that no packet uses, one that a wain's packet uses, and a deletion that waits. -/
def windowState (w : Wain) : State :=
  { (mailState 0x21 [0]).setWain 2 w with windows := [(0, ⟨0, 0, 4096, true, false⟩)] }
theorem witness_windows :
    let busy : Wain := { packets := [{ tag := 0, tgt := .host 0, addr := 0, todo := [], reads := [], data := [] }] }
    mailed (windowState {}) 0x21 = true ∧ (Store.find? (windowState {}).windows 0).isSome = true ∧ (windowState {}).windowBusy 0 = false ∧
    mailed (windowState busy) 0x21 = true ∧ (windowState busy).windowBusy 0 = true ∧ Store.find? (mailState 0x21 [0]).windows 0 = none ∧
    (let t := after (.hostWindowDel 0 0) (windowState busy)
     t.running.map Running.what = some (.window 0) ∧ (t.running.map fun r => (r.port, r.slot)) = some (0, 0)) := by decide +kernel

/-! ### Witnesses: plans and plots -/

/-- A block of an image with a CRC field and padding (R368). -/
def imageBlock (kind plot config count crc : Nat) (body : List Byte) : List Byte :=
  let h := leBytes 2 kind ++ leBytes 1 plot ++ leBytes 1 config ++ leBytes 4 body.length ++ leBytes 4 count
  h ++ leBytes 4 crc ++ body ++ List.replicate (padLen body.length) 0
/-- An image of plot 1, of one cell and one configuration of the given season with no rectangle (R367 to R371). -/
def planBytes (season : Nat) : List Byte :=
  imageBlock 1 0xFF 0xFF 1 212636256 (leBytes 4 0x4E414C50 ++ leBytes 2 1 ++ leBytes 2 4 ++ leBytes 4 320 ++ leBytes 4 0 ++ leBytes 4 0 ++ padBytes [1] 44) ++
  imageBlock 2 0xFF 0xFF 1 3783051237 ([1, 0] ++ leBytes 2 1 ++ leBytes 2 1 ++ [1, 0] ++ leBytes 24 0) ++ imageBlock 3 1 0 0 (if season = 0 then 1670210549 else if season = 3 then 3100239004 else 3892013633) (padBytes [BitVec.ofNat 8 season] 8) ++
  imageBlock 15 0xFF 0xFF 0 1299270850 []
/-- Bytes at the start of page 0 of a granary whose stack 0 holds the page. -/
def granState (s : State) (l : List Byte) : State :=
  { s with gmap := [(copyKey 0 0, BitVec.ofNat 64 (2 ^ 63))], gstacks := [(0, { state := .active })], 
           granary := (l.zipIdx.filter fun (e : Byte × Nat) => e.1 != 0).map fun (e : Byte × Nat) => (e.2, e.1) }
/-- A PLAN_LOAD of the image at granary-map address 0 with plot 1 at (3, 3). -/
def loadState : State := granState (mailState 0x10 (leBytes 9 0 ++ [1] ++ leBytes 6 0 ++ [1, 0, 3, 0, 3, 0, 0, 0])) (planBytes 0)

/-- What a load finds in a list of blocks: the first failure of its checks. -/
def loadFails (s : State) (l : List Block) : Option Bad :=
  (takeImage l).formatBad <|> s.loadBad (takeImage l) false (placings ((s.port 0).payload 0) 1)
/-- Loads that pass every check, without a RESIDENT entry, and that fail one: the image (its END block is missing), the CRC, the layout,
the placement, the address. -/
theorem witness_plan_loads :
    let x := State.readBlocks loadState 0 0 65536 0 0
    mailed loadState 0x10 = true ∧ loadState.plan = none ∧ x.2.2 = none ∧ loadFails x.1 x.2.1 = none ∧
    (match claimAll (takeImage x.2.1) (placings ((loadState.port 0).payload 0) 1) (takeImage x.2.1).claims [] with
      | .inl l => l == []
      | .inr _ => false) = true ∧
    placingStray ((loadState.port 0).payload 0) 1 = none := by decide +kernel
theorem witness_plan_fails :
    let bad (l : List Byte) : Option Bad := (State.readBlocks (granState loadState l) 0 0 65536 0 0).2.2
    bad ((planBytes 0).take 319 ++ [1]) = none ∧ (bad ((planBytes 0).set 17 1)).isSome = true ∧ (let y := State.readBlocks (granState loadState (planBytes 16)) 0 0 65536 0 0
      y.2.2 = none ∧ (loadFails y.1 y.2.1).isSome = true) := by decide +kernel
theorem witness_plan_refused :
    mailed { loadState with plan := some ⟨0, [], 1, []⟩ } 0x10 = true ∧
    (∀ l ∈ ([leBytes 8 0 ++ [2, 1] ++ leBytes 6 0, leBytes 8 0 ++ [1, 97] ++ leBytes 6 0, leBytes 8 0 ++ [1, 96] ++ leBytes 6 0,
      leBytes 8 4095 ++ [1, 0] ++ leBytes 6 0, leBytes 8 (2 ^ 42) ++ [0, 0] ++ leBytes 6 0, leBytes 8 0 ++ [0, 1] ++ leBytes 6 0 ++ [1, 1] ++ leBytes 6 0] : List (List Byte)),
      mailed (mailState 0x10 l) 0x10 = true) := by decide +kernel

/-- A loaded plan of the image, with the plot in a condition, and a message for it. -/
def loadedState (season : Nat) (code : Nat) (l : List Byte) (q : Plot) : State :=
  let s := granState (mailState code l) (planBytes season)
  { s with plan := some ⟨0, [⟨1, 255, 255, 16, 64, 212636256⟩, ⟨2, 255, 255, 144, 32, 3783051237⟩,
      ⟨3, 1, 0, 208, 8, if season = 0 then 1670210549 else 3100239004⟩, ⟨15, 255, 255, 272, 0, 1299270850⟩], 1, []⟩ }.setPlot 1 q
/-- The outcome of reading blocks of the plan again. -/
def rereads (s : State) (t : PlanBlock → Bool) : Bool :=
  match (s.reread t).2 with
  | .inr im => (im.config 1 0).isSome
  | .inl _ => false
theorem witness_plot_starts :
    let s (season : Nat) (q : Plot) (l : List Byte) : State := loadedState season 0x12 l q
    let q (st : PlotState) : Plot := { plotOn with state := st }
    (∀ st ∈ ([.loaded, .done, .stopped, .running] : List PlotState), ∀ l ∈ ([[1, 0, 0], [1, 0, 1], [1, 0, 2], [1, 1, 0]] : List (List Byte)),
      mailed (s 0 (q st) l) 0x12 = true) ∧
    rereads (s 0 (q .loaded) [1, 0, 0]) (configBlocks 1 0) = true ∧ rereads ({ s 0 (q .loaded) [1, 0, 0] with granary := [] }) (configBlocks 1 0) = false ∧
    (∀ k ∈ [0, 3], rereads (s k (q .loaded) [1, 0, 0]) (configBlocks 1 0) = true) ∧ (q .loaded).season = 0 ∧ (q .loaded).prev = 0 ∧
    (let t := after (.plotStart 0 0) (s 3 (q .loaded) [1, 0, 0])
     t.running.map Running.what = some (.drain 1 0) ∧ t.markersBack (t.chansOf 1) = true) ∧
    (after (.plotStart 0 0) (s 3 { q .loaded with prev := 3 } [1, 0, 0])).running = none ∧
    ((after (.plotStart 0 0) (s 0 (q .loaded) [1, 0, 0])).plot 1).state = .running ∧
    ((after (.plotStart 0 0) (s 3 (q .loaded) [1, 0, 1])).plot 1).season = 3 ∧
    (let b := (s 0 (q .loaded) [1, 0, 0]).setCell c0 { scrubbing := true }
     mailed b 0x12 = true ∧ ((b.plot 1).cells.any fun c => (b.cell c).scrubbing) = true) := by decide +kernel
theorem witness_plot_ends :
    let s (code : Nat) (l : List Byte) (q : Plot) : State := loadedState 0 code l q
    let on : Plot := { plotOn with state := .stopped }
    let fed : State := (s 0x13 [1, 1] plotOn).setCell c0 { owner := 1, run := .running, results := [{ unit := .vector, addr := 0, vdst := [(0, 0)] }] }
    mailed (s 0x13 [1, 0] plotOn) 0x13 = true ∧ mailed (s 0x13 [1, 2] plotOn) 0x13 = true ∧ mailed (s 0x13 [1, 1] { plotOn with state := .faulted }) 0x13 = true ∧
    (fed.stopCells 1).cellsIdle 1 = false ∧ ((s 0x13 [1, 0] plotOn).stopCells 1).cellsIdle 1 = true ∧
    (let r := after (.plotStopHalt 0 0) ((s 0x13 [1, 0] plotOn).setCell c0 (fed.cell c0))
     r.running.map Running.what = some (.stop 1) ∧ (r.plot 1).state = .running) ∧
    (mailed (s 0x11 [] on) 0x11 = true ∧ (s 0x11 [] on).plotIds.findSome? (s 0x11 [] on).thrHolds = none ∧ (s 0x11 [] on).wainsQuiet (s 0x11 [] on).planWains = true) ∧
    (mailed (mailState 0x03 []) 0x03 = true ∧ (mailState 0x03 []).plan = none ∧ (mailState 0x03 []).residents = []) ∧
    (mailed (s 0x17 [1] on) 0x17 = true ∧ rereads (s 0x17 [1] on) (placeBlocks 1) = true ∧ on.holds = true ∧ (s 0x17 [1] on).thrHolds 1 = none) ∧
    ((after (.plotReset 0 0) (s 0x17 [1] on)).plot 1).state = .loaded ∧
    (∀ code ∈ [0x12, 0x13, 0x14, 0x15, 0x16, 0x17], mailed (s code (padBytes [96] ((opInfo code).map OpInfo.len |>.getD 0)) on) code = true) := by
  decide +kernel
theorem witness_scans :
    let s (code : Nat) (l : List Byte) (q : Plot) : State := loadedState 0 code l q
    let on : Plot := { plotOn with state := .stopped }
    let page : Store DWord := [(copyKey 0 0, BitVec.ofNat 64 (2 ^ 63)), (copyKey 0 1, BitVec.ofNat 64 (2 ^ 63 + 2 ^ 62 + 2 ^ 21))]
    let buf : List Byte := leBytes 8 (2 ^ 60 + 2 ^ 21)
    let o : State := { s 0x14 (padBytes [1, 1] 8 ++ buf) on with gmap := page }
    let away : Plot := { on with state := .scanned, scan := some (.granary (2 ^ 21) false) }
    let i : State := { s 0x15 (padBytes [1] 8 ++ buf) away with gmap := page }
    (∀ l ∈ ([padBytes [1, 2] 16, padBytes [1, 0, 2] 16, padBytes [1, 0] 16, padBytes [1, 1] 16] : List (List Byte)), mailed (s 0x14 l on) 0x14 = true) ∧
    (mailed o 0x14 = true ∧ o.bufferOk (2 ^ 21) (bufferLen 1 false) true = true ∧ o.thrHolds 1 = none ∧
      (on.cells.all fun c => !(o.cell c).dead && !(o.cell c).lockedOut && !o.isHole c) = true) ∧
    ((after (.plotScanOut 0 0) o).running.map Running.what = some (.scan 1) ∧ (after (.plotScanOut 0 0) o).lostCell 1 = false ∧
      (after (.plotScanOut 0 0) o).scanReady 1 = true) ∧
    (mailed i 0x15 = true ∧ i.bufferOk (2 ^ 21) (bufferLen 1 false) false = true ∧ i.mayStand 1 3 3 = true) ∧
    (mailed (s 0x15 (padBytes [1] 16) on) 0x15 = true) ∧ mailed (s 0x15 (padBytes [1] 16) { on with state := .scanned, scan := some .loft }) 0x15 = true ∧
    (∀ st ∈ ([.stopped, .running, .scanned, .empty] : List PlotState), mailed (s 0x16 [1, 0, 5, 0, 5, 0] { on with state := st }) 0x16 = true) ∧
    (let m := s 0x16 [1, 0, 5, 0, 5, 0] on
     rereads m (moveBlocks 1) = true ∧ (match (m.reread (moveBlocks 1)).2 with
      | .inr im => m.moveFits 1 im 5 5 && !m.moveFits 1 im 624 5
      | .inl _ => false) = true ∧ m.markersBack (m.feedersOf 1) = true) := by decide +kernel

/-! ### Witnesses: fences, broadcasts and resets -/

/-- Units of a FENCE or REJOIN beyond each limit, that are out, and that are in service; holes in a blocked field and routers that are dead. -/
theorem witness_units :
    let s (code k w : Nat) : State := mailState code (leBytes 4 k ++ leBytes 4 w)
    let link (d : Nat) : Nat := c0.toNat + d * 2 ^ 19
    let blocked : State := (s 0x60 0 c0.toNat).setCell c0 { routerDead := true }
    (∀ code ∈ [0x60, 0x61], ∀ e ∈ [(3, 0), (0, 2 ^ 19), (0, 2 ^ 19 - 1), (0, c0.toNat), (1, link 2), (1, 2 ^ 21), (1, 3 * 2 ^ 19), (2, 31), (2, 32)],
      mailed (s code e.1 e.2) code = true) ∧
    cellIdOk (2 ^ 19 - 1) = false ∧ cellIdOk c0 = true ∧ neighbour (mkCell 0 0) 3 = none ∧ neighbour c0 2 = some c1 ∧
    (State.reset.isBlocked c0 = false ∧ (State.reset.cell c0).lockedOut = false ∧ State.reset.isHole c0 = false) ∧
    (mailed blocked 0x60 = true ∧ (blocked.makeHole c0).isBlocked c0 = true) ∧
    (State.reset.linksOut = [] ∧ State.reset.routerOk c0 = true ∧ State.reset.routerOk c1 = true ∧ blocked.routerOk c0 = false) ∧
    (let o := { s 0x61 1 (link 2) with linksOut := [linkName c0 2] }
     mailed o 0x61 = true ∧ linkName c0 2 ∈ o.linksOut ∧ o.routerOk c0 = true ∧ o.routerOk c1 = true) ∧
    (let o := { s 0x60 2 31 with millsOut := [31] }
     mailed o 0x60 = true ∧ (31 : MillNo) ∈ o.millsOut ∧ (31 : MillNo) ∉ State.reset.millsOut) ∧
    (let o := (s 0x61 0 c0.toNat).setCell c0 { lockedOut := true }
     mailed o 0x61 = true ∧ (o.cell c0).lockedOut = true ∧ (o.cell c0).routerDead = false ∧ o.isBlocked c0 = false) ∧
    (let o := { s 0x61 1 (link 2) with running := some ⟨0, 0, 0x70061, leBytes 4 1 ++ leBytes 4 (link 2), true, .rejoin c0 2 0⟩ }
     ∀ t ∈ [99999999, 100000000], ({ o with tick := t }.running.map Running.what) = some (.rejoin c0 2 0)) := by decide +kernel

/-- Lock-outs of a cell that is no hole, of a hole that the ledger names, and of one that it does not; ledgers with room and full. -/
theorem witness_lockouts :
    let h := State.reset.makeHole c0
    let known := (h.setCell c0 { lockedOut := true }).ledgerAdd ((h.setCell c0 { lockedOut := true }).cellEntry c0)
    h.isHole c0 = true ∧ h.isHole c1 = false ∧ known.isHole c0 = true ∧ known.ledger.length = 1 ∧ State.reset.ledger.length < 4096 ∧
    (known.ledger.any fun x => x.field.toNat == 0 && x.row.toNat == rowIn c0 && x.col.toNat == known.physCol c0) = true ∧
    h.ledger = [] ∧ cellIdOk c0 = true ∧ cellIdOk c1 = true ∧ c1 ≠ c0 := by decide +kernel
theorem witness_full_ledger (e : LedgerEntry) : 4096 ≤ (List.replicate 4096 e).length := Nat.le_of_eq List.length_replicate.symm

/-- Notices of the ward and of another unit, of units that are out and in. -/
theorem witness_notices :
    wardSrc (.hub 0 20 3) = true ∧ wardSrc (.hub 8 20 3) = true ∧ wardSrc (.hub 1 20 3) = false ∧ wardSrc (.hub 0 19 3) = false ∧ wardSrc (.cell c0) = false ∧
    (∀ u ∈ ([.cell c0, .link c0 2, .mill 5] : List FenceUnit), State.reset.fenceRefused u = false) ∧
    (State.reset.setCell c0 { lockedOut := true }).fenceRefused (.cell c0) = true ∧
    ({ State.reset with linksOut := [linkName c0 2] } : State).fenceRefused (.link c0 2) = true ∧
    ({ State.reset with millsOut := [5] } : State).fenceRefused (.mill 5) = true := by decide +kernel

/-- CONTROL packets that have come, that still travel, from the ward and from another unit; a dark field and one that no wafer has. -/
theorem witness_controls :
    let src : Endpoint := .hub 0 20 3
    let b : Body := .control 0x11 0 []
    let p (e : Bool) : Packet := { readPacket c0 none with src := src, body := b, vc := 0, ejected := e }
    let t (q : Packet) : Bool := sameUnit q.src src && q.body == b
    ({ State.reset with net := [p false] }.notYet t = true) ∧ ({ State.reset with net := [p true] }.notYet t = false) ∧
    State.reset.notYet t = false ∧ (State.reset.hub 0).dark = false ∧ ((State.reset.setHub 0 { dark := true }).hub 0).dark = true ∧
    (State.reset.isHole c0 = false ∧ cellIdOk c0 = true) ∧ (State.reset.makeHole c0).isHole c0 = true ∧
    ((State.reset.setCell c0 { scrubbing := true }).cell c0).scrubbing = true ∧ (State.reset.cell c0).scrubbing = false := by decide +kernel

/-- Resets at stage 9, before it, and from a stopped wafer; a compute reset whose wains are quiet, and one that waits for a packet. -/
theorem witness_resets :
    let early (code : Nat) : State := { mailState code [] with boot := { stage := 5, done := 4 } }
    let busy : State := (mailState 0x7F []).setWain (wainKey (.hub 0 2)) { state := .running, chains := [0], desc := some desc, packets := [{ tgt := .cell c0, addr := 0, data := [], todo := [], reads := [] }] }
    mailed (mailState 0x7E []) 0x7E = true ∧ (mailState 0x7E []).boot.done = 9 ∧
    (mailed (mailState 0x7F []) 0x7F = true ∧ (mailState 0x7F []).wainsQuiet (mailState 0x7F []).wainKeys = true) ∧
    (mailed (early 0x7E) 0x7E = true ∧ (early 0x7E).boot.done ≠ 9 ∧ (early 0x7E).power.stopped = false) ∧
    (mailed busy 0x7F = true ∧ (after (.computeReset 0 0) busy).running.map Running.what = some .abandon) := by decide +kernel
/-- The dormant state: its entry refused and taken, its exit without a plan's plots, and refused. -/
theorem witness_dormancy :
    let d := { mailState 0x43 [] with dormant := true }
    mailed (mailState 0x42 []) 0x42 = true ∧ (mailState 0x42 []).plots = [] ∧ (mailState 0x42 []).wains = [] ∧ (mailState 0x42 []).mills = [] ∧
    mailed ((mailState 0x42 []).setPlot 1 plotOn) 0x42 = true ∧ mailed (mailState 0x43 []) 0x43 = true ∧ (mailState 0x43 []).dormant = false ∧
    mailed d 0x43 = true ∧ d.dormant = true ∧ (match (d.reread (wakeBlocks [])).2 with
      | .inr _ => true
      | .inl _ => false) = true ∧
    (let e := { (loadedState 0 0x43 [] { plotOn with state := .loaded }) with dormant := true, granary := [] }
     mailed e 0x43 = true ∧ (e.plot 1).holds = true ∧ (match (e.reread (wakeBlocks [1])).2 with
      | .inr _ => false
      | .inl _ => true) = true) := by decide +kernel
/-- WARM#: requests before and after a stage is done, a request that waits for a command, and a licence that changes nothing. -/
theorem witness_warm_pin :
    (atStage 9).boot.done ≠ 0 ∧ (atStage 0).boot.done = 0 ∧
    (let s := { atStage 9 with pins := { ({} : Pins) with request := true } }
     s.pins.request = true ∧ s.running = none ∧ s.boot.done = 9) ∧
    (let s := { atStage 5 with pins := { ({} : Pins) with request := true } }
     s.boot.done ≠ 9 ∧ s.power.stopped = false) ∧ State.reset.licence.next = none := by decide +kernel

/-! ### Witnesses: bring-up, clocks, power and pins -/

/-- Fields that power up, in order, that stay dark and dark already, that are not due, and that trip; an input that is on. -/
theorem witness_power_up :
    let dark : State := (atStage 3 { fast := true }).setHub 0 { dark := true }
    let entry : LedgerEntry := { (State.reset.cellEntry c0) with field := 0, row := 0xFF, col := 0xFF, revive := false }
    (atStage 9 |>.pins.input) = false ∧ ({ State.reset with pins := { input := true } } : State).pins.input = true ∧
    ((atStage 3).boot.done = 3 ∧ (atStage 3).power.stopped = false ∧ (atStage 3).boot.coolWait = false ∧ (atStage 3).boot.nextField = 0 ∧
      ((atStage 3).hub 0).dark = false ∧ (atStage 3).ledger = []) ∧
    (dark.boot.done = 3 ∧ dark.boot.nextField = 0 ∧ dark.boot.fast = true ∧ (dark.hub 0).dark = true) ∧
    (let l : State := { atStage 3 with ledger := [entry] }
     (l.ledger.any fun e => e.field.toNat == 0 && e.row == 0xFF && e.col == 0xFF && !e.revive) = true ∧ (l.hub 0).dark = false) ∧
    (let t : State := (atStage 3).setHub 0 { power := { trip := 0x00050007 } }
     bits (t.hub 0).power.trip 31 16 < 6 ∧ ¬ bits (t.hub 0).power.trip 31 16 < 5 ∧ bits (t.hub 0).power.trip 15 0 < 8) := by decide +kernel
/-- Training, self-tests, maps and the last stages: what each starts from, and what it does not. -/
theorem witness_stages :
    let x : CellId := mkCell 77 3
    ((atStage 4).boot.done = 4 ∧ (atStage 4).power.stopped = false ∧ (atStage 4).crossing x 2 = true ∧ (atStage 4).crossing c0 2 = false ∧
      ((atStage 4).setHub (stackField 3) { dark := true } |>.hub (stackField 3)).dark = true) ∧
    ((atStage 5).boot.done = 5 ∧ (atStage 5).boot.fast = false ∧ (atStage 5 { fast := true }).boot.fast = true) ∧
    (let e : LedgerEntry := { (State.reset.cellEntry c0) with revive := true }
     let s : State := { atStage 5 with ledger := [e] }
     s.ledger = e :: [] ∧ (s.hub 0).dark = false ∧ e.row ≠ 0xFF ∧ s.failComp = [] ∧ s.failRtr = [] ∧ { e with revive := false }.revive = false) ∧
    ((atStage 6).boot.done = 6 ∧ (atStage 6).boot.fast = false) ∧ (atStage 6).builtMap = (atStage 6).flashMap ∧
    (let b : State := { atStage 6 with failComp := [physKey 0 0 3] }
     b.builtMap ≠ b.flashMap) ∧
    ((atStage 7).boot.done = 7 ∧ ((atStage 7).hub 0).dark = false) ∧
    (let d := (atStage 7).setHub 0 { dark := true } |>.setHub 8 { dark := true }
     d.boot.done = 7 ∧ (d.hub 0).dark = true ∧ (d.hub 8).dark = true) ∧
    ((atStage 8).boot.done = 8 ∧ (atStage 8).boot.held = none ∧ (atStage 8).running = none ∧ (atStage 8 { held := some 3 }).boot.held = some 3) ∧
    ({ atStage 8 with running := some ⟨0, 0, 0x7007E, [], true, .warm⟩ }.running.map Running.what) = some .warm := by decide +kernel

/-- Windows and crystals at the limits of their counts, before stage 3, at it and in service. -/
theorem witness_clocks :
    let c : Clocks := {}
    ((clocked 1 c).boot.done < 2 ∧ (clocked 2 c).boot.done = 2 ∧ 2 < (clocked 9 c).boot.done ∧ (clocked 9 c).clocks.sel = 0 ∧
      (clocked 9 { c with sel := 1 }).clocks.sel = 1) ∧
    (97000 ≤ (97000 : BitVec 18).toNat ∧ ¬ 97000 ≤ (96999 : BitVec 18).toNat ∧ (103000 : BitVec 18).toNat ≤ 103000) ∧
    (∀ x ∈ ([(1, 2, none), (1, 1, some true), (1, 1, some false), (2, 1, none), (2, 2, none)] : List (BitVec 2 × BitVec 2 × Option Bool)),
      (clocked 2 { c with xa := x.1, xb := x.2.1, agree3 := x.2.2 }).boot.done = 2 ∧ x.1 ≠ 0 ∧ x.2.1 ≠ 0) ∧ c.xa = 0 ∧
    ((clocked 9 { c with sel := 2 }).clocks.sel.toNat = 2 ∧ 3 ≤ (clocked 9 c).boot.done) ∧
    (let h := { clocked 9 { c with sel := 2, since := some 0, relocking := true } with tick := 1000000 }
     h.clocks.since = some 0 ∧ h.clocks.sel = 2 ∧ 0 + 1000000 ≤ h.tick ∧ h.clocks.relocking = true ∧ c.relocking = false ∧ c.since = none) := by
  decide +kernel
theorem witness_loop_clocks :
    let c : Clocks := { lock := BitVec.ofNat 63 (1 + 2 ^ 50) }
    let s := (clocked 9 c).setHub 2 { powered := true }
    (c.lock.getLsbD 0 = true ∧ c.lock.getLsbD 50 = true ∧ c.lock.getLsbD 1 = false ∧ 48 ≤ (50 : BitVec 6).toNat) ∧
    ((s.hub 2).powered = true ∧ (s.hub 2).dark = false ∧ s.clocks.lock.getLsbD 2 = false ∧ 4 ≤ s.boot.done ∧ s.dormant = false) ∧
    (s.hub 3).powered = false ∧ (neighbour (mkCell 77 0) 2).isSome = true ∧ neighbour (mkCell 0 0) 3 = none ∧
    fieldOf (mkCell 77 0) ≠ fieldOf (mkCell 78 0) ∧ lxOf (mkCell 77 0) < 624 ∧
    (let d := s.stitchLost (mkCell 77 0) 2
     d.linkState (mkCell 77 0) 2 = .down ∧ d.endsOk (mkCell 77 0) 2 = true ∧ d.linksOut = [] ∧ (mkCell 77 0, 2) ∈ fieldCrossings 0) ∧
    (let r := 200000 / c.rate.toNat
     c.sscStart + r ≤ r ∧ ¬ c.sscStart + r ≤ r - 1) := by decide +kernel

/-- Terms of a field with a scale and without, budgets on both sides of the sustained limit, and shares at each case. -/
theorem witness_terms :
    let p : FieldPower := { cal := BitVec.ofNat 64 (2 ^ 32) }
    let w : Power := {}
    bits p.cal 47 32 * fieldUnit ≠ 0 ∧ bits ({ cal := 0 } : FieldPower).cal 47 32 * fieldUnit = 0 ∧
    (w.hist.take 50000).sum < w.sustained * 50000 * moduleUnit ∧
    (let v : Power := { w with hist := [w.sustained * 50000 * moduleUnit] }
     v.sustained * 50000 * moduleUnit ≤ (v.hist.take 50000).sum) ∧
    (({} : FieldPower).dyn ≤ 0 ∧ 0 < ({ dyn := 5 } : FieldPower).dyn) ∧
    (0 : FieldNo) ∈ litState.litFields ∧ (1 : FieldNo) ∉ litState.litFields ∧
    ({ clearAt := some 5 } : FieldPower).clearAt = some 5 ∧ ({} : FieldPower).clearAt = none := by decide +kernel
theorem witness_log :
    let r : ThrottleRec := ⟨1000, 2, 0, 1, 4, true, 5, 0⟩
    let w : Power := { ({} : Power).append r with open_ := [(0, 9)] }
    let c : Charge := ⟨0, 1, 4, 5, 0⟩
    let hit (l : List Charge) : Option Charge := l.find? fun x => x.field == (w.rec_ 0).field && x.reason == (w.rec_ 0).reason
    (hit [c]).isSome = true ∧ (hit []).isNone = true ∧ (hit [⟨1, 1, 4, 5, 0⟩]).isNone = true ∧ w.open_.map (fun k => ((w.rec_ k.1).field, (w.rec_ k.1).reason)) = [(c.field, c.reason)] ∧ w.logNext = 1 ∧
    (w.open_.find? fun e => (w.rec_ e.1).field == c.field && (w.rec_ e.1).reason == c.reason) = some (0, 9) ∧
    Store.find? ({} : Power).charged 1 = none ∧ Store.find? { w with charged := [(1, 5)] }.charged 1 = some 5 := by decide +kernel
theorem witness_estimator :
    let s (n : Nat) : State := { litState with tick := n }
    ((s 200).power.lastAt + 200 ≤ (s 200).tick ∧ (s 200).dormant = false ∧ (s 200).litFields ≠ []) ∧ (s 199).tick < (s 199).power.lastAt + 200 ∧
    (atStage 9).litFields = [] ∧ { s 200 with dormant := true }.dormant = true := by decide +kernel

/-- Alerts, readings at their limits, and coolant at each stage; a wafer that is stopped. -/
theorem witness_alerts :
    let stopped : State := { litState with power := { stopped := true } }
    (0 : FieldNo) ∈ litState.alertFields none ∧ (1 : FieldNo) ∉ litState.alertFields none ∧
    ([1487, 1488, 1519, 1520, 1679, 1680].all fun x => (BitVec.ofNat 16 x :: List.replicate 7 0).all fun y => y.toInt ≤ (BitVec.ofNat 16 x).toInt) = true ∧
    (BitVec.ofNat 16 1680).toInt = 1680 ∧ 4 ≤ litState.boot.done ∧ (atStage 3).boot.done < 4 ∧
    stopped.power.stopped = true ∧ litState.power.stopped = false ∧ (atStage 2).boot.done < 3 ∧ (atStage 3).boot.done = 3 ∧
    (atStage 3 { coolWait := true }).boot.coolWait = true ∧ litState.boot.coolWait = false ∧ State.reset.millEnabled 0 = true ∧
    ({ State.reset with millsOut := [0] } : State).millEnabled 0 = false := by decide +kernel
/-- The pins: input on and off, the management target before and after stage 1, both levels of WARM#, ALERT# at rest and about to change. -/
theorem witness_pins :
    State.reset.pins.input = false ∧ (atStage 1).boot.done ≠ 0 ∧ State.reset.boot.done = 0 ∧ State.reset.pins.warmHigh = true ∧
    ({ State.reset with pins := { warmHigh := false } } : State).pins.warmHigh = false ∧
    State.reset.pins.alertLow = (State.reset.alertBits != 0) ∧
    (let s := { State.reset with boot := { err := 2 } }
     s.pins.alertLow ≠ (s.alertBits != 0)) ∧ (State.reset.hingeReg 0x30400).isSome = true ∧ (State.reset.hingeReg 0x30710).isSome = true := by
  decide +kernel

/-! ### Witnesses: ports, registers, firmware and licences -/

/-- Windows of a port that a packet uses and that none does; links that may train and may not. -/
theorem witness_port_events :
    let win : Window := ⟨0, 0, 4096, true, false⟩
    let s (k : List WPacket) : State := { State.reset with windows := [(3, win)] }.setWain 0 { state := .running, packets := k }
    let q : WPacket := { tgt := .host 3, addr := 0, data := [], todo := [], reads := [] }
    (win.port = 0 ∧ (s [q]).windowBusy 3 = true ∧ (s []).windowBusy 3 = false) ∧ (Store.find? (s []).windows 3).isSome = true ∧
    (q.done = false ∧ (3 : BitVec 6).toNat = 3) ∧ (State.reset.port 0).perst = true ∧
    ((State.reset.setPort 0 { perst := false }).port 0).perst = false ∧ (1 : BitVec 3).toNat = 1 ∧ (6 : BitVec 3).toNat ≤ 6 := by decide +kernel
/-- BAR2: viewports of the loft and the granary, a bridge that switches, a port that is not the steward's, and places beyond each limit. -/
theorem witness_views :
    let v : View := { kind := 2, base := 0, plot := 1, px0 := 0, py0 := 0, width := 1 }
    let s : State := { ((viewState v).setPlot 1 plotOn).setHub 0 { powered := true } with linkAll := .up }
    let dark : State := { s with switchEnd := some 5 }
    (dark.switching = true ∧ s.switching = false ∧ s.isSteward 0 = true ∧ s.isSteward 1 = false) ∧
    ((s.viewportRead 0 0 4).2 = some [0, 0, 0, 0] ∧ (s.viewportRead 0 0x200000 4).2 = none ∧ (s.viewportWrite 0 0 [1]).2.isSome = true ∧
      (s.viewportWrite 0 0x200000 [1]).2 = none) ∧
    ((Store.find? (s.port 0).views (0x100000000 / 2 ^ 32)).isNone = true ∧ (Store.find? (s.port 0).views 0).isSome = true) ∧
    ((s.viewPieces v false [(0, 4)]).2.isSome = true ∧ (s.viewPieces v false [(0x200000, 4)]).2 = none) ∧
    (let b : State := { s with loftErr := [(wordKey c0 0, 2)] }
     (b.viewRead [(.loft c0 0, 4)]).2 = none ∧ (b.loftRead c0 0 4 2).2.2 = true ∧ (s.viewRead [(.loft c0 0, 4)]).2.isSome = true) ∧
    (s.plot 1).holds = true ∧ s.isHole c0 = false ∧ (s.cell c0).lockedOut = false ∧ s.hingeReaches (.cell c0) = true ∧
    ({ s with bridge := 2 } : State).hingeReaches (.cell c0) = false := by decide +kernel
theorem witness_gran_views :
    let v : View := { kind := 1, base := 0, plot := 1, px0 := 0, py0 := 0, width := 1 }
    let s : State := { ((granState (viewState v) [1, 2]).setHub 0 { powered := true }) with linkAll := .up }
    v.base.toNat + 4095 < 2 ^ 42 ∧ 2 ^ 42 ≤ ({ v with base := BitVec.ofNat 64 (2 ^ 42 - 1) } : View).base.toNat + 1 ∧
    (match (s.hingeTranslate 1 false).2 with
      | .phys a => a == 1 && (s.hingeTranslate 1 false).1.hingeReaches (.hub (stackField (physStack a)) (stackUnit (physStack a)) 0)
      | _ => false) = true ∧
    (match (s.hingeTranslate 0x200000 false).2 with
      | .phys _ => false
      | _ => true) = true ∧ (s.viewportRead 0 0 2).2 = some [1, 2] := by decide +kernel

/-- Registers of 32 and 64 bits at their offsets, at their high halves, and where there is none; halves that are held and captured. -/
theorem witness_halves :
    let s := mailState 0x01 []
    let b : RegBlock := .hub 0
    let wide (o : Nat) : Option (Bool × Nat) := (s.regAt b o).map fun v => (v.wide, v.base)
    wide 0xC04 = some (false, 0xC04) ∧ wide 0xC08 = some (true, 0xC08) ∧ wide 0xC0C = some (true, 0xC08) ∧ wide 0xE00 = none ∧
    (((s.read32 (.port 0) b 0xC08 true).1.acc (.port 0) b).snap.map (·.1)) = some 0xC08 ∧ (s.acc (.port 0) b).snap = none ∧
    (((s.write32 (.port 0) b 0xC08 5).acc (.port 0) b).held) = some (0xC08, 5) ∧ (s.acc (.port 0) b).held = none ∧
    (s.regAt b 0xC04).map (fun v => v.rc &&& lowMask) ≠ some 0 ∧ (s.regAt b 0xC08).map (fun v => v.rc) = some 0 := by decide +kernel
/-- Accesses in every region, of each size, misaligned, across a line, of a field that is dark, and of a port that is not the steward's. -/
theorem witness_regions :
    let s := mailState 0x01 []
    let g (k : Nat) : Region := regionOf (.port 0) k
    g 0x14 = .regs (.port 0) 0x14 ∧ g 0x1007C = .slots 0x7C ∧ g 0x20078 = .ring 0x78 ∧ g 0x30008 = .mirror 8 ∧ g 0x40004 = .msix 4 ∧
    g 0x41000 = .pba 0 ∧ g 0x130200 = .regs .hinge 0x30200 ∧ g 0x1000C04 = .regs (.hub 0) 0xC04 ∧ g 0x1002000 = .regs (.hub 0) 0x2000 ∧
    g 0x50000 = .none ∧ 0x1007C % 128 + 4 ≤ 128 ∧ 128 < 0x1007E % 128 + 4 ∧ 128 < 0x1007C % 128 + 8 ∧ 0x16 % 4 ≠ 0 ∧ 0x14 % 8 ≠ 0 ∧ 0x18 % 8 = 0 ∧
    s.hubGone (g 0x1000C04) = false ∧ (s.setHub 0 { dark := true }).hubGone (g 0x1000C04) = true ∧
    s.clearsRc (.port 0) (g 0x1000C04) = true ∧ s.clearsRc (.port 1) (regionOf (.port 1) 0x1000C04) = false ∧
    s.isSteward 0 = true ∧ s.isSteward 1 = false ∧ regionOf .ward 0x1000C04 = .regs (.hub 0) 0xC04 ∧ regionOf .ward 0x10000 = .none := by
  decide +kernel
/-- Values of the registers with commands of their own, at the limits of each field. -/
theorem witness_named :
    let x : Port := {}
    0 < ((1 : Word) - x.prod).toInt ∧ ((0 : Word) - x.prod).toInt ≤ 0 ∧ x.noticesHeld.isEmpty = true ∧ x.ringFull = false ∧
    ((x.writeCons 0).ringFull = false) ∧
    (let y : DWord := 0x1432
     bits y 12 8 ≤ 20 ∧ 50 ≤ bits y 6 0 ∧ bits y 6 0 ≤ 125) ∧ 20 < bits (0x1532 : DWord) 12 8 ∧ bits (0x0431 : DWord) 6 0 < 50 ∧
    125 < bits (0x047E : DWord) 6 0 ∧ bits (0x44000002 : DWord) 30 24 < 69 ∧ 69 ≤ bits (0x45000002 : DWord) 30 24 ∧
    bits (0x7E000002 : DWord) 30 24 ≤ 126 ∧ bits (0x7F000002 : DWord) 30 24 = 127 ∧ rankOk 0 = true ∧ rankOk 0x7FFFFFFF = false ∧
    (∀ m ∈ routeMills (0xFFFFFFFF &&& 0xE00FFFFF), (State.reset.mill m).licensed = true) ∧ (31 : MillNo) ∈ routeMills (0xFFFFFFFF &&& 0xE00FFFFF) ∧
    ((State.reset.setMill 31 { licensed := false }).mill 31).licensed = false ∧ State.reset.millEnabled 0 = true := by decide +kernel

/-- Slots in each state of R505, and commands of R506 to R508 in each; a staging whose image cannot be read. -/
theorem witness_slot_states :
    let f (a b : BitVec 3) : Firmware := { a := ⟨a, []⟩, b := ⟨b, []⟩ }
    let st (k : Nat) (l : List Byte) (a b : BitVec 3) : State := { mailState k l with fw := f a b }
    (f 4 0).pick false = some false ∧ (f 0 4).pick false = some true ∧ (f 5 0).pick true = some false ∧ (f 0 5).pick true = some true ∧
    (f 2 0).pick false = none ∧ (f 2 0).pick true = some false ∧ (f 0 2).pick true = some true ∧ (f 0 0).pick true = none ∧
    (f 3 0).a.state = 3 ∧ (f 0 3).b.state = 3 ∧ ({ f 4 0 with attempts := 3 }.slot false).state = 4 ∧
    (∀ e ∈ ([(0x50, leBytes 8 (2 ^ 60) ++ leBytes 4 70000, 5, 0), (0x50, leBytes 8 (3 * 2 ^ 60) ++ leBytes 4 70000, 5, 0), (0x50, leBytes 12 (2 ^ 60), 4, 0),
      (0x50, leBytes 12 (2 ^ 60), 5, 3), (0x51, [2, 0, 0, 0], 5, 2), (0x51, [0, 0, 0, 0], 5, 2), (0x51, [1, 0, 0, 0], 5, 3), (0x51, [0, 0, 0, 0], 5, 0),
      (0x52, [], 4, 2), (0x52, [], 5, 0)] : List (Nat × List Byte × Nat × Nat)),
      mailed (st e.1 e.2.1 (BitVec.ofNat 3 e.2.2.1) (BitVec.ofNat 3 e.2.2.2)) e.1 = true) ∧
    space (BitVec.ofNat 64 (2 ^ 60)) = 1 ∧ rsvdAddr (BitVec.ofNat 64 (2 ^ 60)) = false ∧ space (BitVec.ofNat 64 (3 * 2 ^ 60)) = 3 ∧
    (let w : State := { st 0x50 [] 5 1 with mail := [], running := some ⟨0, 0, 0x70050, leBytes 8 (2 ^ 60) ++ leBytes 4 64, true, .stage⟩ }
     w.running.map Running.what = some .stage ∧ (w.copyIn (BitVec.ofNat 64 (2 ^ 60)) 64).2 = none) := by decide +kernel
/-- The header of an image of one block. -/
def imageHeader : List Byte :=
  leBytes 4 0x4D574653 ++ leBytes 2 1 ++ leBytes 2 1 ++ leBytes 4 1 ++ leBytes 244 0
theorem witness_image_header :
    imageHeader.length = 256 ∧ leAt imageHeader 0 4 = 0x4D574653 ∧ leAt imageHeader 4 2 = 1 ∧ leAt imageHeader 6 2 = 1 ∧ leAt imageHeader 8 4 = 1 ∧
    leAt imageHeader 16 1 ≤ 64 ∧ ((imageHeader.drop 21).take 3).map BitVec.toNat = [0, 0, 0] ∧
    ((imageHeader.drop 32).take 224).all (· == 0) = true := by decide +kernel
theorem leNat_leBytes (n x : Nat) : leNat (leBytes n x) = x % 256 ^ n := by
  induction n generalizing x with
  | zero => simp [leBytes, leNat, Nat.mod_one]
  | succ n ih =>
    have p : (256 : Nat) ^ (n + 1) = 256 * 256 ^ n := Nat.pow_succ'
    rw [leBytes, leNat, ih, BitVec.toNat_ofNat, p, Nat.mod_mul]
/-- An image of one block with a header of 256 bytes, any data and a tail of 384 is as long as the form asks, and its block carries the CRC of
what stands before it. -/
theorem witness_image_block (h d t : List Byte) (hh : h.length = 256) (hd : d.length = 65532) (ht : t.length = 384) :
    let l := h ++ ((d ++ leBytes 4 (crc32c d).toNat) ++ t)
    let b := (l.drop 256).take 65536
    l.length = 256 + 65536 * 1 + 384 ∧ leAt b 65532 4 = (crc32c (b.take 65532)).toNat := by
  intro l b
  have n : (leBytes 4 (crc32c d).toNat).length = 4 := Sys2Proof.Laws.leBytes_length _ _
  have m : (d ++ leBytes 4 (crc32c d).toNat).length = 65536 := by rw [List.length_append, n, hd]
  have e : b = d ++ leBytes 4 (crc32c d).toNat := by
    show (l.drop 256).take 65536 = _
    rw [← hh, List.drop_left, ← m, List.take_left]
  refine ⟨by rw [List.length_append, List.length_append, m, hh, ht], ?_⟩
  rw [e, leAt, ← hd, List.drop_left, List.take_left, List.take_of_length_le (Nat.le_of_eq n), leNat_leBytes]
  exact Nat.mod_eq_of_lt (crc32c d).isLt
theorem witness_image_bad : imageBad 0 [] = some 5 ∧ leAt imageHeader 16 1 < 1 := by decide +kernel
/-- A licence that is installed next, that is in force, and none; units of both halves of a pair, bad and good. -/
theorem witness_licences :
    let l (v k : Nat) : List Byte := leBytes 4 0x4543494C ++ leBytes 2 1 ++ leBytes 2 448 ++ leBytes 8 State.reset.serial.toNat ++ leBytes 4 k ++
      [BitVec.ofNat 8 v, if v = 1 then 3 else 2] ++ List.replicate 426 0
    let s (v k : Nat) : State := mailState 0x53 (l v k)
    (∀ e ∈ [(0, 1), (1, 1), (1, 0)], mailed (s e.1 e.2) 0x53 = true ∧ leAt (l e.1 e.2) 0 4 = 0x4543494C ∧ leAt (l e.1 e.2) 6 2 = 448 ∧
      leAt (l e.1 e.2) 20 1 ≤ 1 ∧ leAt (l e.1 e.2) 21 1 = (if leAt (l e.1 e.2) 20 1 = 1 then 3 else 2) ∧
      leAt (l e.1 e.2) 8 8 = State.reset.serial.toNat ∧ ∀ y ∈ ((l e.1 e.2).drop 28).take 36, y.toNat = 0) ∧
    State.reset.licence.next = none ∧ State.reset.licence.last = [] ∧ (State.reset.mill 5).licensed = true ∧
    ((State.reset.setMill 5 { licensed := false }).mill 5).licensed = false ∧ (State.reset.stack 0).state = .off ∧
    (let u : State := { State.reset with gstacks := [(0, { state := .unlicensed }), (1, { state := .failed }), (2, { state := .active })] }
     (u.stack 0).state = .unlicensed ∧ (u.stack 1).state = .failed ∧ (u.stack 2).state = .active ∧ u.gmap.sorted = true) := by decide +kernel
/-- Starts of the ward without an image, restarts at each stage, and an activation at its time and before it. -/
theorem witness_ward_starts :
    let s (n : Nat) : State := { atStage 9 with fw := { activate := some 9 }, tick := n }
    (({ a := {}, b := {} } : Firmware).raise.start 3 false).2 = false ∧ (atStage 1).boot.done = 1 ∧ (atStage 9).boot.done = 9 ∧
    ((s 9).fw.activate = some 9 ∧ 9 ≤ (s 9).tick ∧ (s 8).tick < 9 ∧ (atStage 9).fw.activate = none) ∧
    ({ atStage 9 with running := some ⟨0, 0, 0x70050, [], true, .stage⟩ }.running.map Running.what) = some .stage ∧ (atStage 9).running = none := by
  decide +kernel

/-! ### Witnesses: tallies, dumps and Chonel links -/

/-- Boundaries of mode PERIOD at their tick and before it, with none due and with one; dumps likewise; a capture with no tick behind it. -/
theorem witness_boundaries :
    let s (n : Nat) : State := { litState with tally := { cfg := BitVec.ofNat 64 (2 * 2 ^ 62 + 100) }, tick := n }
    let d (n : Nat) : State := { s n with dump := some ⟨0, 10, 0, 0, true⟩, tally := { (s n).tally with due := some 10 } }
    (bits (s 100).tally.cfg 63 62 = 2 ∧ (s 100).tally.since + bits (s 100).tally.cfg 31 0 ≤ 100 ∧ ¬ (s 99).tally.since + bits (s 99).tally.cfg 31 0 ≤ 99) ∧
    bits State.reset.tally.cfg 63 62 ≠ 2 ∧ (s 9).tally.due = none ∧ (d 10).tally.due = some 10 ∧ (d 9).tick < 10 ∧ (s 9).dump.isNone = true ∧
    ((d 10).dump.map fun x => x.at_) = some 10 ∧ (litState.hub 0).powered = true ∧ (litState.hub 1).powered = false ∧ (litState.hub 0).dark = false ∧
    ((litState.setHub 1 { dark := true }).hub 1).dark = true ∧ (litState.mill 5).licensed = true ∧ litState.tally.last = 0 := by decide +kernel
/-- SYNC_DUMP, TALLY_READ and THROTTLE_LOG_READ to targets that take them, that do not, and of another port than the steward's. -/
theorem witness_records :
    let win (s : State) : State := { s with windows := [(3, ⟨0, 0, 4194304, true, false⟩)] }
    let gran := leBytes 8 (2 ^ 60)
    let host := leBytes 8 (2 ^ 61 + 3 * 2 ^ 48)
    let plot : State := (mailState 0x32 (gran ++ [1, 1, 0])).setPlot 1 { plotOn with record := [1, 2, 3, 4, 5, 6, 7, 8, 9] }
    targetOk (BitVec.ofNat 64 (2 ^ 60)) = true ∧ targetOk (BitVec.ofNat 64 (2 ^ 60 + 1)) = false ∧ targetOk 0 = false ∧
    mailed (mailState 0x31 gran) 0x31 = true ∧ (mailState 0x31 gran).targetHolds (BitVec.ofNat 64 (2 ^ 60)) 3936256 = true ∧
    mailed (mailState 0x31 (leBytes 8 1)) 0x31 = true ∧ State.reset.targetHolds 1 3936256 = false ∧
    (let o := granState (mailState 0x31 gran) []
     mailed { o with dump := some ⟨0, 10, 0, 0, true⟩ } 0x31 = true) ∧
    (let h : State := (win (mailState 0x31 host)).setPort 0 { mailbox 0x31 host with linkUp := true, bme := true }
     mailed h 0x31 = true ∧ h.targetHolds (BitVec.ofNat 64 (2 ^ 61 + 3 * 2 ^ 48)) 3936256 = true ∧ h.dump.isNone = true) ∧
    (∀ l ∈ ([leBytes 8 1 ++ [0, 0, 0], gran ++ [2, 0, 0], gran ++ [0, 0, 2], gran ++ [1, 96, 0], gran ++ [1, 95, 0], gran ++ [0, 0, 1], gran ++ [0, 0, 0],
      host ++ [0, 0, 0]] : List (List Byte)), mailed (mailState 0x32 l) 0x32 = true) ∧ mailed plot 0x32 = true ∧ (plot.plot 1).record ≠ [] ∧
    (∀ l ∈ ([leBytes 8 1 ++ leBytes 8 (2 ^ 32), gran ++ leBytes 8 0, gran ++ leBytes 8 (8193 * 2 ^ 32), gran ++ leBytes 8 (8192 * 2 ^ 32),
      host ++ leBytes 8 (2 ^ 32)] : List (List Byte)), mailed (mailState 0x41 l) 0x41 = true) := by decide +kernel
theorem witness_copies :
    let s := granState (mailState 0x32 []) [1, 2]
    (match (s.hingeTranslate 0 false).2 with
      | .phys a => a == 0 && (s.granRead 0 2 4).2.2 == false
      | _ => false) = true ∧
    (match (s.hingeTranslate 0x200000 false).2 with
      | .phys _ => false
      | _ => true) = true ∧ (s.hub 0).dark = false ∧ (let d := (s.setHub 0 { dark := true }).setHub 8 { dark := true }
     (d.hub 0).dark = true ∧ (d.hub 8).dark = true) ∧ space (BitVec.ofNat 64 (2 ^ 60)) = 1 ∧ space (BitVec.ofNat 64 (2 ^ 61)) ≠ 1 := by decide +kernel

/-- A record of a partner with four LVCs' slots, and one that breaks ML_LINK_CFG. -/
def ident : IdentRec := ⟨0, 0, 0, 1, 1, true, false, true, 0, true, 0, [1, 2, 3, 4]⟩
/-- Links in each state, on both sides of each timer and of each training step. -/
theorem witness_links_at :
    let at_ (n : Nat) (v : Mill) : State := { millState v with tick := n }
    let w (k : Nat) : Mill := { ({} : Mill) with link := BitVec.ofNat 3 k, reason := 8 }
    ((at_ 0 {}).millEnabled 5 = true ∧ ({ millState {} with millsOut := [5] } : State).millEnabled 5 = false ∧
      ({} : Mill).errlog.msb = false ∧ ({ errlog := BitVec.ofNat 64 (2 ^ 63) } : Mill).errlog.msb = true) ∧
    (∀ e ∈ [(2, 2000000), (3, 200000), (4, 10000), (5, 100000), (6, 10000)], (w e.1).link.toNat = e.1 ∧ (w e.1).since + e.2 ≤ e.2 ∧
      ¬ (w e.1).since + e.2 ≤ e.2 - 1 ∧ (w e.1).partner = none) ∧
    (upMill.link = 7 ∧ upMill.frameAt + 1600 ≤ 1600 ∧ upMill.regroup = 0 ∧ { upMill with regroup := 1 }.regroup ≠ 0) ∧
    ((w 1).link = 1 ∧ (w 1).reason = 8 ∧ (w 1).probe = false ∧ { w 1 with probe := true }.probe = true) ∧
    (upMill.role ≠ 1 ∧ { ident with time := false }.time = false) ∧
    (upMill.unacked = (2, []) :: [] ∧ upMill.replays = none ∧ { upMill with replays := some (2, 8) }.replays = some (2, 8) ∧
      upMill.ackAt + upMill.rtt / 64 + 200 ≤ 200) ∧
    ({ upMill with cfg := 0x88000001 }.mismatch ident = true ∧ upMill.mismatch ident = false) := by decide +kernel
theorem witness_training :
    let a : Mill := { link := 3, aligned := 0x3FFFF, laneMap := [0] }
    let i : Mill := { link := 4, partner := some ident }
    let c : Mill := { link := 6, idleSent := 64, idleGot := 64, partner := some ident }
    (a.link = 3 ∧ a.aligned = 0x3FFFF ∧ a.laneMap ≠ []) ∧ { a with aligned := 0x1FFFF }.aligned ≠ 0x3FFFF ∧ { a with laneMap := [] }.laneMap = [] ∧
    (i.partner = some ident ∧ i.link = 4 ∧ i.identDue = false ∧ i.mismatch ident = false ∧ { i with cfg := 0x88000001 }.mismatch ident = true) ∧
    (16 ≤ ({ link := 5, times := 16 } : Mill).times ∧ ({ link := 5, times := 15 } : Mill).times < 16) ∧
    (c.link = 6 ∧ 64 ≤ c.idleSent ∧ 64 ≤ c.idleGot ∧ { c with idleGot := 63 }.idleGot < 64) ∧
    (let cr (x : Word) : Mill := { ({} : Mill) with creditCfg := x }
     (cr 0x24242404).slotUnits = [4, 36, 36, 36] ∨ (cr 0x24242404).slotUnits = [4, 36, 20, 36]) := by decide +kernel

/-- Lanes that are spare, that fail first, second and third, and groups that may rejoin. -/
theorem witness_lanes :
    let two : Mill := { upMill with sp0 := some 0, sp1 := some 1, failed := 3 }
    (logicalOf none none 0 = some 0 ∧ logicalOf (some 0) none 0 = none ∧ logicalOf (some 0) none 16 = some 0 ∧ logicalOf none none 17 = none) ∧
    (upMill.sp0 = none ∧ upMill.failed.getLsbD 16 = false ∧ two.sp0 ≠ none ∧ two.sp1 ≠ none ∧ two.failed.getLsbD 0 = true ∧
      upMill.failed.getLsbD 0 = false) ∧
    (groupsIn (upMill.groups &&& ~~~1) < 3 + 1 ∧ ¬ groupsIn (upMill.groups &&& ~~~1) < 2 + 1) ∧
    (let r : Mill := { upMill with regroup := 1, groups := 0xE }
     r.regroup.getLsbD 0 = true ∧ (∀ p ∈ List.range 18, (logicalOf r.sp0 r.sp1 p).map (·.toNat / 4) = some 0 → r.locked.getLsbD p = true ∧ r.aligned.getLsbD p = true) ∧
      upMill.regroup.getLsbD 0 = false) ∧
    (({ link := 2, locked := 0x1FFFF } : Mill).locked ||| BitVec.ofNat 18 (2 ^ 17) = 0x3FFFF) ∧
    (({ link := 2 } : Mill).locked ||| BitVec.ofNat 18 (2 ^ 17) ≠ 0x3FFFF) := by decide +kernel

/-- Codewords of each verdict, controls with a NAK and without, credits and spares, and slots of each kind. -/
theorem witness_frames :
    let q (d c t : Bool) : RxQuality := ⟨d, false, c, t⟩
    let s := millState upMill
    ((s.rxFrame 5 0 (q false true true)).2 = false ∧ (s.rxFrame 5 0 (q true false true)).2 = false ∧ (s.rxFrame 5 0 (q true true false)).2 = false ∧
      (s.rxFrame 5 0 (q true true true)).2 = true) ∧
    (upMill.replay 2 0).isSome = true ∧ { upMill with replays := some (2, 8) }.replay 2 0 = none ∧ (∀ e ∈ upMill.unacked, e.1 ≠ 9) ∧
    upMill.unacked = [] ++ (2, []) :: [] ∧ ({ upMill with nakAt := some (2, 0) }.nakAt = some (2, 0) ∧ 99 < 0 + upMill.rtt / 64 + 100) ∧
    (logicalOf upMill.txSp0 upMill.txSp1 16 = none ∧ logicalOf upMill.txSp0 upMill.txSp1 3 = some 3 ∧ upMill.txSp0 = none ∧ upMill.txSp1 = none ∧
      { upMill with txSp0 := some 0, txSp1 := some 1 }.txSp0 ≠ none) ∧
    (({ upMill with dropLeft := [2, 0, 0, 0] }.dropLeft[0]?).getD 0 ≠ 0 ∧ (upMill.dropLeft[0]?).getD 0 = 0) ∧
    (s.readFrame 5 0 ctl0 goodRx).2 = true ∧ (s.readFrame 5 0 ctl0 (q false true true)).2 = false ∧
    (millState {}).readFrame 5 0 ctl0 goodRx = (millState {}, false) ∧ ((millState {}).mill 5).link = 0 := by decide +kernel
/-- Offsets within 10 µs and beyond it, with a RUNNING plot and without, and the client that the tick follows. -/
theorem witness_offsets :
    let s := millState { upMill with role := 2, partner := some ident }
    s.follows = some 5 ∧ (64000 : Int).natAbs ≤ 64000 ∧ (64000 : Int) < 64001 ∧ s.plots = [] ∧
    ((s.setPlot 1 { state := .running }).plots.map (·.2.state)) = [.running] ∧ ident.time = true ∧ (s.mill 5).role = 2 := by decide +kernel

/-- Queues for each choice of slot: LVC 0, a packet under way, new packets in turn, none that may go; freed slots of two LVCs; frames of a
retry buffer for this group and for another, and the groups of sequence numbers. -/
theorem witness_slots_out :
    let x (l : BitVec 2) (h : Bool) : Slot := ⟨l, h, 0⟩
    let v (q : List Slot) (n : Nat) : Mill := { upMill with outq := q, credits := [n, n, n, n] }
    (v [x 0 true, x 2 false] 9).nextLvc = some 0 ∧ (v [x 2 false] 0).nextLvc = some 2 ∧ (v [x 1 true, x 3 true] 1).nextLvc.isSome = true ∧
    (v [x 1 true] 0).nextLvc = none ∧ (v [] 9).nextLvc = none ∧ (Mill.chooseSlots 19 (v [x 0 true] 9)).2 = [x 0 true] ∧
    ({ upMill with freed := [0, 3, 0, 4] }.creditOut.2 = (BitVec.ofNat 14 (4096 + 3), BitVec.ofNat 14 (3 * 4096 + 4))) ∧
    upMill.creditOut.2 = (0, 0) ∧ upMill.groupOf 4 = some 0 ∧ upMill.groupOf 3 = some 3 ∧ { upMill with groups := 0 }.groupOf 4 = none ∧
    { upMill with resend := [(4, [])] }.resend = (4, []) :: [] ∧ upMill.unacked.length < 16384 ∧
    ((millState upMill).identRecord 5).length = 64 ∧ upMill.spareReq = none := by decide +kernel
theorem witness_full_retry (e : BitVec 16 × List Slot) : 16384 ≤ (List.replicate 16384 e).length := Nat.le_of_eq List.length_replicate.symm
/-- What FRAME_SEND finds: a dark mill in probe mode and in a burst, each state of the link, and what is due in UP. -/
theorem witness_sends :
    let s (v : Mill) : State := millState v
    let v (u : Mill) : Mill := ((s u).millTakes 5).mill 5
    (∀ k ∈ [0, 1, 2, 3, 4, 5, 6, 7], (v { link := BitVec.ofNat 3 k }).link.toNat = k) ∧
    ((v { probe := true }).probe = true ∧ ¬ (v { probe := true }).lastBurst + 200000 ≤ 199999 ∧ (v { probe := true }).lastBurst + 200000 ≤ 200000) ∧
    (v { link := 1, downUntil := some 5 }).downUntil = some 5 ∧ (v { link := 1 }).downUntil = none ∧ (v { upMill with regroup := 1 }).regroup.getLsbD 0 = true ∧
    (v upMill).groups.getLsbD 0 = true ∧ (v { upMill with groups := 0xE }).groups.getLsbD 0 = false ∧
    (v { upMill with timeReply := some (0, 0) }).timeReply ≠ none ∧ (v { upMill with timeDue := true }).timeDue = true ∧
    (v { upMill with identDue := true }).identDue = true ∧ ((s upMill).sendData 5 0).isNone = true ∧
    ((s { upMill with seq := 4, outq := [⟨0, true, 0⟩] }).sendData 5 0).isSome = true := by decide +kernel

/-! ### Witnesses: remote traffic and threshing -/

/-- Entries of the rank and routing tables, links and tags for each path of a remote request, and packets that arrive. -/
theorem witness_remote_requests :
    let far := remoteState 9 upMill
    let here : State := { remoteState 0 {} with wafer := 0 }
    let e (s : State) : Nat := bits (Store.get (0 : Word) s.ranks (rankKey 5 4)) 31 30
    let full : Mill := { upMill with tracks := [⟨0, 0, .cell c0, 0, 0⟩] }
    far.notYet (isRemoteReq 5 (request 0 none 4)) = false ∧ e far = 1 ∧ e State.reset = 0 ∧
    (BitVec.ofNat 12 (bits (Store.get (0 : Word) here.ranks (rankKey 5 4)) 29 18) : WaferId) = here.wafer ∧
    far.routeMill 5 9 77 = some 5 ∧ far.routeMill 5 8 77 = none ∧
    ({ far with routes := [(routeKey 5 9, BitVec.ofNat 32 (2 ^ 31 + 6))] } : State).routeMill 5 9 77 = some 6 ∧ (5 : MillNo) ∉ far.millsOut ∧
    (upMill.link = 7 ∧ upMill.freeTrack = some 0 ∧ full.freeTrack = some 1 ∧ ({} : Mill).link ≠ 7) ∧
    far.pacing = false ∧ (far.setHub 0 { power := { reason := 4 } }).pacing = true := by decide +kernel
theorem witness_deliveries :
    let d : Delivery := ⟨3, hdr, none⟩
    let v : Mill := { upMill with deliveries := [d, ⟨4, hdr, some (.cell c1, 7)⟩] }
    let s := millState v
    v.freeTag = some 0 ∧ (v.deliveries.find? fun d => d.tag == 3) = some d ∧ (v.deliveries.find? fun d => d.tag == 9) = none ∧
    hdr.kind = 1 ∧ cellIdOk (mkCell (hdr.endpoint.toNat % 624) (hdr.endpoint.toNat / 624)) = true ∧
    cellIdOk (mkCell (624 * 384 % 624) (624 * 384 / 624)) = false ∧
    (match (granState s []).translateIn (millField 5) [] 64 true with
      | (_, _, .phys _) => false
      | _ => true) = true ∧
    (match ({ granState s [] with gmap := [(copyKey 0 0, BitVec.ofNat 64 (2 ^ 63 + 2 ^ 62))] } : State).translateIn (millField 5) [] 64 true with
      | (_, _, .phys p) => p == 64
      | _ => false) = true ∧
    ({ upMill with inq := packetSlots hdr [1, 2, 3, 4] }).inq = packetSlots hdr [1, 2, 3, 4] ++ [] := by decide +kernel
theorem witness_remote_answers :
    let v : Mill := { upMill with tracks := [⟨1, 2, .cell c1, 7, 0⟩], rtimeout := 10, heldOps := [⟨9, 77, 8, 0, .latchOp .set 3 false false none 0, [], []⟩] }
    let s : State := { millState v with tick := 1000000 }
    let a : ChonelHdr := { hdr with rtag := BitVec.ofNat 20 (2 * 4096 + 1), ctype := 1, len := 0 }
    s.notYet (forwarded 5 a) = false ∧ a.dmill = 5 ∧ { a with dmill := 4 }.dmill ≠ 5 ∧ a.dwafer = s.wafer ∧ a.jobtag = s.jobtag ∧ { a with jobtag := 1 }.jobtag ≠ s.jobtag ∧
    (v.tracks.find? fun t => t.index == a.rtag.toNat % 4096 && t.gen.toNat == a.rtag.toNat / 4096).isSome = true ∧
    (0 + v.rtimeout.toNat * 100000 ≤ s.tick ∧ ¬ 0 + v.rtimeout.toNat * 100000 ≤ 999999) ∧
    v.heldOps = [] ++ ⟨9, 77, 8, 0, .latchOp .set 3 false false none 0, [], []⟩ :: [] ∧ (v.outq.filter fun x => x.lvc == 2).length = 0 ∧
    latchIdOk 0x17FFF = true ∧ latchIdOk 0x18000 = false ∧ gateIdOk (BitVec.ofNat 12 (48 * 64)) = false ∧ gateIdOk 0xBFF = true := by decide +kernel
theorem witness_mill_takes :
    let g : Packet := { readPacket c0 none with dest := .unicast (.hub (millField 5) (millUnit 5) 0), body := .gateOp true 3 1 4 (some 9), ejected := true }
    let f : Packet := { g with body := .forward { hdr with dwafer := 9, dmill := 5 } (.cell c1) 7 [] }
    let s (l : List Packet) : State := { millState upMill with net := l }
    ((frontOf (gateAt 5) [] (s [g]).net).or (frontOf (forwardAt 0 5) [] (s [g]).net)) = some g ∧
    ((frontOf (gateAt 5) [] (s [f]).net).or (frontOf (forwardAt 0 5) [] (s [f]).net)) = some f ∧
    ((frontOf (gateAt 5) [] (s []).net).or (frontOf (forwardAt 0 5) [] (s []).net)) = none ∧ (s []).wafer = 0 ∧ (5 : MillNo) ∉ (s []).millsOut := by
  decide +kernel

/-- What a packet for the running step comes to: 0 where it is gone, 1 where it is held, 2 where it is taken. -/
def ThrTake.code : ThrTake → Nat
  | .gone _ => 0
  | .hold => 1
  | .take _ _ _ _ _ => 2
/-- THRESH packets that are taken, of a foreign job, for another mill, of an unknown tensor, of a step to come and of one that has passed, of an
attempt to come, and that are to be forwarded yet. -/
theorem witness_thresh_taken :
    let s := thrState .up (some run0) group
    let k (s : State) (h : ChonelHdr) (later : Bool) : Nat := ThrTake.code (s.thrTake 5 h [] (fun a => a == hdrAttempt h) later)
    k s (thrHeader 0) true = 2 ∧ k s { thrHeader 0 with jobtag := 1 } true = 0 ∧ k s { thrHeader 0 with dmill := 4 } true = 0 ∧
    k s { thrHeader 0 with target := 2 } true = 0 ∧ k s (thrHeader 1) true = 1 ∧ k s (thrHeader 1) false = 0 ∧
    k (thrState .idle none group) (thrHeader 0) true = 1 ∧ k (thrState .idle none { group with faulted := true }) (thrHeader 0) true = 0 ∧
    k { s with net := [{ readPacket c0 none with dest := .unicast (.hub (millField 5) (millUnit 5) 0), body := .forward (thrHeader 0) (.cell c0) 0 [] }] }
      (thrHeader 0) true = 1 := by decide +kernel
/-- Packets up, down and of failure: of no child, of another E, full windows, elements with a wrong residue, a root and a child, return ranges in
use and free, and a cut child. -/
theorem witness_thresh_packets :
    let s := thrState .up (some run0) group
    let child : ThrTensor := { tensor with root := false }
    let busy := s.setCell c0 { board := [sbEntry 128 64 true .load] }
    let ni (t : State) : State := { t with ni := { origins := [(1, c0)] } }
    tensor.inputOf (thrHeader 0) = some 1 ∧ tensor.inputOf { thrHeader 0 with swafer := 8 } = none ∧ tensor.otherE (thrHeader 0) = false ∧
    tensor.otherE { thrHeader 0 with rtag := 0 } = true ∧ run0.window 1 + 1 ≤ 16384 ∧ (run0.bad = false ∧ run0.failed = false) ∧
    (3 : BitVec 13) = residue 3 ∧ (4 : BitVec 13) ≠ residue 3 ∧ child.root = false ∧ tensor.root = true ∧
    (ni s).retsClear 5 tensor = true ∧ (ni busy).retsClear 5 tensor = false ∧ s.childCut tensor = true ∧ s.childCut { tensor with children := [] } = false ∧
    (let u : State := s.setMill 5 { s.mill 5 with partner := some { ident with thresh := true } }
     u.childCut tensor = false) := by decide +kernel

/-- Steps that wait, that run and that are faulted; triggers that make a step wait, that meet one, and that are another's. -/
theorem witness_thresh_steps :
    let idle (g : ThrGroup) : State := thrState .idle none g
    ((idle group).mill 5).run = none ∧ group.waiting = true ∧ group.faulted = false ∧ { group with waiting := false }.waiting = false ∧
    ((thrState .up (some run0) group).mill 5).run ≠ none ∧ ((thrState .up (some run0) group).mill 5).runGroup = some (run0, group) ∧
    ((idle group).mill 5).runGroup = none ∧
    (group.trigger = 0 ∧ (group.count + 1) % group.stride = 0 ∧ ({ group with stride := 2 }.count + 1) % 2 ≠ 0) ∧
    ({} : Mill).thrFault.msb = false ∧ ({ thrFault := BitVec.ofNat 64 (2 ^ 63) } : Mill).thrFault.msb = true ∧ group.mode = 1 ∧
    (∀ t ∈ ({ group with tensors := [{ tensor with children := [] }] } : ThrGroup).tensors, t.root = true ∧ t.children = []) := by decide +kernel
/-- Cells that mill wain 0 finds, that are locked out, and that are none; segments on full and free scoreboards. -/
theorem witness_segments :
    let s : State := { thrState .harvest (some run0) group with ni := { origins := [(1, c0)] } }
    let out := s.setCell c0 { lockedOut := true }
    (match s.thrCell 5 1 0 0 with
      | .ok c => c == c0
      | .error _ => false) = true ∧
    (match out.thrCell 5 1 0 0 with
      | .ok _ => false
      | .error e => e == 7) = true ∧
    (match s.thrCell 5 1 1 0 with
      | .ok _ => false
      | .error e => e == 6) = true ∧
    (s.cell c0).board.length < 8 ∧ s.rangeClear 5 4 ⟨1, 0, 0, 64, 0, 1⟩ = true ∧
    (s.setCell c0 { board := [sbEntry 64 64 true .load] }).rangeClear 5 4 ⟨1, 0, 0, 64, 0, 1⟩ = false := by decide +kernel
/-- Translations of mill wain 1: a page that is mapped, that is not, that is read-only; wains that have stopped. -/
theorem witness_mill_wains :
    let k := wainKey (.mill 5 1)
    let s (e : Nat) : State := { granState (thrState .up (some run0) group) [] with gmap := if e = 0 then [] else [(copyKey 0 0, BitVec.ofNat 64 e)] }
    let off (s : State) : State := { s with gstacks := [] }
    ((s 0).wain k).faulting = none ∧ ((s 0).wain k).state = .idle ∧ (((s (2 ^ 63)).places 5 k false [(0, 4)]).2).isSome = true ∧
    (((s (2 ^ 63)).places 5 k true [(0, 4)]).1.wain k).faulting.isSome = true ∧ (((s 0).places 5 k false [(0, 4)]).1.wain k).faulting.isSome = true ∧
    (((off (s (2 ^ 63))).places 5 k false [(0, 4)]).1.wain k).err = 3 ∧
    ((((s (2 ^ 63)).setWain k { state := .error }).places 5 k false [(0, 4)]).2) = none ∧
    (((s (2 ^ 63)).setWain k { state := .error }).thrWainBad 5 = true) ∧ (s 0).thrWainBad 5 = false := by decide +kernel

/-- A node of two tensors on its way: with no contribution, with part of it, with all; verified and unverified sums; a root and a child. -/
theorem witness_sums :
    let r (l : List (BitVec 96 × BitVec 13)) : ThrRun := { run0 with recv := [(0, l)], residue := true }
    let two (l : List (BitVec 96 × BitVec 13)) : ThrRun := { r l with recv := [(0, l), (1, l)] }
    let own : ThrRun := { run0 with recv := [(0, [(3, 3)]), (1, [(5, 5)])], checks := [(0, 3), (1, 5)], residue := false }
    (group.tensors[run0.done]?) = some tensor ∧ group.tensors[1]? = none ∧ Store.find? run0.recv 0 = none ∧ Store.find? (r []).recv 0 ≠ none ∧
    addElems true [[(3, 3)], [(5, 5)]] 1 = ([8], false) ∧ (addElems true [[(3, 3)], [(5, 6)]] 1).2 = true ∧
    own.subtree tensor 0 = some 8 ∧ { own with checks := [(0, 3)] }.subtree tensor 0 = none ∧ (two []).subtree tensor 0 = some 0 ∧
    (∃ t ∈ group.tensors, t.root = true) ∧ (own.badOwn group = none) ∧ ({ own with recv := [(0, [(3, 4)])] }.badOwn group = some (0, 0)) ∧
    (let g : ThrGroup := { group with tensors := [{ tensor with root := false }] }
     ∀ t ∈ g.tensors, t.root = false) ∧ ({ own with sums := [(0, [1, 2])] }.sums = [(0, [1, 2])]) := by decide +kernel
/-- Numbers for each conversion: exact, out of range, infinite and not a number. -/
theorem witness_numbers :
    decodeF .b32 0x3F800000 = .fin false 8388608 (-23) ∧ 8388608 * 2 ^ ((-23 : Int) - (-40)).toNat < 2 ^ 83 ∧ (-40 : Int) ≤ -23 ∧
    2 ^ 83 ≤ 8388608 * 2 ^ ((-23 : Int) - (-90)).toNat ∧ decodeF .b32 0x7F800000 = .inf false ∧
    (match decodeF .b32 0x7FC00000 with
      | .nan _ => true
      | _ => false) = true ∧ atQuantum 8388608 (-23) 0 = (1, false) := by decide +kernel
/-- Winnowing: a program that copies the gradient to its output, return records that cast with a block and without, and what ends a step. -/
theorem witness_winnows :
    let prog : List Word := [BitVec.ofNat 32 (1 * 2 ^ 26 + 3 * 2 ^ 22), BitVec.ofNat 32 (17 * 2 ^ 26 + 3 * 2 ^ 18)]
    let g (t : ThrTensor) : ThrGroup := { group with tensors := [t] }
    progOk prog = true ∧ progOk [] = false ∧ (∀ w ∈ prog.map BitVec.toNat, w / 2 ^ 26 ≠ 2 ∧ w / 2 ^ 26 ≠ 3) ∧
    (let s : State := { granState (thrState .winnow (some run0) (g { tensor with prog := prog })) [0, 0, 0x80, 0x3F] with ni := { origins := [(1, c0)] } }
     (match (s.winnowOne 5 { tensor with prog := prog } 0).2 with
      | some (l, _, _, _) => l == [0x3F800000]
      | none => false) = true ∧ s.retsClear 5 tensor = true ∧ ((s.mill 5).run) = some run0) ∧
    (run0.progress + group.timeout * 100000 ≤ 100000 ∧ ¬ run0.progress + group.timeout * 100000 ≤ 99999) ∧
    ({ run0 with bad := true }.bad = true) ∧ (∀ i < group.tensors.length, i ∈ ({ run0 with ended := [0] } : ThrRun).ended) ∧ (0 : Nat) ∉ run0.ended := by
  decide +kernel

/-! ### Witnesses: wains, errors and defects -/

/-- Addresses of each space at their limits, for a wain of a plot. -/
theorem witness_wain_addresses :
    let s := chainState chain
    let k := wainKey wid
    let loft (a : Nat) : DWord := BitVec.ofNat 64 (0x7F * 2 ^ 53 + a)
    let e : DWord := BitVec.ofNat 64 (2 ^ 63)
    let cached (e : DWord) : State := s.setWain k { (s.wain k) with cache := [(1, e)] }
    let win : State := { s.setPort 0 { linkUp := true, bme := true } with windows := [(3, ⟨0, 0, 4096, true, false⟩)] }
    let going : State := { win with windows := [(3, ⟨0, 0, 4096, true, true⟩)] }
    s.resolve k (loft 0x1FFFC0) 0 64 false 0 = .ok (.cell c0) 0x1FFFC0 none ∧ s.resolve k (loft 0x1FFFC1) 0 64 false 0 = .err 6 ∧
    s.resolve k (BitVec.ofNat 64 (0x7F * 2 ^ 53 + 2 ^ 43)) 0 64 false 0 = .err 6 ∧
    s.resolve k (BitVec.ofNat 64 (2 ^ 60 + 2 ^ 21)) 0 64 false 0 = .miss 0x200000 ∧ s.resolve k (BitVec.ofNat 64 (2 ^ 60 + 2 ^ 42 - 1)) 0 2 false 0 = .err 6 ∧
    (cached e).resolve k (BitVec.ofNat 64 (2 ^ 60 + 2 ^ 21)) 0 64 true 0 = .fault 0x200000 true ∧
    (cached e).resolve k (BitVec.ofNat 64 (2 ^ 60 + 2 ^ 21)) 0 64 false 0 = .ok (.stack 0) 0 (some 1) ∧
    win.resolve k (BitVec.ofNat 64 (2 ^ 61 + 3 * 2 ^ 48)) 4032 64 true 0 = .ok (.host 3) 4032 none ∧
    win.resolve k (BitVec.ofNat 64 (2 ^ 61 + 3 * 2 ^ 48)) 4033 64 true 0 = .err 9 ∧ going.resolve k (BitVec.ofNat 64 (2 ^ 61 + 3 * 2 ^ 48)) 0 64 true 0 = .err 9 ∧
    s.resolve k (BitVec.ofNat 64 (3 * 2 ^ 60)) 0 64 true 4 = .ok (.remote (s.wainMill wid) 4) 0 none ∧ s.resolve k (BitVec.ofNat 64 (2 ^ 62)) 0 64 true 0 = .err 6 ∧
    (s.mill 0).licensed = true := by decide +kernel
/-- Descriptors of each layout that are well formed, and one malformed by each field. -/
theorem witness_layouts :
    let d (lay sl row m len dst : Nat) : BitVec 512 := desc + BitVec.ofNat 512 (len - 16 + sl * 2 ^ 58 + lay * 2 ^ 61 + row * 2 ^ 320 + m * 2 ^ 336 +
      4 * 2 ^ 256 + dst * 2 ^ 288)
    let bad (x : BitVec 512) : Bool := malformed x 1 1
    bad (d 0 0 0 0 16 0) = false ∧ bad (d 1 0 8 0 16 0) = false ∧ bad (d 1 0 7 0 16 0) = true ∧ bad (d 2 1 8 0 16 0) = false ∧ bad (d 2 0 8 0 16 0) = true ∧
    bad (d 3 0 8 2 16 0) = false ∧ bad (d 3 0 8 0 16 0) = true ∧ bad (d 4 4 0 2 256 0) = false ∧ bad (d 4 3 0 2 256 0) = true ∧ bad (d 5 0 0 0 16 0) = true ∧
    bad (d 0 6 0 0 16 0) = true ∧ bad (desc + BitVec.ofNat 512 (2 ^ 48)) = true ∧ malformed (desc - 16) 1 1 = false ∧
    ((srcOf (d 2 1 8 0 16 0) 1).length = 1 ∧ (srcOf (d 3 0 8 2 16 0) 0).length = 2) ∧ rsvdAddr (BitVec.ofNat 64 (2 ^ 62)) = true ∧ rsvdAddr 0 = false := by
  decide +kernel
/-- Wains that fetch, that a scan-out stops, whose descriptor lies in a locked-out cell, behind an unclaimed window, in a stack, and elsewhere. -/
theorem witness_fetches :
    let s := chainState chain
    let k := wainKey wid
    let at_ (a : DWord) (s : State) : State := s.setWain k { (s.wain k) with descAddr := a }
    let w : Wain := (s.wain k)
    (w.state = .running ∧ w.chains ≠ [] ∧ w.desc = none ∧ w.miss = none ∧ w.faulting = none ∧ w.stopReq = false) ∧
    (s.resolve k w.descAddr 0 64 false 0 = .ok (.cell c0) 0 none ∧ (s.cell c0).lockedOut = false ∧ s.isHole c0 = false ∧ s.refusedRange c0 0 64 = false ∧
      (s.loftRead c0 0 64 2).2.2 = false) ∧
    ((s.setCell c0 { lockedOut := true }).cell c0).lockedOut = true ∧
    ({ s with residents := [{ key := 0, lx := 3, ly := 3, width := 1, height := 1, start := 0, len := 0x42, claimed := false, damaged := false }] } : State).refusedRange
      c0 0 64 = true ∧
    (let g := at_ (BitVec.ofNat 64 (2 ^ 60)) ({ s with gstacks := [(0, { state := .active })] }.setWain k { w with cache := [(0, BitVec.ofNat 64 (2 ^ 63))] })
     g.resolve k (g.wain k).descAddr 0 64 false 0 = .ok (.stack 0) 0 (some 0) ∧ (g.stack 0).state = .active ∧ (g.granRead 0 64 0).2.2 = false) ∧
    ((at_ (BitVec.ofNat 64 (3 * 2 ^ 60)) s).resolve k (BitVec.ofNat 64 (3 * 2 ^ 60)) 0 64 false 0 = .ok (.remote (s.wainMill wid) 0) 0 none) ∧
    malformed (BitVec.ofNat 512 (leNat (leBytes 64 desc.toNat))) 1 1 = false ∧ malformed (BitVec.ofNat 512 (leNat (List.replicate 64 255))) 1 1 = true := by
  decide +kernel
/-- Packets: their lengths at a limit, at the 256 B boundary and at the end, ranges that enter and that wait, and the forms of a packet. -/
theorem witness_wain_packets :
    let k := wainKey wid
    let s := chainState { chain with desc := some desc }
    let on := chainState { chain with desc := some desc, registered := true }
    let mine : SbEntry := sbEntry 0 16 true (.wain k)
    0 < dTotal desc ∧ 15 < dTotal desc ∧ ((s.wain k).desc = some desc ∧ (s.wain k).registered = false ∧ (s.wain k).faulting = none ∧ (s.wain k).state = .running) ∧
    (s.descRanges k desc).length = 2 ∧ ((s.descRanges k desc).all fun r => (s.cell r.1).board.length + 2 ≤ 8) = true ∧
    ((on.wain k).registered = true ∧ (on.wain k).miss = none) ∧
    ({ board := [sbEntry 0 16 true .load, mine] } : Cell).earlierOpen k = true ∧ ({ board := [mine, sbEntry 0 16 true .load] } : Cell).earlierOpen k = false ∧
    (on.resolve k (dDst desc) 0 8 true 0 ≠ .err 6) ∧ ((on.formPieces k desc [] (on.wain k)).2 = none) := by decide +kernel
/-- Requests and answers: tags that are free, packets to read, to write and to acknowledge, and answers of each kind. -/
theorem witness_wain_answers :
    let piece : Piece := ⟨.cell c0, 0, 8, 0, none⟩
    let p : WPacket := { tgt := .cell c0, addr := 0, data := List.replicate 8 0, todo := [piece], reads := [] }
    let r : WPacket := { p with todo := [], reads := [(0, piece)] }
    let a : WPacket := { p with todo := [], sent := true, tag := 0 }
    let w (q : WPacket) : Wain := { chain with desc := some desc, packets := [q] }
    (w p).freeTag = some 0 ∧ ((w p).packets[0]?) = some p ∧ (w p).packets[1]? = none ∧ p.todo = piece :: [] ∧ (w r).awaitsRead 0 = some piece ∧
    (w r).awaitsRead 1 = none ∧ a.awaits 0 = true ∧ (w a).awaitsAck 0 = true ∧ r.awaits 0 = false ∧ (w a).awaitsRead 0 = none ∧ (w r).freeTag = some 1 ∧
    (p.fill piece [1, 2, 3, 4, 5, 6, 7, 8]).data = [1, 2, 3, 4, 5, 6, 7, 8] ∧ (p.fill { piece with nib := some (true, true) } [0x21]).data[0]? = some 0x20 ∧
    (w a).packets = [] ++ a :: [] := by decide +kernel
theorem witness_misses_and_ends :
    let k := wainKey wid
    let m : Wain := { chain with state := .waitmap, miss := some (0x200000, false, false) }
    let s (e : List (Nat × DWord)) : State := { chainState m with gmap := e, gstacks := [(0, { state := .active })] }
    let f := chainState { chain with faulting := some 5 }
    let done : Wain := { chain with desc := some desc, registered := true, issued := 16, progress := 16 }
    (((s []).wain k).miss = some (0x200000, false, false) ∧ (s []).copiesFor (wainField wid) = [0] ∧ (chainState m).copiesFor (wainField wid) = []) ∧
    ((s []).mapRead 1 [0]).2 = some 0 ∧ ((s [(copyKey 0 1, BitVec.ofNat 64 (2 ^ 63))]).mapRead 1 [0]).2 = some (BitVec.ofNat 64 (2 ^ 63)) ∧
    (({ s [] with granErr := [(copyAddr 0 1 / 64, 2)] } : State).mapRead 1 [0]).2 = none ∧
    ((f.wain k).faulting = some 5 ∧ (f.wain k).packets = []) ∧
    (done.desc = some desc ∧ done.miss = none ∧ done.registered = true ∧ dTotal desc ≤ done.issued ∧ ¬ dTotal desc ≤ { done with issued := 15 }.issued) ∧
    bits desc 31 0 ≠ 0 ∧ bits (desc - 16) 31 0 = 0 ∧ desc.getLsbD 52 = true ∧ done.chains.length ≤ 1 ∧ { done with chains := [0, 64] }.chains = 0 :: 64 :: [] ∧
    (let x : Endpoint × Byte × Nat := (.hub 0 2 0, 3, 8)
     let t : State := { f with hostReads := [x] }
     t.hostReads = [] ++ x :: [] ∧ sameUnit x.1 (.hub (wainField wid) (wainUnit wid) 0) = true ∧ f.hostReads = []) := by decide +kernel

/-- Words of the loft and units of the granary without an error, with one corrected and one uncorrectable; logs that are armed and that are not;
whole words and parts; patrols that are on and off. -/
theorem witness_errors :
    let w := wordKey c0 0x50
    let s (n : Nat) : State := { State.reset with loftErr := [(w, n)], granErr := [(5, n)], gstacks := [(0, { state := .active })] }
    let h : Hub := { loftCtrl := 0x186, cecnt := 255 }
    (∀ n ∈ [1, 2], Store.get 0 (s n).loftErr w = n ∧ Store.get 0 (s n).granErr 5 = n) ∧ Store.get 0 State.reset.loftErr w = 0 ∧ Store.get 0 State.reset.granErr 5 = 0 ∧
    (w ∉ (s 1).scrubs ∧ w ∈ { s 1 with scrubs := [w] }.scrubs) ∧
    (h.loftCtrl.getLsbD 8 = true ∧ (satAdd h.cecnt 1).toNat = 2 ^ bits h.loftCtrl 7 4 ∧ h.cecnt.toNat < 2 ^ bits h.loftCtrl 7 4) ∧
    ({} : Hub).uelog.msb = false ∧ ({ uelog := BitVec.ofNat 64 (2 ^ 63) } : Hub).uelog.msb = true ∧ State.reset.physCol c0 < 128 ∧
    w % 2 ^ 17 * 16 = 0x50 ∧ (∀ i < 16, 0x50 ≤ w % 2 ^ 17 * 16 + i ∧ ((List.replicate 16 (some (1 : Byte)))[w % 2 ^ 17 * 16 + i - 0x50]?).isSome = true) ∧
    (5 * 64 ≤ 5 * 64 ∧ 5 * 64 + 64 ≤ 320 + 64 ∧ ¬ 5 * 64 + 64 ≤ 320 + 63) ∧ (5 : Nat) < 2 ^ 36 ∧ ({} : Stack).uelog.msb = false ∧
    ({ s 1 with scrubs := [w] }.scrubs = [] ++ w :: [] ∧ w / 2 ^ 17 = c0.toNat) ∧ bits (State.reset.hub 0).loftCtrl 3 1 ≠ 0 ∧
    bits ({ loftCtrl := 0 } : Hub).loftCtrl 3 1 = 0 ∧ ((s 1).stack 0).state = .active ∧ ((s 1).stack 1).state ≠ .active := by decide +kernel

/-- Plots that may fault and that may not, watchdogs at their limit and before it, cells that probes find dead, and fields that go dark. -/
theorem witness_defects :
    let s (n : Nat) : State := { (State.reset.setPlot 1 { plotOn with wdog := 0x8000000A }).setCell c0
      { run := .running, owner := 1, missed := 9, held := heldWords (encodeWords (.pop c0 false 5 1)), pc := 0x20,
        queues := [(1, { cfg := 0x8000000000000000#64 })] } with tick := n }
    let q := (s 1000).plot 1
    (q.state = .running ∧ q.scanning = false ∧ q.wdog.msb = true ∧ (q.cells.filter fun c => (s 1000).isHeld c) = [c0] ∧
      max q.progress q.unheld + bits q.wdog 15 0 * 100 ≤ 1000 ∧ ¬ max q.progress q.unheld + bits q.wdog 15 0 * 100 ≤ 999) ∧
    (Sys2Proof.Machine.PlotState.running.faultable = true ∧ Sys2Proof.Machine.PlotState.dry.faultable = false) ∧
    (q.events = 0 ∧ (0b01000 : BitVec 5) &&& ~~~q.events ≠ 0 ∧ (0b01000 : BitVec 5) &&& ~~~0b01000 = 0) ∧
    ((s 0).tick % 1000 = 0 ∧ (s 999).tick % 1000 ≠ 0 ∧ ((s 0).hub 0).dark = false ∧ ((s 0).cell c0).dead = false ∧ ((s 0).cell c0).lockedOut = false ∧
      ((s 0).plotsWith fun q => q.covers c0) = [1]) ∧ (s 0).cells.sorted = true ∧ [c0].Nodup ∧
    (cellIdOk c0 = true ∧ (s 0).isHole c0 = false ∧ ((s 0).makeHole c0).isHole c0 = true) ∧
    (let f := (s 0).setHub 0 { powered := true, power := { trip := 0x00050007 } }
     bits (f.hub 0).power.trip 31 16 < 6 ∧ bits (f.hub 0).power.trip 15 0 < 8 ∧ ¬ bits (f.hub 0).power.trip 31 16 < 5 ∧ (f.hub 0).powered = true) ∧
    (s 0).bridge = 0 ∧ (s 0).map.sorted = true ∧ outside 1 (.cell c0) = true ∧ outside 0 (.cell c0) = false ∧
    (let r (w : Waiting) : Running := ⟨0, 0, 0x70013, [1, 1], true, w⟩
     (r (.dry 1)).what = .dry 1 ∧ (r (.scan 1)).what = .scan 1 ∧ (r .warm).what ≠ .dry 1) ∧
    ((State.reset.ledgerAdd (State.reset.cellEntry c0)).ledger.any fun e => e.row == 255) = false := by decide +kernel
/-- Operands that their words can spell, and a packet's body that has a type word. -/
theorem witness_spelled :
    (∀ i ∈ ([.add c0 3 3 (.reg 5), .vmul c0 .ch16 2 3 4, .wgo c0 3 2] : List Instr), i.spellable = true ∧ i.cellOf = some c0 ∧ encodeWords i ≠ []) ∧
    (typeWord (.readReq 5 7 9)).isSome = true ∧ (packetFlits (readPacket c0 none)).isSome = true ∧
    ((⟨.data, 0, ctl0, [⟨0, true, 0⟩], none, none⟩ : TxFrame).slots[0]?).isSome = true := by decide +kernel

end Sys2Proof.Tests
end

section
/-! PROOFS. What the operations on a cell's loop state, hold and trap record do, said once. -/

namespace Sys2Proof.Proofs
open Sys2Proof.Machine Sys2Proof.Laws

/-! ### Loop counters -/

@[simp] theorem setLoop_loop_same (v : Cell) (k : CtrNo) (x : LoopCtr) : (v.setLoop k x).loop k = x := by
  simp [setLoop_loop]

theorem setLoop_loop_other {v : Cell} {k j : CtrNo} {x : LoopCtr} (h : j ≠ k) : (v.setLoop k x).loop j = v.loop j := by
  simp [setLoop_loop, h]

@[simp] theorem loop_withOrder (v : Cell) (l : List CtrNo) (j : CtrNo) : { v with loopOrder := l }.loop j = v.loop j := rfl

@[simp] theorem loop_withHeld (v : Cell) (l : List HeldWord) (j : CtrNo) : { v with held := l }.loop j = v.loop j := rfl

@[simp] theorem setLoop_loopOrder (v : Cell) (k : CtrNo) (x : LoopCtr) : (v.setLoop k x).loopOrder = v.loopOrder := rfl

/-- Two cells differ in their loop counters and in the order of their active loops only. -/
def OnlyLoops (v v' : Cell) : Prop := v' = { v with loops := v'.loops, loopOrder := v'.loopOrder }

theorem OnlyLoops.refl (v : Cell) : OnlyLoops v v := rfl

theorem OnlyLoops.trans {v v' v'' : Cell} (h : OnlyLoops v v') (h' : OnlyLoops v' v'') : OnlyLoops v v'' := by
  unfold OnlyLoops at *
  rw [h', h]

theorem OnlyLoops.withHeld {v v' : Cell} (h : OnlyLoops v v') (l : List HeldWord) :
    { v' with held := l } = { v with loops := v'.loops, loopOrder := v'.loopOrder, held := l } :=
  congrArg (fun u : Cell => { u with held := l }) h

theorem setLoop_onlyLoops (v : Cell) (k : CtrNo) (x : LoopCtr) : OnlyLoops v (v.setLoop k x) := rfl

theorem withOrder_onlyLoops (v : Cell) (l : List CtrNo) : OnlyLoops v { v with loopOrder := l } := rfl

theorem endLoop_onlyLoops (v : Cell) (k : CtrNo) : OnlyLoops v (v.endLoop k) := rfl

@[simp] theorem endLoop_loopOrder (v : Cell) (k : CtrNo) : (v.endLoop k).loopOrder = v.loopOrder.filter (· != k) := rfl

@[simp] theorem endLoop_loop_same (v : Cell) (k : CtrNo) : (v.endLoop k).loop k = { v.loop k with active := false } := by
  simp [Cell.endLoop]

theorem endLoop_loop_other {v : Cell} {k j : CtrNo} (h : j ≠ k) : (v.endLoop k).loop j = v.loop j := by
  simp [Cell.endLoop, setLoop_loop_other h]

/-! ### End tests (R40, R41) -/

/-- No active loop of a list has its body's last word at an address. -/
def NoneEnds (v : Cell) (addr : PAddr) (l : List CtrNo) : Prop :=
  ∀ k ∈ l, (v.loop k).active = true → (v.loop k).stop ≠ addr

/-- The first loop of the list does not end at the word: the others are tested. -/
theorem testLoops_skips {addr : PAddr} {k : CtrNo} {l : List CtrNo} {v : Cell}
    (h : (v.loop k).active = true → (v.loop k).stop ≠ addr) :
    Cell.testLoops addr (k :: l) v = Cell.testLoops addr l v := by
  have hk : ¬ ((v.loop k).active && (v.loop k).stop == addr) = true := by simpa using h
  rw [Cell.testLoops, if_neg hk]

/-- The first loop of the list ends at the word and repeats. -/
theorem testLoops_repeats {addr : PAddr} {k : CtrNo} {l : List CtrNo} {v : Cell} (hact : (v.loop k).active = true)
    (hstop : (v.loop k).stop = addr) (hcount : 1 < (v.loop k).count.toNat) :
    Cell.testLoops addr (k :: l) v =
      (v.setLoop k { v.loop k with count := (v.loop k).count - 1 }, some (v.loop k).start) := by
  simp [Cell.testLoops, hact, hstop, hcount]

/-- The cell after the exit of a loop by its end test. -/
def exited (v : Cell) (k : CtrNo) : Cell :=
  { v.setLoop k { v.loop k with count := 0, active := false } with loopOrder := v.loopOrder.filter (· != k) }

/-- The first loop of the list ends at the word and exits: the others are tested. -/
theorem testLoops_exits {addr : PAddr} {k : CtrNo} {l : List CtrNo} {v : Cell} (hact : (v.loop k).active = true)
    (hstop : (v.loop k).stop = addr) (hcount : (v.loop k).count.toNat ≤ 1) :
    Cell.testLoops addr (k :: l) v = Cell.testLoops addr l (exited v k) := by
  simp [Cell.testLoops, hact, hstop, Nat.not_lt.2 hcount, exited]

@[simp] theorem exited_loop_same (v : Cell) (k : CtrNo) :
    (exited v k).loop k = { v.loop k with count := 0, active := false } := by
  simp [exited]

theorem exited_loop_other {v : Cell} {k j : CtrNo} (h : j ≠ k) : (exited v k).loop j = v.loop j := by
  simp [exited, setLoop_loop_other h]

theorem exited_loopOrder {v : Cell} {k : CtrNo} {l : List CtrNo} (h : v.loopOrder = k :: l) (hk : k ∉ l) :
    (exited v k).loopOrder = l := by
  have hl : l.filter (· != k) = l := List.filter_eq_self.2 fun j hj => by simpa using ne_of_mem_of_not_mem hj hk
  simp [exited, h, hl]

theorem exited_onlyLoops (v : Cell) (k : CtrNo) : OnlyLoops v (exited v k) := rfl

theorem testLoops_onlyLoops (addr : PAddr) (l : List CtrNo) (v : Cell) : OnlyLoops v (Cell.testLoops addr l v).1 := by
  induction l generalizing v with
  | nil => exact .refl v
  | cons k l ih =>
    by_cases hk : (v.loop k).active = true → (v.loop k).stop ≠ addr
    · rw [testLoops_skips hk]
      exact ih v
    · obtain ⟨hact, hstop⟩ : (v.loop k).active = true ∧ (v.loop k).stop = addr := by simpa using hk
      by_cases hcount : 1 < (v.loop k).count.toNat
      · rw [testLoops_repeats hact hstop hcount]
        exact setLoop_onlyLoops v k _
      · rw [testLoops_exits hact hstop (Nat.not_lt.1 hcount)]
        exact (exited_onlyLoops v k).trans (ih _)

theorem testLoops_of_noneEnds {addr : PAddr} {l : List CtrNo} {v : Cell} (h : NoneEnds v addr l) :
    Cell.testLoops addr l v = (v, none) := by
  induction l with
  | nil => rfl
  | cons k l ih =>
    rw [testLoops_skips (h k (by simp))]
    exact ih fun j hj => h j (by simp [hj])

/-! ### Words that execution leaves -/

theorem leaveWord_of_intrap {v : Cell} (addr : PAddr) (h : v.intrap = true) : v.leaveWord addr = (v, addr + 1) := by
  simp [Cell.leaveWord, h]

theorem leaveWord_of_not_intrap {v : Cell} (addr : PAddr) (h : v.intrap = false) :
    v.leaveWord addr =
      ((Cell.testLoops addr v.loopOrder v).1, (Cell.testLoops addr v.loopOrder v).2.getD (addr + 1)) := by
  simp [Cell.leaveWord, h]

theorem leaveWord_onlyLoops (v : Cell) (addr : PAddr) : OnlyLoops v (v.leaveWord addr).1 := by
  cases h : v.intrap with
  | true => rw [leaveWord_of_intrap addr h]; exact .refl v
  | false => rw [leaveWord_of_not_intrap addr h]; exact testLoops_onlyLoops _ _ _

theorem leaveWord_of_noneEnds {v : Cell} {addr : PAddr} (h : NoneEnds v addr v.loopOrder) :
    v.leaveWord addr = (v, addr + 1) := by
  cases hi : v.intrap with
  | true => exact leaveWord_of_intrap addr hi
  | false => rw [leaveWord_of_not_intrap addr hi, testLoops_of_noneEnds h]; rfl

theorem leaveWords_cons (w : HeldWord) (l : List HeldWord) (v : Cell) (next : PAddr) :
    Cell.leaveWords (w :: l) v next = Cell.leaveWords l (v.leaveWord w.addr).1 (v.leaveWord w.addr).2 := rfl

theorem leaveWords_onlyLoops (l : List HeldWord) (v : Cell) (next : PAddr) :
    OnlyLoops v (Cell.leaveWords l v next).1 := by
  induction l generalizing v next with
  | nil => exact .refl v
  | cons w l ih => exact (leaveWord_onlyLoops v w.addr).trans (ih _ _)

theorem leaveWords_of_noneEnds {l : List HeldWord} {w : HeldWord} {v : Cell} (next : PAddr)
    (h : ∀ x ∈ l ++ [w], NoneEnds v x.addr v.loopOrder) : Cell.leaveWords (l ++ [w]) v next = (v, w.addr + 1) := by
  induction l generalizing next with
  | nil => simpa [Cell.leaveWords] using leaveWord_of_noneEnds (h w (by simp))
  | cons x l ih =>
    rw [List.cons_append, leaveWords_cons, leaveWord_of_noneEnds (h x (by simp))]
    exact ih _ fun y hy => h y (List.mem_cons_of_mem x hy)

/-- The word at the head of the rest of the hold is the last of an instruction's words. -/
theorem head?_drop_of_take_eq {held l : List HeldWord} {w : HeldWord} {n : Nat} (h : held.take n = l ++ [w])
    (hn : l.length + 1 = n) : (held.drop (n - 1)).head? = some w := by
  have hlt : l.length < n := by omega
  have hget : (held.take n)[l.length]? = some w := by rw [h]; simp
  rw [List.head?_drop, ← hget, List.getElem?_take_of_lt hlt, ← hn, Nat.add_sub_cancel]

theorem afterHead_of_take_eq {v : Cell} {l : List HeldWord} {w : HeldWord} {n : Nat} (h : v.held.take n = l ++ [w])
    (hn : l.length + 1 = n) : v.afterHead n = w.addr + 1 := by
  simp [Cell.afterHead, head?_drop_of_take_eq h hn]

/-! ### Retiring words, and changes of a counter's loop -/

theorem retire_pc (v : Cell) (n : Nat) : (v.retire n).pc = (Cell.leaveWords (v.held.take n) v v.pc).2 := rfl

theorem retire_loops (v : Cell) (n : Nat) : (v.retire n).loops = (Cell.leaveWords (v.held.take n) v v.pc).1.loops := rfl

theorem retire_loopOrder (v : Cell) (n : Nat) :
    (v.retire n).loopOrder = (Cell.leaveWords (v.held.take n) v v.pc).1.loopOrder := rfl

theorem retire_frame (v : Cell) (n : Nat) :
    v.retire n = { v with pc := (v.retire n).pc, held := (v.retire n).held, loops := (v.retire n).loops,
                          loopOrder := (v.retire n).loopOrder } := by
  have h : OnlyLoops v (Cell.leaveWords (v.held.take n) v v.pc).1 := leaveWords_onlyLoops _ _ _
  exact congrArg (fun v' : Cell => { v' with pc := (v.retire n).pc, held := (v.retire n).held }) h

/-- A change that keeps the hold, made by an instruction of `n` words: only the hold can lose the words after it. -/
theorem changeLoop_eq {v : Cell} {n : Nat} {k : CtrNo} {f : Cell → Cell} (h : (f v).held = v.held) :
    v.changeLoop n k f = { f v with held := Claims.heldFor v n k } := by
  unfold Cell.changeLoop Claims.heldFor
  split
  · simp only [h]
  · rw [← h]

theorem changeLoop_loop {v : Cell} {n : Nat} {k : CtrNo} {f : Cell → Cell} (h : (f v).held = v.held) (j : CtrNo) :
    (v.changeLoop n k f).loop j = (f v).loop j := by
  rw [changeLoop_eq h, loop_withHeld]

/-- The cell after a LOOP with trips has set its loop up: on top of the order of active loops (R40, R42). -/
def looped (v : Cell) (k : CtrNo) (x : LoopCtr) : Cell :=
  { (v.endLoop k).setLoop k x with loopOrder := k :: ((v.endLoop k).setLoop k x).loopOrder }

theorem looped_onlyLoops (v : Cell) (k : CtrNo) (x : LoopCtr) : OnlyLoops v (looped v k x) :=
  ((endLoop_onlyLoops v k).trans (setLoop_onlyLoops _ k x)).trans (withOrder_onlyLoops _ _)

@[simp] theorem looped_loop_same (v : Cell) (k : CtrNo) (x : LoopCtr) : (looped v k x).loop k = x := by simp [looped]

@[simp] theorem looped_loopOrder (v : Cell) (k : CtrNo) (x : LoopCtr) :
    (looped v k x).loopOrder = k :: v.loopOrder.filter (· != k) := rfl

theorem looped_loop_other {v : Cell} {k j : CtrNo} {x : LoopCtr} (h : j ≠ k) : (looped v k x).loop j = v.loop j := by
  rw [looped, loop_withOrder, setLoop_loop_other h, endLoop_loop_other h]

/-- The cell after a LOOP without trips: the counter is 0 and its loop inactive (R76). -/
def skipped (v : Cell) (k : CtrNo) : Cell := (v.endLoop k).setLoop k { (v.endLoop k).loop k with count := 0 }

theorem skipped_onlyLoops (v : Cell) (k : CtrNo) : OnlyLoops v (skipped v k) :=
  (endLoop_onlyLoops v k).trans (setLoop_onlyLoops _ k _)

@[simp] theorem skipped_loop_same (v : Cell) (k : CtrNo) :
    (skipped v k).loop k = { v.loop k with count := 0, active := false } := by
  simp [skipped]

theorem skipped_loop_other {v : Cell} {k j : CtrNo} (h : j ≠ k) : (skipped v k).loop j = v.loop j := by
  rw [skipped, setLoop_loop_other h, endLoop_loop_other h]

end Sys2Proof.Proofs
end

section
/-! PROOFS. Control flow and the loop counters (O6). -/

namespace Sys2Proof.Proofs
open Sys2Proof.Machine Sys2Proof.Laws

variable {s : State} {c : CellId} {a : PAddr} {n : Nat}

theorem retireFrame : Claims.RetireFrame := by
  refine fun v n => ⟨retire_frame v n, fun l w hl hends => ?_⟩
  have hleave : Cell.leaveWords (v.held.take n) v v.pc = (v, w.addr + 1) := by
    rw [hl] at hends ⊢
    exact leaveWords_of_noneEnds v.pc hends
  simp [retire_pc, retire_loops, retire_loopOrder, hleave]

theorem loopEndTest : Claims.LoopEndTest := by
  refine fun v k l addr => ⟨leaveWord_of_intrap addr, fun hintrap horder hact hstop => ?_, leaveWord_onlyLoops v addr⟩
  rw [leaveWord_of_not_intrap addr hintrap, horder]
  refine ⟨fun hcount => ?_, fun hcount hrest hk => ?_⟩
  · rw [testLoops_repeats hact hstop hcount]
    have hsub : ((v.loop k).count - 1).toNat = (v.loop k).count.toNat - 1 := by bv_omega
    exact ⟨rfl, by rw [setLoop_loop_same]; exact hsub, by simp [hact], fun j hj => setLoop_loop_other hj, horder⟩
  · have hnone : NoneEnds (exited v k) addr l := fun j hj => by
      rw [exited_loop_other (ne_of_mem_of_not_mem hj hk)]
      exact hrest j hj
    rw [testLoops_exits hact hstop hcount, testLoops_of_noneEnds hnone]
    exact ⟨rfl, by simp, by simp, fun j hj => exited_loop_other hj, exited_loopOrder horder hk⟩

theorem wordAfter : Claims.WordAfter := by
  refine fun v l w n => ⟨afterHead_of_take_eq, fun a hl hn haddr => ?_⟩
  have hw : w.addr = a + BitVec.ofNat 13 l.length := haddr l.length w (by simp)
  rw [afterHead_of_take_eq hl hn, hw, ← hn, BitVec.add_assoc, BitVec.ofNat_add]
  rfl

/-- What a call does when it comes to issue (R39). -/
theorem issue_callTo {i : Instr} {target : PAddr} {act : State → Cell → PAddr → Nat → Act}
    (h : s.ComesToIssue c i a n) (hact : act s (s.cell c) a n = callTo c target s (s.cell c) a n) :
    s.issue c i act = if 8 ≤ (s.cell c).rstack.length then s.afterTrap c a n 3 0
      else (s.modCell c fun v => { v with rstack := (s.cell c).afterHead n :: v.rstack }).afterBranch c i n target := by
  split
  next hfull => exact issue_trap h (by rw [hact, callTo, if_pos hfull])
  next hroom => exact issue_jump h (by rw [hact, callTo, if_neg hroom]; rfl)

theorem controlIssues : Claims.ControlIssues := by
  intro s c a n
  refine ⟨fun h => ?nop, fun t l h hstack => ?ret, fun h hstack => ?retEmpty, fun r h => ?jr, fun r h => ?callr,
    fun disp h => ?call, fun disp h => ?b, fun k disp h => ?bcc⟩
  case nop => exact congrArg Host.Outcome.next (issue_done h rfl)
  case ret => exact congrArg Host.Outcome.next (issue_jump h (by simp only [hstack]; rfl))
  case retEmpty => exact congrArg Host.Outcome.next (issue_trap h (by simp only [hstack]))
  case jr => exact congrArg Host.Outcome.next (issue_jump h rfl)
  case callr => exact congrArg Host.Outcome.next (issue_callTo h rfl)
  case call => exact congrArg Host.Outcome.next (issue_callTo h rfl)
  case b => exact congrArg Host.Outcome.next (issue_jump h rfl)
  case bcc =>
    refine congrArg Host.Outcome.next ?_
    split
    next hk => exact issue_jump h (by rw [if_pos hk])
    next hk => exact issue_done h (by rw [if_neg hk])

theorem loopCounterIssues : Claims.LoopCounterIssues := by
  intro s c a n k
  refine ⟨fun len t h htrips => ?skip, fun len t h htrips => ?setUp, fun h => ?lexit, fun r h => ?cwr⟩
  case skip =>
    refine ⟨skipped (s.cell c) k, congrArg Host.Outcome.next (issue_jump h (if_pos htrips)), ?_, ?_, rfl,
      fun j hj => skipped_loop_other hj, skipped_onlyLoops _ k⟩
    · rw [skipped_loop_same]
    · rw [skipped_loop_same]
  case setUp =>
    exact ⟨looped (s.cell c) k ⟨(s.cell c).trips t, (s.cell c).afterHead n,
        (s.cell c).afterHead n + len.setWidth 13 - 1, true⟩,
      congrArg Host.Outcome.next (issue_done h (if_neg htrips)), looped_loop_same _ k _, looped_loopOrder _ k _,
      fun j hj => looped_loop_other hj, looped_onlyLoops _ k _⟩
  case lexit =>
    refine ⟨(s.cell c).changeLoop n k fun v => v.endLoop k, congrArg Host.Outcome.next (issue_done h rfl), ?_, ?_,
      fun j hj => ?_, ?_⟩
    · rw [changeLoop_loop rfl, endLoop_loop_same]
    · rw [changeLoop_eq rfl, endLoop_loopOrder]
    · rw [changeLoop_loop rfl, endLoop_loop_other hj]
    · rw [changeLoop_eq rfl]
      exact ⟨rfl, (endLoop_onlyLoops _ k).withHeld _⟩
  case cwr =>
    refine ⟨(s.cell c).changeLoop n k fun v => v.setLoop k { v.loop k with count := (v.s r).setWidth 24 },
      congrArg Host.Outcome.next (issue_done h rfl), ?_, fun j hj => ?_, ?_⟩
    · rw [changeLoop_loop rfl, setLoop_loop_same]
    · rw [changeLoop_loop rfl, setLoop_loop_other hj]
    · rw [changeLoop_eq rfl]
      exact ⟨rfl, rfl⟩

/-- Settles O6: the end tests change loop state alone, an instruction that comes to issue answers by its act, and every
change of a counter's loop is an update of that counter and of the order of active loops. -/
theorem controlAndLoops : Obligations.ControlAndLoops :=
  ⟨retireFrame, loopEndTest, wordAfter, controlIssues, loopCounterIssues⟩

end Sys2Proof.Proofs
end

section
/-! PROOFS. What trap entry and the faults of the ward leave of the cells. -/

namespace Sys2Proof.Proofs
open Sys2Proof.Machine Sys2Proof.Laws

/-! ### Cells that a change leaves alone -/

theorem modCell_cell_same (s : State) (c : CellId) (g : Cell → Cell) : (s.modCell c g).cell c = g (s.cell c) := by
  simp [modCell_eq]

theorem modCell_cell_other {s : State} {c d : CellId} (g : Cell → Cell) (h : d ≠ c) :
    (s.modCell c g).cell d = s.cell d := setCell_cell_other s _ h

@[simp] theorem notice_cell (s : State) (kind len : Nat) (body : List Byte) (c : CellId) :
    (s.notice kind len body).cell c = s.cell c := by
  simp [State.notice, modPort_eq]

@[simp] theorem notice_faultSeq (s : State) (kind len : Nat) (body : List Byte) :
    (s.notice kind len body).faultSeq = s.faultSeq := by
  simp [State.notice, modPort_eq]

@[simp] theorem plotEvent_cell (s : State) (p : PlotId) (ev : BitVec 5) (c : CellId) :
    (s.plotEvent p ev).cell c = s.cell c := by
  unfold State.plotEvent
  dsimp only
  split <;> simp

@[simp] theorem plotEvent_faultSeq (s : State) (p : PlotId) (ev : BitVec 5) :
    (s.plotEvent p ev).faultSeq = s.faultSeq := by
  unfold State.plotEvent
  dsimp only
  split <;> simp

@[simp] theorem faultNotice_cell (s : State) (p : Option PlotId) (cls number unit flags : Nat) (detail : List Byte)
    (c : CellId) : (s.faultNotice p cls number unit flags detail).cell c = s.cell c := by
  cases p <;> simp [State.faultNotice]

@[simp] theorem faultNotice_faultSeq (s : State) (p : Option PlotId) (cls number unit flags : Nat) (detail : List Byte) :
    (s.faultNotice p cls number unit flags detail).faultSeq = s.faultSeq := by
  cases p <;> simp [State.faultNotice]

/-! ### Staging abandoned (R142; log entry 34) -/

theorem abandon_of_not_staging {v : Cell} (h : v.staging = false) : v.abandon = v := by
  simp [Cell.abandon, h]

theorem abandon_of_staging {v : Cell} (h : v.staging = true) :
    v.abandon = { v with staging := false, board := v.board.filter fun e => e.owner != .staging } := by
  simp [Cell.abandon, Cell.release, h]

/-- Abandoning changes the staging and the scoreboard only. -/
theorem abandon_frame (v : Cell) : v.abandon = { v with staging := v.abandon.staging, board := v.abandon.board } := by
  cases h : v.staging with
  | false => rw [abandon_of_not_staging h]
  | true => rw [abandon_of_staging h]

@[simp] theorem abandon_staging (v : Cell) : v.abandon.staging = false := by
  cases h : v.staging with
  | false => rw [abandon_of_not_staging h, h]
  | true => rw [abandon_of_staging h]

theorem abandon_arith (v : Cell) (x : Option PAddr) : { v with arith := x }.abandon = { v.abandon with arith := x } := by
  cases h : v.staging <;> simp [Cell.abandon, Cell.release, h]

theorem freeze_freeze (v : Cell) : v.freeze.freeze = v.freeze :=
  congrArg (fun u : Cell => { u with frozen := true })
    (abandon_of_not_staging (v := v.freeze) (abandon_staging v))

/-! ### What a stop and a freeze keep of a trap's record -/

/-- A cell with the run state and the trap record of another one: what stops a cell again keeps them. -/
structure SameRecord (v v' : Cell) : Prop where
  run : v'.run = v.run
  wait : v'.wait = v.wait
  double : v'.doubleTrap = v.doubleTrap
  info : v'.info = v.info
  raw : v'.raw = v.raw
  cause : v'.cause = v.cause
  epc : v'.epc = v.epc

theorem SameRecord.refl (v : Cell) : SameRecord v v := ⟨rfl, rfl, rfl, rfl, rfl, rfl, rfl⟩

theorem abandon_sameRecord (v : Cell) : SameRecord v v.abandon := by
  rw [abandon_frame]
  exact ⟨rfl, rfl, rfl, rfl, rfl, rfl, rfl⟩

theorem freeze_sameRecord (v : Cell) : SameRecord v v.freeze := by
  obtain ⟨hrun, hwait, hdouble, hinfo, hraw, hcause, hepc⟩ := abandon_sameRecord v
  exact ⟨hrun, hwait, hdouble, hinfo, hraw, hcause, hepc⟩

/-! ### Faults freeze cells (R445, R449) -/

/-- A later state in which some cells are frozen and the cells are otherwise the same, with the same number for the next
fault. -/
structure Freezes (s t : State) : Prop where
  seq : t.faultSeq = s.faultSeq
  cells : ∀ c, t.cell c = s.cell c ∨ t.cell c = (s.cell c).freeze

theorem Freezes.refl (s : State) : Freezes s s := ⟨rfl, fun _ => .inl rfl⟩

theorem Freezes.of_eq {s t : State} (hseq : t.faultSeq = s.faultSeq) (hcells : ∀ c, t.cell c = s.cell c) : Freezes s t :=
  ⟨hseq, fun c => .inl (hcells c)⟩

theorem Freezes.cell_of_eq {s t : State} {c : CellId} {v : Cell} (h : Freezes s t) (hv : s.cell c = v) :
    t.cell c = v ∨ t.cell c = v.freeze := by
  rw [← hv]
  exact h.cells c

theorem Freezes.trans {s t u : State} (h : Freezes s t) (h' : Freezes t u) : Freezes s u := by
  refine ⟨h'.seq.trans h.seq, fun c => ?_⟩
  rcases h.cells c with hst | hst <;> rcases h'.cells c with htu | htu <;> rw [htu, hst]
  · exact .inl rfl
  · exact .inr rfl
  · exact .inr rfl
  · exact .inr (freeze_freeze _)

theorem modCell_freeze_freezes (s : State) (c : CellId) : Freezes s (s.modCell c Cell.freeze) := by
  refine ⟨rfl, fun d => ?_⟩
  by_cases h : d = c
  · subst h
    exact .inr (modCell_cell_same s d _)
  · exact .inl (modCell_cell_other _ h)

theorem modCells_freeze_freezes (s : State) (l : List CellId) : Freezes s (s.modCells l Cell.freeze) :=
  List.foldlRecOn l _ (.refl s) fun t ht c _ => ht.trans (modCell_freeze_freezes t c)

theorem plotFaulted_freezes (s : State) (p : PlotId) (cls number : Nat) : Freezes s (s.plotFaulted p cls number) := by
  refine (modCells_freeze_freezes s (s.plot p).cells).trans (.of_eq ?_ fun c => ?_)
  · simp [State.plotFaulted, modPlot_eq]
  · simp [State.plotFaulted, modPlot_eq]

/-- A fault changes a cell only by freezing it, and takes the next number (R445). -/
theorem fault_freezes (s : State) (cls unit : Nat) (detail : List Byte) (flags : Nat) (ps : List PlotId) :
    Freezes { s with faultSeq := s.faultSeq + 1 } (s.fault cls unit detail flags ps) := by
  cases ps with
  | nil => exact .of_eq (by simp [State.fault]) fun c => by simp [State.fault]
  | cons p ps =>
    refine List.foldlRecOn (p :: ps) _ (.refl _) fun t ht q _ => ht.trans ?_
    split
    · exact (plotFaulted_freezes t q cls s.faultSeq.toNat).trans (.of_eq (by simp) fun c => by simp)
    · exact .of_eq (by simp) fun c => by simp

/-! ### CL_TRAP_RAW -/

theorem rawOf_toNat_one (w₀ : Word14) : (rawOf [w₀]).toNat = w₀.toNat + 2 ^ 42 := by
  simp only [rawOf, List.drop, List.head?, Option.getD, List.length, BitVec.ofNat_eq_ofNat,
    BitVec.toNat_ofNat]
  omega

theorem rawOf_toNat_two (w₀ w₁ : Word14) : (rawOf [w₀, w₁]).toNat = w₀.toNat + w₁.toNat * 2 ^ 14 + 2 * 2 ^ 42 := by
  simp only [rawOf, List.drop, List.head?, Option.getD, List.length, BitVec.ofNat_eq_ofNat,
    BitVec.toNat_ofNat]
  omega

theorem rawOf_toNat_three (w₀ w₁ w₂ : Word14) :
    (rawOf [w₀, w₁, w₂]).toNat = w₀.toNat + w₁.toNat * 2 ^ 14 + w₂.toNat * 2 ^ 28 + 3 * 2 ^ 42 := by
  simp only [rawOf, List.drop, List.head?, Option.getD, List.length, BitVec.toNat_ofNat]
  omega

end Sys2Proof.Proofs
end

section
/-! PROOFS. Trap entry, returns from a handler and the arithmetic trap (O7). -/

namespace Sys2Proof.Proofs
open Sys2Proof.Machine Sys2Proof.Laws

variable {s : State} {c : CellId} {a : PAddr} {n cause : Nat} {info : Word}

theorem stagingAbandoned : Claims.StagingAbandoned := fun _ => ⟨abandon_of_not_staging, abandon_of_staging⟩

theorem afterTrap_of_not_intrap (h : (s.cell c).intrap = false) :
    s.afterTrap c a n cause info =
      s.setCell c ((s.cell c).enterTrap cause a info (rawOf (((s.cell c).held.take n).map (·.word)))) := by
  simp [State.afterTrap, State.precise, h]

theorem afterTrap_of_intrap (h : (s.cell c).intrap = true) :
    s.afterTrap c a n cause info = s.cellStops c cause a true := by
  simp [State.afterTrap, State.precise, h]

/-- What a cell is left as where it stops in FAULTED, before its plot faults. -/
def stopped (v : Cell) (double : Bool) : Cell := { v.abandon with run := .faulted, wait := none, doubleTrap := double }

theorem cellStops_freezes (s : State) (c : CellId) (cause : Nat) (epc : PAddr) (double : Bool) :
    Freezes { s.setCell c (stopped (s.cell c) double) with faultSeq := s.faultSeq + 1 } (s.cellStops c cause epc double) :=
  fault_freezes _ _ _ _ _ _

/-- A cell that stops has the record of a stopped cell, frozen or not. -/
theorem cellStops_sameRecord (s : State) (c : CellId) (cause : Nat) (epc : PAddr) (double : Bool) :
    SameRecord (stopped (s.cell c) double) ((s.cellStops c cause epc double).cell c) := by
  rcases (cellStops_freezes s c cause epc double).cell_of_eq (setCell_cell_same s c _) with h | h <;> rw [h]
  · exact .refl _
  · exact freeze_sameRecord _

theorem trapEntry : Claims.TrapEntry := by
  refine fun s c a n cause info _ => ⟨fun h => ?_, fun h => ?_⟩
  · rw [afterTrap_of_not_intrap h]
    exact ⟨setCell_cell_same s c _, fun d hd => setCell_cell_other s _ hd, rfl⟩
  · rw [afterTrap_of_intrap h]
    obtain ⟨hrun, hwait, hdouble, hinfo, hraw, hcause, hepc⟩ := cellStops_sameRecord s c cause a true
    obtain ⟨-, -, -, hinfo', hraw', hcause', hepc'⟩ := abandon_sameRecord (s.cell c)
    exact ⟨hrun, hwait, hdouble, hinfo.trans hinfo', hraw.trans hraw', hcause.trans hcause', hepc.trans hepc',
      (cellStops_freezes s c cause a true).seq⟩

theorem trapRawFields : Claims.TrapRawFields := by
  intro w₀ w₁ w₂
  simp only [bits, rawOf_toNat_one, rawOf_toNat_two, rawOf_toNat_three]
  omega

theorem trapEntries : Claims.TrapEntries := ⟨stagingAbandoned, trapEntry, trapRawFields⟩

/-! ### Returns from a handler (R54, R56) -/

/-- Counting an issue notes the PUSH in its cell, and counts in the tally. -/
theorem countIssue_cell_same (s : State) (c : CellId) (i : Instr) :
    (s.countIssue c i).cell c = { s.cell c with pushed := pushOf i } := by
  unfold State.countIssue
  dsimp only
  split <;> simp only [count_cell, modCell_cell_same]

theorem countIssue_cell_other {i : Instr} {d : CellId} (h : d ≠ c) : (s.countIssue c i).cell d = s.cell d := by
  unfold State.countIssue
  dsimp only
  split <;> simp only [count_cell, modCell_cell_other _ h]

/-- Two states differ in their cells and in the tally only. -/
def OnlyCellsAndTally (s t : State) : Prop := t = { s with cells := t.cells, tally := t.tally }

theorem OnlyCellsAndTally.trans {s t u : State} (h : OnlyCellsAndTally s t) (h' : OnlyCellsAndTally t u) :
    OnlyCellsAndTally s u := by
  unfold OnlyCellsAndTally at *
  rw [h', h]

theorem setCell_onlyCellsAndTally (s : State) (c : CellId) (v : Cell) : OnlyCellsAndTally s (s.setCell c v) := rfl

theorem countIssue_onlyCellsAndTally (s : State) (c : CellId) (i : Instr) : OnlyCellsAndTally s (s.countIssue c i) := by
  unfold State.countIssue
  dsimp only
  split <;> rfl

/-- What a return from a handler leaves: execution goes on at the target, with nothing held. -/
def returned (s : State) (c : CellId) (i : Instr) (target : PAddr) : State :=
  ((s.setCell c { s.cell c with intrap := false }).modCell c fun v => { v with pc := target, held := [] }).countIssue c i

theorem returned_cell_same (s : State) (c : CellId) (i : Instr) (target : PAddr) :
    (returned s c i target).cell c =
      { s.cell c with intrap := false, pc := target, held := [], pushed := pushOf i } := by
  rw [returned, countIssue_cell_same, modCell_cell_same, setCell_cell_same]

theorem returned_cell_other {i : Instr} {target : PAddr} {d : CellId} (h : d ≠ c) :
    (returned s c i target).cell d = s.cell d := by
  rw [returned, countIssue_cell_other h, modCell_cell_other _ h, setCell_cell_other _ _ h]

theorem returned_onlyCellsAndTally (s : State) (c : CellId) (i : Instr) (target : PAddr) :
    OnlyCellsAndTally s (returned s c i target) :=
  ((setCell_onlyCellsAndTally s c _).trans (setCell_onlyCellsAndTally _ c _)).trans (countIssue_onlyCellsAndTally _ c i)

theorem issue_return {i : Instr} {target : PAddr} {act : State → Cell → PAddr → Nat → Act} (h : s.ComesToIssue c i a n)
    (hact : act s (s.cell c) a n = .leave (s.setCell c { s.cell c with intrap := false }) target) :
    s.issue c i act = returned s c i target := by
  rw [issue_eq h, hact]
  rfl

/-! ### The arithmetic trap (R51, R55, R57) -/

theorem execArithTrap_taken {x : PAddr} (harith : (s.cell c).arith = some x) (hruns : s.canRun c = true)
    (hintrap : (s.cell c).intrap = false) :
    exec (.arithTrap c) s =
      .next (s.setCell c ({ s.cell c with arith := none }.enterTrap 11 (s.cell c).pc (x.setWidth 32) 0)) := by
  change execArithTrap c s = _
  simp [execArithTrap, harith, hruns, hintrap]

theorem execArithTrap_not_taken
    (h : (s.cell c).arith = none ∨ s.canRun c = false ∨ (s.cell c).intrap = true) : exec (.arithTrap c) s = .next s := by
  change execArithTrap c s = _
  unfold execArithTrap
  cases harith : (s.cell c).arith with
  | none => simp only [harith]
  | some x =>
    have hheld : (s.canRun c && !(s.cell c).intrap) = false := by
      rcases h with h | h | h
      · rw [harith] at h; cases h
      · simp [h]
      · simp [h]
    simp [harith, hheld]

theorem trapsAndReturnsClaim : Claims.TrapsAndReturns := by
  intro s c a n
  refine ⟨fun code h => ?trap, fun h hin => ?tret, fun h hin => ?tretSkip, fun h hout => ?tretOutside,
    fun h hout => ?tretSkipOutside, fun x harith hruns hin => ?arithTrap, execArithTrap_not_taken⟩
  case trap => exact congrArg Host.Outcome.next (issue_trap h rfl)
  case tret =>
    exact ⟨returned s c (.tret c) (s.cell c).epc, congrArg Host.Outcome.next (issue_return h (if_pos hin)),
      returned_cell_same s c _ _, fun d hd => returned_cell_other hd, returned_onlyCellsAndTally s c _ _⟩
  case tretSkip =>
    exact ⟨returned s c (.tretSkip c) ((s.cell c).epc + BitVec.ofNat 13 (bits (s.cell c).raw 43 42)),
      congrArg Host.Outcome.next (issue_return h (if_pos hin)),
      returned_cell_same s c _ _, fun d hd => returned_cell_other hd, returned_onlyCellsAndTally s c _ _⟩
  case tretOutside => exact congrArg Host.Outcome.next (issue_trap h (if_neg (Bool.eq_false_iff.1 hout)))
  case tretSkipOutside => exact congrArg Host.Outcome.next (issue_trap h (if_neg (Bool.eq_false_iff.1 hout)))
  case arithTrap =>
    refine ⟨_, execArithTrap_taken harith hruns hin, ?_, fun d hd => setCell_cell_other s _ hd, rfl⟩
    rw [setCell_cell_same, Cell.enterTrap, abandon_arith]
    rfl

/-- Settles O7: a trap inside a handler stops the cell, and a fault changes cells by freezing them only, which keeps the
record of the first trap; a return issues as any other instruction, without end tests. -/
theorem trapsAndReturns : Obligations.TrapsAndReturns := ⟨trapEntries, trapsAndReturnsClaim⟩

end Sys2Proof.Proofs
end

section
/-! PROOFS. What settling, retiring and completing keep of a cell's registers, results and condition bits. -/

namespace Sys2Proof.Proofs
open Sys2Proof.Machine Sys2Proof.Laws

/-! ### Data that issue, traps and faults keep -/

/-- A cell with the registers, the condition bits and the unwritten results of another one. -/
structure SameData (v v' : Cell) : Prop where
  results : v'.results = v.results
  sregs : v'.sregs = v.sregs
  vregs : v'.vregs = v.vregs
  cond : v'.cond = v.cond

theorem SameData.refl (v : Cell) : SameData v v := ⟨rfl, rfl, rfl, rfl⟩

theorem SameData.trans {v v' v'' : Cell} (h : SameData v v') (h' : SameData v' v'') : SameData v v'' :=
  ⟨h'.results.trans h.results, h'.sregs.trans h.sregs, h'.vregs.trans h.vregs, h'.cond.trans h.cond⟩

theorem abandon_sameData (v : Cell) : SameData v v.abandon := by
  rw [abandon_frame]
  exact ⟨rfl, rfl, rfl, rfl⟩

theorem freeze_sameData (v : Cell) : SameData v v.freeze :=
  (abandon_sameData v).trans ⟨rfl, rfl, rfl, rfl⟩

theorem stopped_sameData (v : Cell) (double : Bool) : SameData v (stopped v double) :=
  (abandon_sameData v).trans ⟨rfl, rfl, rfl, rfl⟩

theorem enterTrap_sameData (v : Cell) (cause : Nat) (epc : PAddr) (info : Word) (raw : DWord) :
    SameData v (v.enterTrap cause epc info raw) :=
  (abandon_sameData v).trans ⟨rfl, rfl, rfl, rfl⟩

theorem retire_sameData (v : Cell) (n : Nat) : SameData v (v.retire n) := by
  rw [retire_frame]
  exact ⟨rfl, rfl, rfl, rfl⟩

/-- A later state whose cells have the data that they had. -/
def KeepsData (s t : State) : Prop := ∀ d, SameData (s.cell d) (t.cell d)

theorem KeepsData.refl (s : State) : KeepsData s s := fun _ => .refl _

theorem KeepsData.trans {s t u : State} (h : KeepsData s t) (h' : KeepsData t u) : KeepsData s u :=
  fun d => (h d).trans (h' d)

theorem setCell_keepsData {s : State} {c : CellId} {v : Cell} (h : SameData (s.cell c) v) :
    KeepsData s (s.setCell c v) := by
  intro d
  by_cases hd : d = c
  · rw [hd, setCell_cell_same]
    exact h
  · rw [setCell_cell_other s v hd]
    exact .refl _

theorem Freezes.keepsData {s t : State} (h : Freezes s t) : KeepsData s t := by
  intro d
  rcases h.cells d with hd | hd <;> rw [hd]
  · exact .refl _
  · exact freeze_sameData _

theorem cellStops_keepsData (s : State) (c : CellId) (cause : Nat) (epc : PAddr) (double : Bool) :
    KeepsData s (s.cellStops c cause epc double) :=
  (setCell_keepsData (stopped_sameData (s.cell c) double)).trans (cellStops_freezes s c cause epc double).keepsData

theorem precise_keepsData (s : State) (c : CellId) (cause : Nat) (epc : PAddr) (info : Word) (raw : DWord) :
    KeepsData s (s.precise c cause epc info raw) := by
  unfold State.precise
  dsimp only
  split
  · exact cellStops_keepsData s c cause epc true
  · exact setCell_keepsData (enterTrap_sameData _ cause epc info raw)

/-! ### Settling and issue -/

/-- What settling a cell's head can leave (R38, R52): the state itself, a trap of the head, or a parity error that counts
in the hub and then traps or stops the cell. -/
inductive Settles (s : State) (c : CellId) : State → Prop
  | same : Settles s c s
  | traps (cause : Nat) (epc : PAddr) (raw : DWord) : Settles s c (s.precise c cause epc 0 raw)
  | parityTraps (g : Hub → Hub) (epc : PAddr) (raw : DWord) :
      Settles s c ((s.modHub (fieldOf c) g).precise c 12 epc 0 raw)
  | parityStops (g : Hub → Hub) (epc : PAddr) : Settles s c ((s.modHub (fieldOf c) g).cellStops c 12 epc false)

theorem settle_settles (s : State) (c : CellId) : Settles s c (s.settle c) := by
  unfold State.settle
  extract_lets v
  split
  next => exact .same
  next =>
    split
    next => exact .same
    next w l hheld =>
      split
      next => exact .traps ..
      next =>
        split
        next =>
          split
          next => exact .parityStops ..
          next => exact .parityTraps ..
        next =>
          split
          next => exact .traps ..
          next => exact .same

theorem Settles.keepsData {s t : State} {c : CellId} (h : Settles s c t) : KeepsData s t := by
  cases h with
  | same => exact .refl s
  | traps cause epc raw => exact precise_keepsData s c cause epc 0 raw
  | parityTraps g epc raw => exact precise_keepsData (s.modHub (fieldOf c) g) c 12 epc 0 raw
  | parityStops g epc => exact cellStops_keepsData (s.modHub (fieldOf c) g) c 12 epc false

theorem settle_keepsData (s : State) (c : CellId) : KeepsData s (s.settle c) := (settle_settles s c).keepsData

theorem countIssue_keepsData (s : State) (c : CellId) (i : Instr) : KeepsData s (s.countIssue c i) := by
  intro d
  by_cases hd : d = c
  · rw [hd, countIssue_cell_same]
    exact ⟨rfl, rfl, rfl, rfl⟩
  · rw [countIssue_cell_other hd]
    exact .refl _

/-- Once an instruction has taken effect, its retirement and count keep the data of every cell. -/
theorem afterIssue_keepsData (t : State) (c : CellId) (i : Instr) (n : Nat) : KeepsData t (t.afterIssue c i n) :=
  ((setCell_keepsData (retire_sameData _ n)).trans (settle_keepsData _ c)).trans (countIssue_keepsData _ c i)

/-! ### Completion of a unit's oldest result (R31) -/

theorem takeResult_of_first {u : ExecUnit} {l₁ l₂ : List Result} {r : Result} (hr : r.unit = u)
    (hfirst : ∀ x ∈ l₁, x.unit ≠ u) : takeResult u (l₁ ++ r :: l₂) = some (r, l₁ ++ l₂) := by
  induction l₁ with
  | nil => simp [takeResult, hr]
  | cons x l₁ ih =>
    have hrest := ih fun y hy => hfirst y (List.mem_cons_of_mem x hy)
    simp [takeResult, hfirst x List.mem_cons_self, hrest]

theorem execUnitCompletion_of_first {s : State} {c : CellId} {u : ExecUnit} {l₁ l₂ : List Result} {r : Result}
    (hl : (s.cell c).results = l₁ ++ r :: l₂) (hr : r.unit = u) (hfirst : ∀ x ∈ l₁, x.unit ≠ u) :
    exec (.unitCompletion c u) s =
      .next ((s.setCell c ({ s.cell c with results := l₁ ++ l₂ }.complete r)).settle c) := by
  change execUnitCompletion c u s = _
  simp only [execUnitCompletion, hl, takeResult_of_first hr hfirst]

/-- The condition bits once a result is written: those that it names, and the others as they were. -/
def condAfter (r : Result) (f : CondBits) : CondBits :=
  { z := (r.zn.map (·.1)).getD f.z, n := (r.zn.map (·.2)).getD f.n, c := r.c.getD f.c, v := r.v.getD f.v }

theorem foldl_setV_cond (l : List (VReg × Vec512)) (v : Cell) :
    (l.foldl (fun v d => v.setV d.1 d.2) v).cond = v.cond :=
  List.foldlRecOn (motive := fun v' : Cell => v'.cond = v.cond) l _ rfl fun _ h _ _ => h

theorem complete_cond (v : Cell) (r : Result) : (v.complete r).cond = condAfter r v.cond := by
  cases hs : r.sdst <;> cases hz : r.zn <;>
    simp [Cell.complete, Cell.raiseFlags, condAfter, foldl_setV_cond, hs, hz, Cell.setS]

end Sys2Proof.Proofs
end

section
/-! PROOFS. Scalar ALU instructions at issue, and their condition bits (O4). -/

namespace Sys2Proof.Proofs
open Sys2Proof.Machine Sys2Proof.Laws

/-! ### Condition bits in whole numbers (R80) -/

theorem msb_iff_toInt_neg (x : Word) : x.msb = true ↔ x.toInt < 0 := by
  rw [BitVec.msb_eq_toInt, decide_eq_true_iff]

theorem ofAdd_v (x y : Word) : (CondBits.ofAdd x y).v = x.saddOverflow y := (BitVec.saddOverflow_eq x y).symm

theorem ofSub_v (x y : Word) : (CondBits.ofSub x y).v = x.ssubOverflow y := by
  rw [BitVec.ssubOverflow_eq, CondBits.ofSub]
  cases x.msb <;> cases y.msb <;> simp

theorem saddOverflow_iff (x y : Word) :
    x.saddOverflow y = true ↔ x.toInt + y.toInt < -2147483648 ∨ 2147483647 < x.toInt + y.toInt := by
  simp only [BitVec.saddOverflow, Bool.or_eq_true, decide_eq_true_iff]
  omega

theorem ssubOverflow_iff (x y : Word) :
    x.ssubOverflow y = true ↔ x.toInt - y.toInt < -2147483648 ∨ 2147483647 < x.toInt - y.toInt := by
  simp only [BitVec.ssubOverflow, Bool.or_eq_true, decide_eq_true_iff]
  omega

theorem scalarConditionBits : Claims.ScalarConditionBits := by
  refine fun x y => ⟨decide_eq_true_iff, ?_, ?_, msb_iff_toInt_neg _, decide_eq_true_iff, ?_, ?_, msb_iff_toInt_neg _⟩
  · rw [ofAdd_v, saddOverflow_iff]
  · exact beq_iff_eq.trans BitVec.toNat_inj.symm
  · rw [ofSub_v, ssubOverflow_iff]
  · exact beq_iff_eq.trans sub_eq_zero

/-! ### Values of R79 in whole numbers -/

theorem append_low_half (k : BitVec 16) (x : Word) :
    k ++ x.setWidth 16 = BitVec.ofNat 32 (k.toNat * 65536 + x.toNat % 65536) := by
  apply BitVec.eq_of_toNat_eq
  have hlow : (x.setWidth 16).toNat < 2 ^ 16 := (x.setWidth 16).isLt
  rw [BitVec.toNat_append, ← Nat.shiftLeft_add_eq_or_of_lt hlow, Nat.shiftLeft_eq, BitVec.toNat_setWidth,
    BitVec.toNat_ofNat]
  omega

theorem shiftLeft_eq_ofNat (x : Word) (n : Nat) : x <<< n = BitVec.ofNat 32 (x.toNat * 2 ^ n) := by
  rw [← Nat.shiftLeft_eq]
  rfl

theorem ushiftRight_eq_ofNat (x : Word) (n : Nat) : x >>> n = BitVec.ofNat 32 (x.toNat / 2 ^ n) := by
  rw [← Nat.shiftRight_eq_div_pow, ← BitVec.toNat_ushiftRight, BitVec.ofNat_toNat, BitVec.setWidth_eq]

theorem sshiftRight_eq_ofInt (x : Word) (n : Nat) : x.sshiftRight n = BitVec.ofInt 32 (x.toInt / 2 ^ n) := by
  rw [BitVec.sshiftRight, Int.shiftRight_eq_div_pow, Nat.cast_pow, Nat.cast_ofNat]

theorem mul_eq_ofNat (x y : Word) : x * y = BitVec.ofNat 32 (x.toNat * y.toNat) := by
  rw [BitVec.ofNat_mul, BitVec.ofNat_toNat, BitVec.ofNat_toNat, BitVec.setWidth_eq, BitVec.setWidth_eq]

theorem maxSigned_strict (x y : Word) :
    (if x.toInt ≤ y.toInt then y else x) = if x.toInt < y.toInt then y else x := by
  rcases lt_trichotomy x.toInt y.toInt with h | h | h
  · rw [if_pos h.le, if_pos h]
  · rw [BitVec.toInt_inj.1 h, ite_self, ite_self]
  · rw [if_neg h.not_ge, if_neg h.not_gt]

theorem maxUnsigned_strict (x y : Word) :
    (if x.toNat ≤ y.toNat then y else x) = if x.toNat < y.toNat then y else x := by
  rcases lt_trichotomy x.toNat y.toNat with h | h | h
  · rw [if_pos h.le, if_pos h]
  · rw [BitVec.toNat_inj.1 h, ite_self, ite_self]
  · rw [if_neg h.not_ge, if_neg h.not_gt]

/-! ### Issue -/

variable {s : State} {c : CellId} {i : Instr} {a : PAddr} {n : Nat} {r : Result}

/-- A scalar ALU instruction that comes to issue hands its result to the unit. -/
theorem scalarOp_issues {f : Cell → PAddr → Result} (h : s.ComesToIssue c i a n) (hf : f (s.cell c) a = r) :
    scalarOp c i f s = .next ((s.modCell c fun v => v.push r).afterIssue c i n) := by
  subst hf
  exact congrArg Host.Outcome.next (issue_done h rfl)

theorem scalarAluIssues : Claims.ScalarAluIssues := by
  intro s c i a n r h hcell hr
  cases i with
  | add _ _ _ _ | addi _ _ _ | sub _ _ _ _ | cmp _ _ _ | mov _ _ _ | and _ _ _ _ | or _ _ _ _ | xor _ _ _ _
  | mulh _ _ _ _ | min _ _ _ _ | minu _ _ _ _ =>
    cases hcell
    exact scalarOp_issues h (Option.some.inj hr)
  | movh _ _ _ | shl _ _ _ _ | shr _ _ _ _ | sra _ _ _ _ | mul _ _ _ _ | max _ _ _ _ | maxu _ _ _ _ =>
    cases hcell
    refine scalarOp_issues h (Option.some.inj (Eq.trans ?_ hr))
    simp only [aluResult, append_low_half, shiftLeft_eq_ofNat, ushiftRight_eq_ofNat, sshiftRight_eq_ofInt, mul_eq_ofNat,
      maxSigned_strict, maxUnsigned_strict]
  | crd _ k d =>
    cases hcell
    exact scalarOp_issues h ((congrArg (resultPlain a d) (BitVec.ofNat_toNat 32 _).symm).trans (Option.some.inj hr))
  | _ => cases hr

/-! ### Condition bits after completion -/

/-- A scalar ALU instruction has a result of the scalar unit, and names C and V only where it writes them. -/
theorem aluResult_spec {v : Cell} (h : aluResult v a i = some r) :
    r.unit = .scalar ∧ (Claims.writesCarry i = false → r.c = none ∧ r.v = none) := by
  unfold aluResult at h
  split at h <;> cases h <;> simp [resultZNCV, resultZN, resultPlain, Claims.writesCarry]

/-- The condition bits of a cell after a scalar ALU instruction's issue and its unit's completion are those of its
result. -/
theorem scalarAlu_completes (h : s.ComesToIssue c i a n) (hcell : i.cellOf = some c)
    (hr : aluResult (s.cell c) a i = some r) (hidle : ∀ x ∈ (s.cell c).results, x.unit ≠ .scalar) :
    ∃ t u : State, exec i s = .next t ∧ exec (.unitCompletion c .scalar) t = .next u ∧
      (u.cell c).cond = condAfter r (s.cell c).cond := by
  have hissued := afterIssue_keepsData (s.modCell c fun v => v.push r) c i n c
  rw [modCell_cell_same] at hissued
  have hlast := hissued.results
  refine ⟨_, _, scalarAluIssues s c i a n r h hcell hr,
    execUnitCompletion_of_first hlast (aluResult_spec hr).1 hidle, ?_⟩
  rw [(settle_keepsData _ c c).cond, setCell_cell_same, complete_cond]
  exact congrArg (condAfter r) hissued.cond

theorem condAfter_resultZNCV (a : PAddr) (d : Option (SReg × Word)) (f g : CondBits) :
    condAfter (resultZNCV a d f) g = f := rfl

theorem conditionBits : Claims.ConditionBits := by
  refine ⟨scalarConditionBits, fun s c i a n r h hcell hr hidle => ?_⟩
  obtain ⟨t, u, ht, hu, hcond⟩ := scalarAlu_completes h hcell hr hidle
  refine ⟨t, u, ht, hu, fun d x y hi => ?add, fun d k hi => ?addi, fun d x y hi => ?sub, fun x y hi => ?cmp,
    fun hi => ?others⟩
  case others =>
    obtain ⟨hc, hv⟩ := (aluResult_spec hr).2 hi
    rw [hcond, condAfter, hc, hv]
    exact ⟨rfl, rfl⟩
  all_goals
    subst hi
    cases hr
    exact hcond.trans (condAfter_resultZNCV _ _ _ _)

/-- Settles O4: a scalar ALU instruction's act is to hand its result to the unit; retiring, settling and counting keep the
unit's results and the condition bits, so its completion writes the bits that the result names. -/
theorem scalarAlu : Obligations.ScalarAlu := ⟨scalarAluIssues, conditionBits⟩

end Sys2Proof.Proofs
end
